-- ==== Sys2Proof/Word.lean ====
section
/-! DEFINITION. The byte of the box port and of the link frames, and the two identifiers that the manual writes as a
pair (00_scope.md, Identifiers). -/

namespace Sys2Proof

/-- One byte as it stands on MOSI, MISO or in a frame's payload. -/
abbrev Byte := BitVec 8

/-- A booking id: origin station 1..8 and serial 1..65,535 (R4). -/
structure BookingId where
  origin : Nat
  serial : Nat
deriving DecidableEq, Repr

/-- A link id: station 1..8 and serial 1..65,535 (R43). -/
structure LinkId where
  origin : Nat
  serial : Nat
deriving DecidableEq, Repr

end Sys2Proof
end

