-- ==== Sys2Proof/Config.lean ====
section
/-! DEFINITION. The configuration record (R190) with its defaults, and the free values: what the spec does not fix. -/

namespace Sys2Proof

/-- The configuration record of R190, in the order of its table. `clash` is the clash policy vector, incumbent class
major, true for REFER. -/
structure Settings where
  station : Nat
  household : Nat
  fitted : Nat
  rollPeriod : Nat
  window : Nat
  debounce : Bool
  skew : Nat
  clash : List Bool
  liveRefer : Bool
  depth : Nat
  bidWindow : Nat
  takeTimeout : Nat
  seekLimit : Nat
  tuneLead : Nat
  tuneTimeout : Nat
  recheck : Nat
  grace : Nat
  overrun : Nat
deriving DecidableEq, Repr

/-- The defaults that cold reset gives (R190). -/
def Settings.default : Settings where
  station := 1
  household := 0
  fitted := 2
  rollPeriod := 5
  window := 8
  debounce := true
  skew := 10
  clash := List.replicate 4 true ++ List.replicate 12 false
  liveRefer := true
  depth := 2
  bidWindow := 1000
  takeTimeout := 2000
  seekLimit := 3
  tuneLead := 30
  tuneTimeout := 8
  recheck := 120
  grace := 15
  overrun := 60

/-- FREE VALUE (log entry 17). What MISO carries after the CRC byte of a response record that the box processor clocks
past: R184 names no byte there. Applied to a counter of State, so that each such byte is a fresh one. -/
opaque Config.freeByte : Nat → Byte

end Sys2Proof
end

