-- ==== Sys2Proof/Syntax.lean ====
section
/-! DEFINITION. The commands: one constructor of `Instr` for each row of spec/opcode_table.json, with the operands that
the row's rule gives it. Numeric, enumerated and yes/no fields of a request stand as the number that the record carries
(R183), so that a value outside its range can be sent and be refused. -/

namespace Sys2Proof

/-- The 37 bytes of CONFIGURE, setting by setting (R190). -/
structure ConfigFields where
  station : Nat
  household : Nat
  fitted : Nat
  rollPeriod : Nat
  window : Nat
  debounce : Nat
  skew : Nat
  clash : List Nat
  livePolicy : Nat
  depth : Nat
  bidWindow : Nat
  takeTimeout : Nat
  seekLimit : Nat
  tuneLead : Nat
  tuneTimeout : Nat
  recheck : Nat
  grace : Nat
  overrun : Nat
deriving DecidableEq, Repr

/-- The fields of BOOK (R9). -/
structure BookFields where
  service : Nat
  multiplex : Nat
  event : Option Nat
  start : Nat
  finish : Nat
  pre : Nat
  post : Nat
  priority : Nat
  follow : Nat
deriving DecidableEq, Repr

/-- The optional fields of AMEND (R12). -/
structure AmendFields where
  priority : Option Nat
  pre : Option Nat
  post : Option Nat
  follow : Option Nat
  start : Option Nat
  finish : Option Nat
deriving DecidableEq, Repr

/-- The starting handle of NEXT-BOOKING with the booking id expected of its entry, which may be absent (R2, R20, log entry
36). -/
structure StartAt where
  handle : Nat
  expect : Option BookingId
deriving DecidableEq, Repr

/-- A field of alternatives with its selector byte (R183): ANY or a service id. -/
inductive ScopeField
  | any
  | service (n : Nat)
  | other (selector : Nat)
deriving DecidableEq, Repr

/-- A field of alternatives with its selector byte (R183): OPEN or a number. -/
inductive CountField
  | unbounded
  | number (n : Nat)
  | other (selector : Nat)
deriving DecidableEq, Repr

/-- The fields of LINK (R46). -/
structure LinkFields where
  series : Nat
  scope : ScopeField
  priority : Nat
  pre : Nat
  post : Nat
  follow : Nat
  firstRun : Nat
  count : CountField
deriving DecidableEq, Repr

/-- What READ-LINK carries: a link id or a starting slot (R49). -/
inductive LinkKey
  | byId (id : LinkId)
  | fromSlot (slot : Nat)
  | other (selector : Nat)
deriving DecidableEq, Repr

/-- The fields of GUIDE-EVENT (R50). -/
structure GuideFields where
  service : Nat
  multiplex : Nat
  event : Nat
  start : Nat
  duration : Nat
  series : Option Nat
  episode : Option Nat
  repeated : Nat
deriving DecidableEq, Repr

/-- The envelope fields of a received frame that its receiver weighs (R126, R136). `sender` is the station number,
1..8, that the key's sender bits stand for. -/
structure FrameHead where
  household : Nat
  rank : Nat
  sender : Nat
deriving DecidableEq, Repr

/-- One tuner as a ROLL carries it (R129). `mux` is present when bit 7 of the state byte is set; `busy` is the short
form of busy-until. -/
structure RollTuner where
  state : Nat
  mux : Option Nat
  busy : Nat
  top : Nat
deriving DecidableEq, Repr

/-- The payload of ROLL (R129). -/
structure RollFields where
  incarnation : Nat
  sequence : Nat
  flags : Nat
  period : Nat
  clock : Nat
  day : Nat
  usable : Nat
  tuners : List RollTuner
deriving DecidableEq, Repr

/-- The payload of SEEK (R129). The event id field is 0 when absent; `flags` has bit 0 follow, bit 1 event id present. -/
structure SeekFields where
  tag : Nat
  id : BookingId
  number : Nat
  service : Nat
  multiplex : Nat
  event : Nat
  spanStart : Nat
  spanEnd : Nat
  pre : Nat
  post : Nat
  rank : Nat
  flags : Nat
  window : Nat
deriving DecidableEq, Repr

/-- The payload of BID (R129). -/
structure BidFields where
  id : BookingId
  number : Nat
  cost : Nat
  tuner : Nat
  displaced : Nat
deriving DecidableEq, Repr

/-- The payload of AWARD (R129). -/
structure AwardFields where
  id : BookingId
  number : Nat
  awardee : Nat
  tuner : Nat
deriving DecidableEq, Repr

/-- The payload of RETURN (R129): the segments are pairs of short form times. -/
structure ReturnFields where
  id : BookingId
  reason : Nat
  tag : Nat
  segments : List (Nat × Nat)
deriving DecidableEq, Repr

/-- The payload of TALLY (R129). -/
structure TallyFields where
  id : BookingId
  outcome : Nat
  reason : Nat
  tag : Nat
  segments : List (Nat × Nat)
deriving DecidableEq, Repr

/-- The payload of MARK (R129). -/
structure MarkFields where
  tag : Nat
  series : Nat
  episode : Nat
  rank : Nat
  started : Nat
  start : Nat
deriving DecidableEq, Repr

/-- How an attempt fails (R127). -/
inductive AttemptEnd
  | lostArbitration
  | collision
  | driveFault
deriving DecidableEq, Repr

/-- Why a frame ends as bad (R136, order 1). -/
inductive BadFrame
  | turnFault
  | length
  | earlyIdle
  | crc
deriving DecidableEq, Repr

/-- The commands of the LS-220: one constructor a row of spec/opcode_table.json. -/
inductive Instr
  | coldReset
  | configure (c : ConfigFields)
  | join
  | leave
  | restart
  | setClock (time : Nat)
  | book (f : BookFields)
  | amend (handle : Nat) (expect : Option BookingId) (f : AmendFields)
  | cancel (handle : Nat) (expect : Option BookingId)
  | readBooking (handle : Nat) (expect : Option BookingId)
  | nextBooking (start : Option StartAt) (filter : Nat)
  | link (f : LinkFields)
  | unlink (id : LinkId)
  | readLink (key : LinkKey)
  | guideEvent (f : GuideFields)
  | running (service : Nat) (event : Nat) (status : Nat)
  | holdLive (multiplex : Nat) (service : Nat) (force : Nat)
  | releaseLive
  | powerBudget (tuners : Nat)
  | readDirective (tuner : Nat)
  | tunerReport (tuner : Nat) (serial : Nat) (status : Nat)
  | resolve (handle : Nat) (expect : Option BookingId) (decision : Nat)
  | fetchNotice
  | readPeer (station : Nat)
  | readStation (part : Nat)
  | badFormRequest (bytes : List Byte)
  | busyRequest (first : Byte)
  | collection (clocked : Nat)
  | prepare (handle : Nat)
  | start (handle : Nat)
  | grace (handle : Nat)
  | stop (handle : Nat)
  | overrun (handle : Nat)
  | epochDayChange
  | tuneTimerExpiry (tuner : Nat)
  | recheckTimerExpiry (tuner : Nat)
  | rollTimerExpiry
  | joinTimerExpiry
  | leaveTimerExpiry
  | intervalDeadlineExpiry (station : Nat)
  | seekReadyTime (handle : Nat)
  | bidWindowEnd
  | takeTimerExpiry
  | queuedBidRemoved (id : BookingId)
  | holdExpiry (id : BookingId)
  | lapsedRecordDiscard (id : BookingId)
  | marksHeardExpiry (series : Nat) (episode : Nat) (station : Nat)
  | confirmDeadlineExpiry (handle : Nat)
  | attemptStart
  | messageSent
  | attemptFailed (why : AttemptEnd)
  | badFrameReceived (why : BadFrame)
  | rollArrival (h : FrameHead) (f : RollFields)
  | seekArrival (h : FrameHead) (f : SeekFields)
  | bidArrival (h : FrameHead) (f : BidFields)
  | awardArrival (h : FrameHead) (f : AwardFields)
  | takeArrival (h : FrameHead) (id : BookingId) (number : Nat)
  | declineArrival (h : FrameHead) (id : BookingId) (number : Nat) (reason : Nat)
  | withdrawArrival (h : FrameHead) (id : BookingId) (addressee : Nat)
  | returnArrival (h : FrameHead) (f : ReturnFields)
  | tallyArrival (h : FrameHead) (f : TallyFields)
  | markArrival (h : FrameHead) (f : MarkFields)
  | resetnHeldLow
  | malformedFrame (household : Nat) (cls : Nat)
deriving DecidableEq, Repr

end Sys2Proof
end

