-- ==== Sys2Proof/Decode.lean ====
section
/-! DEFINITION. No row of spec/opcode_table.json gives bits: the commands reach the block as requests, frames, times and
pin events, and none of them is spelled by a word. -/

namespace Sys2Proof

/-- The command that a word of the opcode table spells: none, since the table gives no row any bits. -/
def decodeTableWord (_nbits _w : Nat) : Option Instr := none

end Sys2Proof
end

