-- ==== Sys2Proof/Machine/State.lean ====
section
/-! DEFINITION. The state of the LS-220 as plain data: every record, list, queue, counter, mark, timer and pin that the
spec gives the part, and the queue of the commands that wait. Instants are counted in units of 1/4,096,000 s (one REFCLK
period is 125 of them, one millisecond 4096); seconds are whole seconds from the household epoch. -/

namespace Sys2Proof.Machine

/-- Why a step faults. No rule of the spec stops the part, so nothing raises a fault: the type has no constructor, which
is safe, since no run can end there. -/
inductive Fault
deriving DecidableEq, Repr

/-- Why a step is refused. -/
inductive Refusal
  /-- Raised by an arm of `exec` whose command has no meaning yet, by its mnemonic. Safe: the model stops. -/
  | notModelled (mnemonic : String)
deriving DecidableEq, Repr

/-- Tuner A (index 0) and tuner B (index 1) (00_scope.md, Identifiers). -/
inductive Tuner
  | A
  | B
deriving DecidableEq, Repr

/-- One of a thing for each of the two tuners. -/
structure Two (α : Type) where
  a : α
  b : α
deriving DecidableEq, Repr

/-- Booking classes (00_scope.md). -/
inductive BClass
  | manual
  | event
  | episode
  | hosted
deriving DecidableEq, Repr

/-- The running field of a follow booking (1.2). -/
inductive Running
  | unknown
  | notYet
  | running
  | paused
  | ended
deriving DecidableEq, Repr

/-- The eleven booking states (00_scope.md). -/
inductive BState
  | waiting
  | planned
  | seeking
  | lent
  | covered
  | referred
  | preparing
  | recording
  | paused
  | suspended
  | ended
deriving DecidableEq, Repr

/-- The plan field of a booking record (1.2). -/
inductive Plan
  | absent
  | tuner (t : Tuner)
  | lent (station : Nat)
  | covered (station : Nat)
deriving DecidableEq, Repr

/-- Outcomes (R8). -/
inductive BOutcome
  | complete
  | partly
  | missed
  | cancelled
  | covered
  | unknown
deriving DecidableEq, Repr

/-- Reasons (R8). -/
inductive Reason
  | none
  | noTuner
  | signal
  | displaced
  | cancelled
  | guideWithdrawn
  | peerLost
  | segments
  | clock
deriving DecidableEq, Repr

/-- One segment (R118). `tuner` is none for a segment recorded at another station; `til` is none while it is open. -/
structure Segment where
  station : Nat
  tuner : Option Tuner
  frm : Nat
  til : Option Nat
deriving DecidableEq, Repr

/-- One booking record (1.2). `endedAt` is the ended-at time that the Trigger List keeps beside its entries (2.3).
`prepSeq` is the model's own: the place of its entry into PREPARING in the order of such entries (log entry 12). -/
structure Booking where
  handle : Nat
  id : BookingId
  cls : BClass
  service : Nat
  mux : Nat
  event : Option Nat
  link : Option LinkId
  episode : Option Nat
  start : Nat
  finish : Nat
  pre : Nat
  post : Nat
  priority : Nat
  follow : Bool
  running : Option Running
  state : BState
  plan : Plan
  order : Nat
  attempts : Nat
  segs : List Segment
  outcome : Option (BOutcome × Reason)
  confirm : Option Nat
  peerLost : Bool
  endedAt : Option Nat
  prepSeq : Nat
deriving DecidableEq, Repr

/-- Trigger kinds (R31). -/
inductive TrigKind
  | prepare
  | start
  | grace
  | stop
  | overrun
deriving DecidableEq, Repr

/-- One entry of the Trigger List (2.3). -/
structure Trigger where
  handle : Nat
  kind : TrigKind
  time : Nat
deriving DecidableEq, Repr

/-- The count of a link (R44): none for OPEN, else remaining and initial. -/
structure Count where
  remaining : Nat
  initial : Nat
deriving DecidableEq, Repr

/-- One link record (3.1). `scope` is none for ANY. -/
structure Link where
  slot : Nat
  id : LinkId
  series : Nat
  scope : Option Nat
  priority : Nat
  pre : Nat
  post : Nat
  follow : Bool
  firstRun : Bool
  count : Option Count
  exhausted : Bool
  backlog : Bool
  episodes : List Nat
deriving DecidableEq, Repr

/-- Tuner states (R62). -/
inductive TState
  | idle
  | tuning
  | locked
  | failed
  | unknown
deriving DecidableEq, Repr

/-- One entry of a capture list (R64). -/
structure Capture where
  service : Nat
  handle : Nat
deriving DecidableEq, Repr

/-- A LIVE hold (R62). -/
structure Live where
  mux : Nat
  service : Nat
deriving DecidableEq, Repr

/-- The directive record of a tuner (R65). Its serial and multiplex are the tuner record's (R62). -/
structure Directive where
  serial : Nat
  mux : Option Nat
  live : Option Nat
  captures : List Capture
deriving DecidableEq, Repr

/-- The limit marks (R73). -/
structure Marks where
  fitted : Bool
  signal : Bool
  budget : Bool
deriving DecidableEq, Repr

/-- A tuner record (R62) with its directive record (R65). The tune timer holds an instant and the serial it was
started for. -/
structure TunerRec where
  state : TState
  captures : List Capture
  live : Option Live
  directive : Directive
  unread : Bool
  tuneTimer : Option (Nat × Nat)
  recheck : Option Nat
  marks : Marks
deriving DecidableEq, Repr

/-- One entry of a plan (R86). -/
structure PlanEntry where
  handle : Nat
  preempts : Bool
deriving DecidableEq, Repr

/-- Where a referral comes from (R94). -/
inductive RefSource
  | placement
  | prepareCheck
deriving DecidableEq, Repr

/-- A referral (R94). -/
structure Referral where
  handle : Nat
  tuner : Tuner
  incumbents : List Nat
  deadline : Nat
  source : RefSource
deriving DecidableEq, Repr

/-- The reason of a stack record (R109). -/
inductive PushReason
  | live
  | rank
  | limit
  | signal
deriving DecidableEq, Repr

/-- A stack record (R109). A stack lists its top record first. -/
structure StackRec where
  handles : List Nat
  mux : Nat
  displacedAt : Nat
  reason : PushReason
  displacing : Option (Nat × BookingId)
  causeEnded : Bool
deriving DecidableEq, Repr

/-- A ROLL's flags (R129). -/
structure RollFlags where
  untimed : Bool
  rxFault : Bool
  leaving : Bool
  joining : Bool
deriving DecidableEq, Repr

/-- A composed ROLL (R142). Its clock and sequence are written at the start of each attempt (R143). -/
structure RollMsg where
  incarnation : Nat
  sequence : Nat
  flags : RollFlags
  period : Nat
  clock : Nat
  day : Nat
  usable : Nat
  tuners : List RollTuner
deriving DecidableEq, Repr

/-- The ten link messages (R128), as composed. `record` of a TALLY is the model's own: the number of the tally record that
it was composed from (log entry 12). -/
inductive Msg
  | roll (r : RollMsg)
  | seek (f : SeekFields)
  | bid (f : BidFields)
  | award (f : AwardFields)
  | take (id : BookingId) (number : Nat)
  | decline (id : BookingId) (number : Nat) (reason : Nat)
  | withdraw (id : BookingId) (addressee : Nat)
  | giveBack (f : ReturnFields)
  | tally (f : TallyFields) (record : Nat)
  | mark (f : MarkFields)
deriving DecidableEq, Repr

/-- A message of the transmit queue (R132): key, household number and contents of its composition, the bid window end of
a BID (R133), and whether it is in an attempt. -/
structure QMsg where
  household : Nat
  sender : Nat
  rank : Nat
  msg : Msg
  bidEnd : Option Nat
  att : Bool
deriving DecidableEq, Repr

/-- An entry of the seek queue (R160). -/
structure SeekEntry where
  handle : Nat
  ready : Option Nat
deriving DecidableEq, Repr

/-- An entry of the bid list (R162). -/
structure Bid where
  station : Nat
  cost : Nat
  tuner : Nat
  displaced : Nat
deriving DecidableEq, Repr

/-- The seek engine (R161 to R164). `window` is the bid window's end, absent until the SEEK is sent; `take` is the take
timer's expiry, absent until the AWARD is sent. -/
inductive Engine
  | idle
  | collecting (handle : Nat) (window : Option Nat) (bids : List Bid)
  | awaiting (handle : Nat) (awardee : Nat) (take : Option Nat) (bids : List Bid)
deriving DecidableEq, Repr

/-- What a SEEK says of its booking, with its times resolved to long form (R168). -/
structure SeekDetails where
  service : Nat
  mux : Nat
  event : Option Nat
  spanStart : Nat
  spanEnd : Nat
  pre : Nat
  post : Nat
  rank : Nat
  follow : Bool
deriving DecidableEq, Repr

/-- A tentative hold or lapsed record (R168). Its origin is the booking id's. -/
structure Hold where
  id : BookingId
  number : Nat
  details : SeekDetails
  tuner : Tuner
  bidEnd : Nat
  expiry : Nat
deriving DecidableEq, Repr

/-- A tally record (R172). `record` is the model's own: its number among the tally records made (log entry 12). -/
structure TallyRec where
  id : BookingId
  outcome : BOutcome
  reason : Reason
  rank : Nat
  segs : List Segment
  offered : Bool
  record : Nat
deriving DecidableEq, Repr

/-- An entry of the marks heard list (R178). -/
structure MarkHeard where
  series : Nat
  episode : Nat
  station : Nat
  rank : Nat
  started : Bool
  start : Nat
deriving DecidableEq, Repr

/-- Presence of a peer (R144). -/
inductive Presence
  | absent
  | hearing
  | present
  | suspect
deriving DecidableEq, Repr

/-- One interval result (R144). -/
inductive Interval
  | good
  | faulty
  | missing
deriving DecidableEq, Repr

/-- A tuner of a tuner view (R144): busy-until in long form, none for open. -/
structure ViewTuner where
  state : Nat
  mux : Option Nat
  busy : Option Nat
  top : Nat
deriving DecidableEq, Repr

/-- A tuner view (R144). -/
structure View where
  usable : Nat
  tuners : List ViewTuner
deriving DecidableEq, Repr

/-- A peer record (R144). -/
structure Peer where
  station : Nat
  presence : Presence
  incarnation : Option Nat
  lastSeq : Option Nat
  period : Option Nat
  day : Option Nat
  prevDay : Option Nat
  flags : RollFlags
  history : List Interval
  good : Nat
  missing : Nat
  view : Option View
  candidate : Option View
  deadline : Option Nat
deriving DecidableEq, Repr

/-- Station states (11). -/
inductive StationState
  | detached
  | joining
  | joined
  | leaving
  | isolated
deriving DecidableEq, Repr

/-- The last step that an UNPLACED notice names (R95). -/
inductive LastStep
  | noTuner
  | seekSpent
  | seekFull
  | declined
deriving DecidableEq, Repr

/-- The kind of an EVICTED notice (R112). -/
inductive EvictKind
  | stackFull
  | noStack
  | noRoom
  | configure
deriving DecidableEq, Repr

/-- The cause of a PEER notice (R156). -/
inductive PeerCause
  | goodIntervals
  | faulty
  | missing
  | leaving
  | incarnation
deriving DecidableEq, Repr

/-- The kind of an incarnation change (R155). -/
inductive IncKind
  | cold
  | warm
deriving DecidableEq, Repr

/-- The cause of a STATION notice (R139, R191 to R196). -/
inductive StationCause
  | duplicate
  | configure
  | join
  | joined
  | leave
  | left
  | leaveTimeout
  | restart
deriving DecidableEq, Repr

/-- The cause of an ORPHAN notice (R172, R181). -/
inductive OrphanCause
  | full
  | originReset
  | detached
deriving DecidableEq, Repr

/-- A notice with the fields that its owning rule gives (R185). -/
inductive Notice
  | outcome (handle : Nat) (id : BookingId) (cls : BClass) (link : Option LinkId) (service start finish : Nat)
      (outcome : BOutcome) (reason : Reason) (segs : List Segment)
  | referral (handle : Nat) (id : BookingId) (cls : BClass) (service start finish : Nat) (tuner : Tuner)
      (source : RefSource) (deadline : Nat) (incumbents : List (Nat × BookingId × BClass × Nat))
  | unplaced (handle : Nat) (id : BookingId) (cls : BClass) (service start finish : Nat) (last : LastStep)
  | episodeBooked (handle : Nat) (id : BookingId) (link : LinkId) (service event : Nat) (episode : Option Nat)
      (start finish : Nat) (state : BState)
  | linkExhausted (link : LinkId) (series : Nat)
  | linkBacklog (link : LinkId) (series service event start : Nat)
  | evicted (tuner : Tuner) (kind : EvictKind) (reason : PushReason) (mux displacedAt : Nat)
      (bookings : List (Nat × BookingId))
  | usable (tuner : Tuner) (usable : Bool) (marks : Marks) (state : TState) (liveLost : Bool)
  | peer (station : Nat) (before after : Presence) (cause : PeerCause) (incarnation : Option Nat)
      (kind : Option IncKind) (eligible : Bool)
  | station (state : StationState) (cause : StationCause)
  | orphan (id : BookingId) (outcome : BOutcome) (cause : OrphanCause)
  | linkFault (flag : Bool) (bad : Nat)
deriving DecidableEq, Repr

/-- Refusal codes (R184), in the order of their numbers. -/
inductive Code
  | ok
  | busy
  | badForm
  | badState
  | badValue
  | noRoom
  | noSuch
  | duplicate
  | late
  | tooFar
  | conflict
deriving DecidableEq, Repr

/-- The response that waits (R184): the request code, the refusal code and the bytes of the result fields. -/
structure Response where
  request : Nat
  code : Code
  result : List Byte
deriving DecidableEq, Repr

/-- Port states (R182). -/
inductive PortState
  | idle
  | executing
  | ready
deriving DecidableEq, Repr

/-- The box port (R182 to R184). `miso` is what MISO carried in the last transaction. -/
structure Port where
  state : PortState
  busy : Bool
  response : Option Response
  miso : List Byte
deriving DecidableEq, Repr

/-- The part of the state that scheduling reads and never writes: station life and configuration, the Schedule Clock,
the receive side and the line of the Link Controller, and the Presence Monitor. Timers hold instants. -/
structure Base where
  cfg : Settings
  station : StationState
  incarnation : Nat
  joinTimer : Option Nat
  leaveTimer : Option Nat
  rollTimer : Option Nat
  leavingSent : Bool
  clock : Nat
  frac : Nat
  timed : Bool
  idleBits : Nat
  window : List Bool
  goodRun : Nat
  rxFault : Bool
  lastSent : Nat
  peers : List Peer
deriving DecidableEq, Repr

/-- The part of the state that scheduling moves: Booking Table, Trigger List, Series Unit, Tuner Controller, Placement
Engine, Displacement Stacks, the Link Controller's transmit side, Household Broker and Notice Queue. -/
structure Sched where
  bookings : List Booking
  pendingOutcomes : List Nat
  orderCtr : Nat
  serialCtr : Nat
  prepCtr : Nat
  triggers : List Trigger
  links : List Link
  linkCtr : Nat
  tuners : Two TunerRec
  budget : Nat
  plans : Two (List PlanEntry)
  unplaced : List Nat
  referrals : List Referral
  stacked : Two (List StackRec)
  txq : List QMsg
  waitingRoll : Option QMsg
  attempt : Option (List Bool)
  seekQueue : List SeekEntry
  engine : Engine
  holds : List Hold
  lapsed : List Hold
  tallies : List TallyRec
  tallyCtr : Nat
  marks : List MarkHeard
  notices : List Notice
  overflow : Bool
deriving DecidableEq, Repr

/-- The whole state. `free` is the model's own counter of free values drawn (log entry 17); `pending` holds the commands
that wait, first in first out (log entry 1). -/
structure State where
  base : Base
  sch : Sched
  port : Port
  resetLow : Bool
  free : Nat
  pending : List Instr
deriving DecidableEq, Repr

/-- A tuner record after cold reset (R85). -/
def TunerRec.reset : TunerRec where
  state := .idle
  captures := []
  live := none
  directive := ⟨0, none, none, []⟩
  unread := false
  tuneTimer := none
  recheck := none
  marks := ⟨false, false, false⟩

/-- An ABSENT peer record (R144) of a station, with the incarnation it keeps. -/
def Peer.absentOf (station : Nat) (incarnation : Option Nat) : Peer where
  station := station
  presence := .absent
  incarnation := incarnation
  lastSeq := none
  period := none
  day := none
  prevDay := none
  flags := ⟨false, false, false, false⟩
  history := []
  good := 0
  missing := 0
  view := none
  candidate := none
  deadline := none

/-- The seven records of an empty peer table (R144, R158): those of the numbers 1..8 other than the station's own. -/
def Peer.emptyTable (own : Nat) : List Peer :=
  ([1, 2, 3, 4, 5, 6, 7, 8].filter (· != own)).map fun n => Peer.absentOf n none

/-- Base after cold reset (R22, R140, R158, R190, R195). -/
def Base.reset : Base where
  cfg := Settings.default
  station := .detached
  incarnation := 0
  joinTimer := none
  leaveTimer := none
  rollTimer := none
  leavingSent := false
  clock := 0
  frac := 0
  timed := false
  idleBits := 0
  window := []
  goodRun := 0
  rxFault := false
  lastSent := 255
  peers := Peer.emptyTable 1

/-- Sched after cold reset (R21, R42, R61, R85, R108, R122, R140, R181, R185). -/
def Sched.reset : Sched where
  bookings := []
  pendingOutcomes := []
  orderCtr := 1
  serialCtr := 1
  prepCtr := 0
  triggers := []
  links := []
  linkCtr := 1
  tuners := ⟨TunerRec.reset, TunerRec.reset⟩
  budget := 2
  plans := ⟨[], []⟩
  unplaced := []
  referrals := []
  stacked := ⟨[], []⟩
  txq := []
  waitingRoll := none
  attempt := none
  seekQueue := []
  engine := .idle
  holds := []
  lapsed := []
  tallies := []
  tallyCtr := 0
  marks := []
  notices := []
  overflow := false

/-- The port after cold reset (R184). -/
def Port.reset : Port where
  state := .idle
  busy := false
  response := none
  miso := []

/-- The machine right after the release of RESETN (R195). -/
def State.reset : State where
  base := Base.reset
  sch := Sched.reset
  port := Port.reset
  resetLow := false
  free := 0
  pending := []

end Sys2Proof.Machine
end

