-- ==== Sys2Proof/Machine/Ops.lean ====
section
/-! DEFINITION. The named operations over the records, lists and counters of the state that every block shares: time,
the two-tuner pairs, the Booking Table and its counters (R1 to R4), the Notice Queue with the pending outcomes (R17,
R185), and the event in progress. -/

namespace Sys2Proof.Machine

/-! ## Time -/

/-- Units of an instant in one second. -/
def unit : Nat := 4096000

/-- Units of an instant in one millisecond. -/
def milli : Nat := 4096

/-- The greatest value of the seconds count (R22). -/
def clockMax : Nat := 4294967295

/-- The present instant: the seconds count and the REFCLK periods counted since (R22). -/
def Base.now (v : Base) : Nat := (v.clock * 32768 + v.frac) * 125

/-- The recessive bit times read since the line was last dominant, after some more periods of REFCLK, of three bit times
each, in which no station drives it (R125, log entry 18). -/
def Base.quiet (v : Base) (periods : Nat) : Nat := min 10 (v.idleBits + 3 * periods)

/-- One period of REFCLK (R22). At its greatest value the count stops (log entry 21). -/
def Base.tick (v : Base) : Base :=
  if v.frac + 1 < 32768 then { v with frac := v.frac + 1, idleBits := v.quiet 1 }
  else if v.clock < clockMax then { v with clock := v.clock + 1, frac := 0, idleBits := v.quiet 1 }
  else { v with idleBits := v.quiet 1 }

/-- The clock counts on to an instant still ahead, to the first REFCLK period at or after it (log entry 2). -/
def Base.countTo (t : Nat) (v : Base) : Base :=
  if t ≤ v.now then v
  else
    let p := (t + 124) / 125
    let quiet := v.quiet (p - (v.clock * 32768 + v.frac))
    if clockMax < p / 32768 then { v with clock := clockMax, frac := 32767, idleBits := quiet }
    else { v with clock := p / 32768, frac := p % 32768, idleBits := quiet }

/-- The epoch day of the clock (R22). -/
def Base.day (v : Base) : Nat := v.clock / 86400

/-- The base day tag (R28). -/
def Base.tag (v : Base) : Nat := v.day % 256

/-! ## Pairs and tuners -/

/-- The number of members that a test picks. -/
def countOf {α : Type} (p : α → Bool) (l : List α) : Nat := (l.filter p).length

/-- The tuner's member of a pair. -/
def Two.get {α : Type} (x : Two α) : Tuner → α
  | .A => x.a
  | .B => x.b

/-- A pair with the tuner's member replaced. -/
def Two.set {α : Type} (x : Two α) (t : Tuner) (y : α) : Two α :=
  match t with
  | .A => { x with a := y }
  | .B => { x with b := y }

/-- A pair with the tuner's member changed. -/
def Two.mod {α : Type} (x : Two α) (t : Tuner) (f : α → α) : Two α := x.set t (f (x.get t))

/-- A pair with both members changed. -/
def Two.both {α : Type} (x : Two α) (f : α → α) : Two α := ⟨f x.a, f x.b⟩

/-- The other tuner. -/
def Tuner.other : Tuner → Tuner
  | .A => .B
  | .B => .A

/-- A tuner's index (00_scope.md). -/
def Tuner.index : Tuner → Nat
  | .A => 0
  | .B => 1

/-- The tuner of an index; every index but 0 reads as B. -/
def Tuner.ofIndex (n : Nat) : Tuner := if n = 0 then .A else .B

/-- Changes one tuner record. -/
def Sched.modTuner (s : Sched) (t : Tuner) (f : TunerRec → TunerRec) : Sched := { s with tuners := s.tuners.mod t f }

/-! ## The Booking Table -/

/-- The entry in use at a handle. -/
def Sched.bk (s : Sched) (h : Nat) : Option Booking := s.bookings.find? fun b => b.handle == h

/-- Changes the entry at a handle; one that is ENDED keeps its record until it is freed (R6, R17). -/
def Sched.modB (s : Sched) (h : Nat) (f : Booking → Booking) : Sched :=
  { s with bookings := s.bookings.map fun b => if b.handle == h && b.state != .ended then f b else b }

/-- Frees the entry at a handle (R17). -/
def Sched.free (s : Sched) (h : Nat) : Sched := { s with bookings := s.bookings.filter fun b => b.handle != h }

/-- The lowest number below n that a list lacks, or n. -/
def lowestFree (n : Nat) (used : List Nat) : Nat := ((List.range n).find? fun i => !used.contains i).getD n

/-- Inserts an entry by its handle. -/
def insertBooking (b : Booking) : List Booking → List Booking
  | [] => [b]
  | c :: rest => if b.handle < c.handle then b :: c :: rest else c :: insertBooking b rest

/-- A serial's successor (R4, R43). -/
def serialAfter (n : Nat) : Nat := if 65535 ≤ n then 1 else n + 1

/-- The first serial from n on that is free (R4, R43). -/
def findSerial (used : Nat → Bool) : Nat → Nat → Nat
  | 0, n => n
  | fuel + 1, n => if used n then findSerial used fuel (serialAfter n) else n

/-- HOSTED entries in use (R1). -/
def Sched.hostedInUse (s : Sched) : Nat := (s.bookings.filter fun b => b.cls == .hosted).length

/-- Room for one more record of a class (R1). -/
def Sched.roomFor (s : Sched) (c : BClass) : Bool :=
  s.bookings.length < 128 && (c != .hosted || s.hostedInUse < 16)

/-- The order number that follows (R3). -/
def orderAfter (n : Nat) : Nat := if 4294967295 ≤ n then 1 else n + 1

/-- The serial that the next local record takes (R4). -/
def Sched.nextSerial (s : Sched) : Nat :=
  findSerial (fun n => s.bookings.any fun b => b.cls != .hosted && b.id.serial == n) 129 s.serialCtr

/-- The handle that the next record takes (R2). -/
def Sched.nextHandle (s : Sched) : Nat := lowestFree 128 (s.bookings.map (·.handle))

/-- Creates a local record: the draft with the next handle, order number and booking id (R2 to R4). Without room the
table is left as it is. -/
def Sched.createLocal (s : Sched) (station : Nat) (draft : Booking) : Sched :=
  if s.roomFor draft.cls then
    { s with
      bookings := insertBooking
        { draft with handle := s.nextHandle, order := s.orderCtr, id := ⟨station, s.nextSerial⟩ } s.bookings
      orderCtr := orderAfter s.orderCtr
      serialCtr := serialAfter s.nextSerial }
  else s

/-- Creates a HOSTED record, which keeps its origin's booking id (R4). -/
def Sched.createHosted (s : Sched) (draft : Booking) : Sched :=
  if s.roomFor draft.cls then
    { s with
      bookings := insertBooking { draft with handle := s.nextHandle, order := s.orderCtr } s.bookings
      orderCtr := orderAfter s.orderCtr }
  else s

/-- Whether an optional expected booking id agrees with an entry (R2). -/
def expects (x : Option BookingId) (b : Booking) : Bool := x.all (· == b.id)

/-! ## What a booking is -/

/-- The states that hold a tuner: PREPARING, RECORDING, PAUSED (R63). -/
def BState.occupies : BState → Bool
  | .preparing | .recording | .paused => true
  | _ => false

/-- A booking occupies its tuner (R63). -/
def Booking.occupies (b : Booking) : Bool := b.state.occupies

/-- A booking is started (R6). -/
def Booking.started (b : Booking) : Bool := b.state.occupies || b.state == .suspended || !b.segs.isEmpty

/-- The rank of an unstarted booking of its priority (R7). -/
def Booking.unstartedRank (b : Booking) : Nat := 2 + 2 * b.priority

/-- The rank of a booking from its present state (R7). -/
def Booking.rank (b : Booking) : Nat := if b.occupies then 1 + 2 * b.priority else 2 + 2 * b.priority

/-- A booking is HOSTED. -/
def Booking.hosted (b : Booking) : Bool := b.cls == .hosted

/-- Span start and then order number: the order of plans, of the unplaced list and of the seek queue (R86, R105, R160).
The span starts start − pre-roll are compared with the pre-rolls on the other side. -/
def Booking.before (a b : Booking) : Bool :=
  a.start + 60 * b.pre < b.start + 60 * a.pre ||
  (a.start + 60 * b.pre == b.start + 60 * a.pre && a.order < b.order)

/-- Inserts a handle into a list of handles kept in the order of span start and order number. -/
def Sched.insertHandle (s : Sched) (h : Nat) : List Nat → List Nat
  | [] => [h]
  | x :: rest =>
    match s.bk h, s.bk x with
    | some b, some c => if b.before c then h :: x :: rest else x :: s.insertHandle h rest
    | _, _ => x :: s.insertHandle h rest

/-- Handles put into the order of span start and order number. -/
def Sched.inSpanOrder (s : Sched) (l : List Nat) : List Nat := l.foldl (fun acc h => s.insertHandle h acc) []

/-- Inserts a number into an ascending list. -/
def insertAscending (n : Nat) : List Nat → List Nat
  | [] => [n]
  | x :: rest => if n < x then n :: x :: rest else x :: insertAscending n rest

/-- Numbers in ascending order. -/
def ascending (l : List Nat) : List Nat := l.foldl (fun acc n => insertAscending n acc) []

/-! ## Notices -/

/-- A notice other than OUTCOME is offered (R185): it joins the tail, or sets the overflow marker. -/
def Sched.notice (s : Sched) (n : Notice) : Sched :=
  if s.notices.length < 32 && s.pendingOutcomes.isEmpty then { s with notices := s.notices ++ [n] }
  else { s with overflow := true }

/-- The OUTCOME notice of an entry (R18). -/
def Booking.outcomeNotice (b : Booking) : Notice :=
  let o := b.outcome.getD (.unknown, .none)
  .outcome b.handle b.id b.cls b.link b.service b.start b.finish o.1 o.2 b.segs

/-- An ENDED entry offers its OUTCOME notice: it is queued and the entry freed, or the entry joins the pending outcomes
(R17). -/
def Sched.offerOutcome (s : Sched) (h : Nat) : Sched :=
  match s.bk h with
  | none => s
  | some b =>
    if s.pendingOutcomes.isEmpty && s.notices.length < 32 then
      { s with notices := s.notices ++ [b.outcomeNotice] }.free h
    else { s with pendingOutcomes := s.pendingOutcomes ++ [h] }

/-- The oldest pending outcome takes the room that a FETCH-NOTICE made (R17, R186). -/
def Sched.admitPending (s : Sched) : Sched :=
  match s.pendingOutcomes with
  | [] => s
  | h :: rest =>
    if s.notices.length < 32 then
      match s.bk h with
      | none => { s with pendingOutcomes := rest }
      | some b => { s with notices := s.notices ++ [b.outcomeNotice], pendingOutcomes := rest }.free h
    else s

/-! ## The event in progress -/

/-- An event being carried out: the state so far, and the parts of it that are still to come (log entry 9): stacks to
examine (R114), a re-try of the unplaced list, with its attempts kept or not (R106), a look of the seek engine (R161),
and the handles whose triggers were armed at or before the clock and fire as late events (R32). -/
structure Ev where
  s : Sched
  exam : Two Bool
  retry : Option Bool
  look : Bool
  late : List Nat

/-- An event that begins on a state. -/
def Ev.of (s : Sched) : Ev := ⟨s, ⟨false, false⟩, none, false, []⟩

/-- Changes the state of an event. -/
def Ev.on (e : Ev) (f : Sched → Sched) : Ev := { e with s := f e.s }

/-- Asks for an examination of a tuner's stack (R114). -/
def Ev.askExam (e : Ev) (t : Tuner) : Ev := { e with exam := e.exam.set t true }

/-- Asks for a re-try of the unplaced list (R106). A re-try that resets the attempts stands over one that keeps them. -/
def Ev.askRetry (e : Ev) (keep : Bool) : Ev :=
  { e with retry := some (match e.retry with | some k => k && keep | none => keep) }

/-- Asks the seek engine to look for a booking (R161). -/
def Ev.askLook (e : Ev) : Ev := { e with look := true }

end Sys2Proof.Machine
end

