-- ==== Sys2Proof/Machine/Times.lean ====
section
/-! DEFINITION. Trigger times, the close time and the armed trigger of a booking (R31, R32), the tuned interval (R87), and
short form times (R28 to R30). -/

namespace Sys2Proof.Machine

/-! ## The times of R31 -/

/-- The span start, start − pre-roll (R5). -/
def Booking.spanStart (b : Booking) : Nat := b.start - 60 * b.pre

/-- The span end, end + post-roll (R5). -/
def Booking.spanEnd (b : Booking) : Nat := b.finish + 60 * b.post

/-- PREPARE: start − pre-roll − tune lead. -/
def Booking.prepareTime (v : Base) (b : Booking) : Nat := b.start - 60 * b.pre - v.cfg.tuneLead

/-- START: start − pre-roll. -/
def Booking.startTime (b : Booking) : Nat := b.spanStart

/-- GRACE: start + start grace, or end − 1 min where that is earlier. -/
def Booking.graceTime (v : Base) (b : Booking) : Nat := min (b.start + 60 * v.cfg.grace) (b.finish - 60)

/-- STOP: end + post-roll, or ended-at + post-roll for a follow booking with an ended-at time. -/
def Booking.stopTime (b : Booking) : Nat :=
  match b.follow, b.endedAt with
  | true, some t => t + 60 * b.post
  | _, _ => b.spanEnd

/-- OVERRUN: end + overrun limit. -/
def Booking.overrunTime (v : Base) (b : Booking) : Nat := b.finish + 60 * v.cfg.overrun

/-- The lent deadline: 5 min less while the peer-lost mark is set. -/
def Booking.lentDeadline (v : Base) (b : Booking) : Nat :=
  b.spanEnd + 60 * v.cfg.overrun + if b.peerLost then 0 else 300

/-- The running field is RUNNING or PAUSED. -/
def Booking.keepsRunning (b : Booking) : Bool := b.running == some .running || b.running == some .paused

/-- The close time: after it the booking may no longer capture (R31). -/
def Booking.closeTime (v : Base) (b : Booking) : Nat :=
  if !b.follow then b.stopTime
  else if b.keepsRunning then b.overrunTime v
  else min b.stopTime (b.overrunTime v)

/-! ## The armed trigger of R32 -/

/-- The closing trigger. -/
def Booking.closingTrigger (v : Base) (b : Booking) : TrigKind × Nat :=
  if !b.follow then (.stop, b.stopTime)
  else if b.overrunTime v < b.stopTime then (.overrun, b.overrunTime v)
  else if b.stopTime ≤ v.clock && b.keepsRunning then (.overrun, b.overrunTime v)
  else (.stop, b.stopTime)

/-- The trigger that the table of R32 arms. -/
def Booking.armed (v : Base) (b : Booking) : Option (TrigKind × Nat) :=
  match b.state with
  | .waiting | .suspended | .recording | .paused => some (b.closingTrigger v)
  | .planned | .seeking => some (.prepare, b.prepareTime v)
  | .referred =>
    if v.clock < b.prepareTime v then some (.prepare, b.prepareTime v)
    else if v.clock < b.startTime then some (.start, b.startTime)
    else some (b.closingTrigger v)
  | .preparing =>
    if v.clock < b.startTime then some (.start, b.startTime)
    else if b.follow && v.clock < b.graceTime v && b.graceTime v < (b.closingTrigger v).2 then
      some (.grace, b.graceTime v)
    else some (b.closingTrigger v)
  | .lent => some (.overrun, b.lentDeadline v)
  | .covered => some (.stop, b.spanEnd)
  | .ended => none

/-- Inserts an entry into the Trigger List in order of time (2.3). Several entries may share a time; that they stand, and
so fire, in the order of arming is the model's choice (log entry 53). -/
def insertTrigger (t : Trigger) : List Trigger → List Trigger
  | [] => [t]
  | x :: rest => if t.time < x.time then t :: x :: rest else x :: insertTrigger t rest

/-- Takes a handle's entry out of the Trigger List. -/
def Sched.disarm (s : Sched) (h : Nat) : Sched := { s with triggers := s.triggers.filter fun t => t.handle != h }

/-- The entry armed for a handle. -/
def Sched.trigger (s : Sched) (h : Nat) : Option Trigger := s.triggers.find? fun t => t.handle == h

/-- Re-arms a booking's trigger by the table (R32), replacing its entry. -/
def Sched.arm (v : Base) (h : Nat) (s : Sched) : Sched :=
  match (s.bk h).bind (Booking.armed v) with
  | none => s.disarm h
  | some (k, t) => { s.disarm h with triggers := insertTrigger ⟨h, k, t⟩ (s.disarm h).triggers }

/-- Whether a handle's armed trigger lies at or before the clock. -/
def Sched.triggerDue (v : Base) (s : Sched) (h : Nat) : Bool := (s.trigger h).any fun t => t.time ≤ v.clock

/-- Re-arms a booking's trigger in an event; one armed at or before the clock is to fire at once as a late event (R32,
log entry 8). -/
def Ev.arm (v : Base) (h : Nat) (e : Ev) : Ev :=
  let e := e.on (Sched.arm v h)
  if e.s.triggerDue v h && !e.late.contains h then { e with late := e.late ++ [h] } else e

/-! ## The tuned interval of R87 -/

/-- The part of a tuned interval that lies at or after the clock: from and to; none when nothing is left. -/
def Booking.tuned (v : Base) (b : Booking) : Option (Nat × Nat) :=
  let lo := max v.clock (b.prepareTime v)
  let hi := b.closeTime v
  if lo < hi then some (lo, hi) else none

/-! ## Short form times -/

/-- The short form of a long form time, when it is representable (R29). -/
def shortForm (v : Base) (t : Nat) : Option Nat :=
  if t + 86400 < v.day * 86400 then none
  else
    let m := (t + 86400 - v.day * 86400) / 60
    if m ≤ 65535 then some m else none

/-- The short form of a time in a message that sends 0 before the window base and 65,535 beyond it (R29). -/
def shortClamped (v : Base) (t : Nat) : Nat :=
  if t + 86400 < v.day * 86400 then 0 else min 65535 ((t + 86400 - v.day * 86400) / 60)

/-- A segment in short form: from rounded down and to rounded up to the whole minute (R29). -/
def Segment.short (v : Base) (g : Segment) : Nat × Nat :=
  (shortClamped v (g.frm / 60 * 60), shortClamped v (((g.til.getD g.frm) + 59) / 60 * 60))

/-- The long form of a short form time against an epoch day (R30). -/
def longForm (day m : Nat) : Nat := day * 86400 + 60 * m - 86400

end Sys2Proof.Machine
end

