-- ==== Sys2Proof/Machine/Link.lean ====
section
/-! DEFINITION. The transmit side of the Link Controller: the frame envelope with its CRC and turn bits (R124, R126,
R128, R129), the transmit queue and the offering of a message (R132, R133). -/

namespace Sys2Proof.Machine

/-! ## Codes of the payloads -/

/-- Tuner state codes (R67). -/
def TState.code : TState → Nat
  | .idle => 0
  | .tuning => 1
  | .locked => 2
  | .failed => 3
  | .unknown => 4

/-- Outcome codes (R19). -/
def BOutcome.code : BOutcome → Nat
  | .complete => 0
  | .partly => 1
  | .missed => 2
  | .cancelled => 3
  | .covered => 4
  | .unknown => 5

/-- The outcome of a code (R19). -/
def BOutcome.ofCode : Nat → BOutcome
  | 0 => .complete
  | 1 => .partly
  | 2 => .missed
  | 3 => .cancelled
  | 4 => .covered
  | _ => .unknown

/-- Reason codes (R19). -/
def Reason.code : Reason → Nat
  | .none => 0
  | .noTuner => 1
  | .signal => 2
  | .displaced => 3
  | .cancelled => 4
  | .guideWithdrawn => 5
  | .peerLost => 6
  | .segments => 7
  | .clock => 8

/-- The reason of a code (R19). -/
def Reason.ofCode : Nat → Reason
  | 0 => .none
  | 1 => .noTuner
  | 2 => .signal
  | 3 => .displaced
  | 4 => .cancelled
  | 5 => .guideWithdrawn
  | 6 => .peerLost
  | 7 => .segments
  | _ => .clock

/-- A number's low-order bytes, most significant first (R126, R183). -/
def bytesOf : Nat → Nat → List Byte
  | 0, _ => []
  | w + 1, n => BitVec.ofNat 8 (n / 256 ^ w) :: bytesOf w n

/-- A booking id in 3 bytes (R129). -/
def idBytes (i : BookingId) : List Byte := bytesOf 1 i.origin ++ bytesOf 2 i.serial

/-- Segments in short form, 4 bytes each (R129). -/
def shortSegBytes (l : List (Nat × Nat)) : List Byte := l.flatMap fun p => bytesOf 2 p.1 ++ bytesOf 2 p.2

/-- The flags byte of a ROLL (R129). -/
def RollFlags.code (f : RollFlags) : Nat :=
  f.untimed.toNat + 2 * f.rxFault.toNat + 4 * f.leaving.toNat + 8 * f.joining.toNat

/-- One tuner of a ROLL (R129). -/
def RollTuner.bytes (t : RollTuner) : List Byte :=
  bytesOf 1 (t.state + if t.mux.isSome then 128 else 0) ++ bytesOf 2 (t.mux.getD 0) ++ bytesOf 2 t.busy ++ bytesOf 1 t.top

/-- The payload of a message (R129). -/
def Msg.payload : Msg → List Byte
  | .roll r =>
    bytesOf 1 r.incarnation ++ bytesOf 1 r.sequence ++ bytesOf 1 r.flags.code ++ bytesOf 1 r.period ++
    bytesOf 4 r.clock ++ bytesOf 2 r.day ++ bytesOf 1 r.usable ++ r.tuners.flatMap RollTuner.bytes
  | .seek f =>
    bytesOf 1 f.tag ++ idBytes f.id ++ bytesOf 1 f.number ++ bytesOf 2 f.service ++ bytesOf 2 f.multiplex ++
    bytesOf 2 f.event ++ bytesOf 2 f.spanStart ++ bytesOf 2 f.spanEnd ++ bytesOf 1 f.pre ++ bytesOf 1 f.post ++
    bytesOf 1 f.rank ++ bytesOf 1 f.flags ++ bytesOf 2 f.window
  | .bid f => idBytes f.id ++ bytesOf 1 f.number ++ bytesOf 1 f.cost ++ bytesOf 1 f.tuner ++ bytesOf 1 f.displaced
  | .award f => idBytes f.id ++ bytesOf 1 f.number ++ bytesOf 1 f.awardee ++ bytesOf 1 f.tuner
  | .take i n => idBytes i ++ bytesOf 1 n
  | .decline i n r => idBytes i ++ bytesOf 1 n ++ bytesOf 1 r
  | .withdraw i a => idBytes i ++ bytesOf 1 a
  | .giveBack f => idBytes f.id ++ bytesOf 1 f.reason ++ bytesOf 1 f.tag ++ shortSegBytes f.segments
  | .tally f _ => idBytes f.id ++ bytesOf 1 f.outcome ++ bytesOf 1 f.reason ++ bytesOf 1 f.tag ++ shortSegBytes f.segments
  | .mark f =>
    bytesOf 1 f.tag ++ bytesOf 4 f.series ++ bytesOf 4 f.episode ++ bytesOf 1 f.rank ++ bytesOf 1 f.started ++
    bytesOf 2 f.start

/-- The class code of a message (R128). -/
def Msg.cls : Msg → Nat
  | .giveBack _ => 0
  | .withdraw _ _ => 1
  | .award _ => 2
  | .take _ _ => 3
  | .decline _ _ _ => 4
  | .tally _ _ => 5
  | .bid _ => 6
  | .mark _ => 7
  | .seek _ => 8
  | .roll _ => 9

/-- The message is a ROLL. -/
def Msg.isRoll : Msg → Bool
  | .roll _ => true
  | _ => false

/-! ## The frame -/

/-- The low w bits of a number, most significant first (R126). -/
def bitsOf : Nat → Nat → List Bool
  | 0, _ => []
  | w + 1, n => (n / 2 ^ w % 2 == 1) :: bitsOf w n

/-- One bit into the CRC register of x^16 + x^12 + x^5 + 1 (R126). -/
def crc16Step (r : Nat) (bit : Bool) : Nat :=
  let top := decide (32768 ≤ r) != bit
  let r := r * 2 % 65536
  if top then r ^^^ 0x1021 else r

/-- The CRC of frame bits: the register preset to all ones (R126). -/
def crc16 (bits : List Bool) : Nat := bits.foldl crc16Step 0xFFFF

/-- The frame bits from the first key bit to the last payload bit (R126). -/
def QMsg.coveredBits (q : QMsg) : List Bool :=
  bitsOf 4 q.msg.cls ++ bitsOf 5 q.rank ++ bitsOf 3 (q.sender - 1) ++ bitsOf 16 q.household ++
  bitsOf 5 q.msg.payload.length ++ q.msg.payload.flatMap fun b => bitsOf 8 b.toNat

/-- The frame bits, start bit and CRC included (R126). -/
def QMsg.frameBits (q : QMsg) : List Bool := false :: q.coveredBits ++ bitsOf 16 (crc16 q.coveredBits)

/-- Inserts the turn bits: after four bits of equal value one of the opposite value, which counts as the first of the
next run (R124). `last` is the value of the run so far and `n` its length. -/
def turnBits : Bool → Nat → List Bool → List Bool
  | last, n, [] => if n = 4 then [!last] else []
  | last, n, b :: rest =>
    if n = 4 then
      (!last) :: b :: turnBits b (if b == !last then 2 else 1) rest
    else if b == last then b :: turnBits last (n + 1) rest
    else b :: turnBits b 1 rest

/-- The bits a sender puts on the wire for a frame (R124, R126). -/
def QMsg.wire (q : QMsg) : List Bool :=
  match q.frameBits with
  | [] => []
  | b :: rest => b :: turnBits b 1 rest

/-- Receivers remove turn bits; none where five equal bits in a row make a turn fault (R124). -/
def removeTurnBits : Bool → Nat → List Bool → Option (List Bool)
  | _, _, [] => some []
  | last, n, b :: rest =>
    if n = 4 then if b == last then none else removeTurnBits b 1 rest
    else (removeTurnBits b (if b == last then n + 1 else 1) rest).map (b :: ·)

/-! ## The transmit queue -/

/-- The answer to an offered message (R132). -/
inductive OfferAnswer
  | queued
  | replaced
  | droppedFull
  | droppedState
deriving DecidableEq, Repr

/-- The messages that the station state admits (R132). -/
def StationState.admits (x : StationState) (m : Msg) : Bool :=
  match x with
  | .detached | .isolated => false
  | .joining => m.isRoll
  | .joined | .leaving => true

/-- How the queue answers an offer (R132, R133). That a ROLL which waits beside a queued ROLL in an attempt, with no place of
its own, is answered REPLACED too is the model's choice (log entry 55). -/
def offerAnswer (v : Base) (m : Msg) (s : Sched) : OfferAnswer :=
  if !v.station.admits m then .droppedState
  else if m.isRoll && s.txq.any (·.msg.isRoll) then .replaced
  else if s.txq.length < 12 then .queued
  else .droppedFull

/-- The offered message has a place. -/
def taken (v : Base) (m : Msg) (s : Sched) : Bool :=
  match offerAnswer v m s with
  | .queued | .replaced => true
  | .droppedFull | .droppedState => false

/-- A message as it is composed for the queue (R132). -/
def compose (v : Base) (rank : Nat) (m : Msg) (bidEnd : Option Nat) : QMsg :=
  ⟨v.cfg.household, v.cfg.station, rank, m, bidEnd, false⟩

/-- Offers a message to the transmit queue (R132). A ROLL takes the place of a queued ROLL, or waits beside the attempt
that carries it (R133). -/
def Sched.offer (v : Base) (rank : Nat) (m : Msg) (bidEnd : Option Nat) (s : Sched) : Sched :=
  match offerAnswer v m s with
  | .droppedState | .droppedFull => s
  | .queued => { s with txq := s.txq ++ [compose v rank m bidEnd] }
  | .replaced =>
    if s.txq.any fun q => q.msg.isRoll && q.att then { s with waitingRoll := some (compose v rank m bidEnd) }
    else { s with txq := s.txq.map fun q => if q.msg.isRoll then compose v rank m bidEnd else q }

/-- Removes unsent the queued messages that a test picks and that are not in an attempt. -/
def Sched.unqueue (s : Sched) (p : Msg → Bool) : Sched := { s with txq := s.txq.filter fun q => !(p q.msg) || q.att }

/-- A message that a test picks waits in the queue and is not in an attempt. -/
def Sched.waitsUnsent (s : Sched) (p : Msg → Bool) : Bool := s.txq.any fun q => p q.msg && !q.att

/-- The transmit queue is emptied, the waiting ROLL discarded and an attempt cut off (R135); OFFERED tally records become
WAITING (R172). -/
def Sched.emptyQueue (s : Sched) : Sched :=
  { s with
    txq := []
    waitingRoll := none
    attempt := none
    tallies := s.tallies.map fun t => { t with offered := false } }

/-- The queue holds no message but ROLL (R134). -/
def Sched.drained (s : Sched) : Bool := s.txq.all (·.msg.isRoll)

/-- The index of the message with the lowest key, the first of equal keys (R132). -/
def lowestKey : List QMsg → Option QMsg
  | [] => none
  | q :: rest =>
    match lowestKey rest with
    | none => some q
    | some r => if (r.msg.cls < q.msg.cls) || (r.msg.cls == q.msg.cls && r.rank < q.rank) then some r else some q

/-- Changes the first message of the queue that equals one. -/
def modFirst (q : QMsg) (f : QMsg → QMsg) : List QMsg → List QMsg
  | [] => []
  | x :: rest => if x = q then f x :: rest else x :: modFirst q f rest

end Sys2Proof.Machine
end

