-- ==== Sys2Proof/Machine/Flags.lean ====
section
/-! DEFINITION. The marks and flags that are worked out or kept by rule: usability (R73), presence and eligibility of a
peer (R154), the receive-fault window with RX-FAULT (R137), the attention line and the other outputs on the pins (R187,
R195, R197). -/

namespace Sys2Proof.Machine

/-- A tuner is usable when it carries no limit mark (R73). -/
def Marks.none (m : Marks) : Bool := !m.fitted && !m.signal && !m.budget

/-- The tuner is in the usable set (R73). -/
def Sched.usable (s : Sched) (t : Tuner) : Bool := (s.tuners.get t).marks.none

/-- The usable tuners, lower index first. -/
def Sched.usableTuners (s : Sched) : List Tuner := [Tuner.A, Tuner.B].filter s.usable

/-- The fitted tuners, lower index first. -/
def Base.fittedTuners (v : Base) : List Tuner := if v.cfg.fitted = 1 then [.A] else [.A, .B]

/-- The record of a peer (R144). -/
def Base.peer (v : Base) (n : Nat) : Option Peer := v.peers.find? fun p => p.station == n

/-- The peer's record is PRESENT. -/
def Base.isPresent (v : Base) (n : Nat) : Bool := (v.peer n).any fun p => p.presence == .present

/-- A record is eligible: PRESENT, and its flags last seen include none of the four (R154). -/
def Peer.eligible (p : Peer) : Bool :=
  p.presence == .present && !p.flags.untimed && !p.flags.rxFault && !p.flags.joining && !p.flags.leaving

/-- The peer is eligible (R154). -/
def Base.isEligible (v : Base) (n : Nat) : Bool := (v.peer n).any Peer.eligible

/-- The last n members of a list. -/
def lastN {α : Type} (n : Nat) (l : List α) : List α := l.drop (l.length - n)

/-- The bad results in the receive-fault window. -/
def badCount (w : List Bool) : Nat := (w.filter fun good => !good).length

/-- A counted frame joins the receive-fault window and moves the consecutive good count and the RX-FAULT flag (R137).
Results are true for good. -/
def Base.countFrame (v : Base) (good : Bool) : Base :=
  let w := lastN 16 (v.window ++ [good])
  let run := if good then min 16 (v.goodRun + 1) else 0
  { v with
    window := w
    goodRun := run
    rxFault := if good then (if run = 16 then false else v.rxFault) else (if 3 ≤ badCount w then true else v.rxFault) }

/-- Each change of the RX-FAULT flag queues a LINK-FAULT notice (R137). -/
def Sched.linkFaultNotice (before after : Base) (s : Sched) : Sched :=
  if before.rxFault = after.rxFault then s else s.notice (.linkFault after.rxFault (badCount after.window))

/-- The attention line is active: a notice waits, or the unread mark of a fitted tuner is set (R187). -/
def State.attention (s : State) : Bool :=
  !s.sch.notices.isEmpty || s.base.fittedTuners.any fun t => (s.sch.tuners.get t).unread

/-- ATTN is driven low while the line is active, and left high while RESETN is low (R187, R195). -/
def State.attnLow (s : State) : Bool := !s.resetLow && s.attention

/-- HLINK is driven by this station: an attempt is in progress and RESETN is released (R125, R195). -/
def State.transmitting (s : State) : Bool := !s.resetLow && s.sch.attempt.isSome

end Sys2Proof.Machine
end

