-- ==== Sys2Proof/Machine/Tuners.lean ====
section
/-! DEFINITION. The Tuner Controller's own operations: occupants and the three figures of R63, the capture list (R64),
and the issue of a directive (R65, R66). -/

namespace Sys2Proof.Machine

/-- The bookings of a tuner's plan, in plan order. -/
def Sched.planBookings (s : Sched) (t : Tuner) : List Booking := (s.plans.get t).filterMap fun p => s.bk p.handle

/-- The booking occupants of a tuner (R63). -/
def Sched.occupants (s : Sched) (t : Tuner) : List Booking := (s.planBookings t).filter Booking.occupies

/-- The booking that entered PREPARING earliest. -/
def earliestPrep : List Booking → Option Booking
  | [] => none
  | b :: rest =>
    match earliestPrep rest with
    | none => some b
    | some c => if c.prepSeq < b.prepSeq then some c else some b

/-- Inserts a booking into a list in the order of entry into PREPARING. -/
def insertByPrep (b : Booking) : List Booking → List Booking
  | [] => [b]
  | c :: rest => if b.prepSeq < c.prepSeq then b :: c :: rest else c :: insertByPrep b rest

/-- Bookings in the order in which they entered PREPARING. -/
def byPrep (l : List Booking) : List Booking := l.foldl (fun acc b => insertByPrep b acc) []

/-- The multiplex that the booking occupants need, the LIVE hold left out (R63, R78). -/
def Sched.bookingMux (s : Sched) (t : Tuner) : Option Nat := (earliestPrep (s.occupants t)).map (·.mux)

/-- The needed multiplex (R63). -/
def Sched.neededMux (s : Sched) (t : Tuner) : Option Nat :=
  match (s.tuners.get t).live with
  | some l => some l.mux
  | none => s.bookingMux t

/-- The best rank among booking occupants, 31 when there is none (R63, R78). -/
def Sched.bookingTop (s : Sched) (t : Tuner) : Nat := (s.occupants t).foldl (fun r b => min r b.rank) 31

/-- The top rank (R63). -/
def Sched.topRank (s : Sched) (t : Tuner) : Nat := if (s.tuners.get t).live.isSome then 0 else s.bookingTop t

/-- The busy-until: none for open (R63). -/
def Sched.busyUntil (v : Base) (s : Sched) (t : Tuner) : Option Nat :=
  if (s.tuners.get t).live.isSome then none
  else
    match s.occupants t with
    | [] => some v.clock
    | b :: rest => some (rest.foldl (fun m c => max m (c.closeTime v)) (b.closeTime v))

/-- The hold count: the capture list length, plus 1 while a LIVE hold is present (R62). -/
def TunerRec.holdCount (r : TunerRec) : Nat := r.captures.length + r.live.isSome.toNat

/-- The station's LIVE hold: the tuner that holds one. -/
def Sched.liveTuner (s : Sched) : Option Tuner := [Tuner.A, Tuner.B].find? fun t => (s.tuners.get t).live.isSome

/-- A booking leaves the capture lists (R64). -/
def Sched.leaveCapture (s : Sched) (h : Nat) : Sched :=
  { s with tuners := s.tuners.both fun r => { r with captures := r.captures.filter fun c => c.handle != h } }

/-- A booking joins the tail of its tuner's capture list, which never holds more than 4 (R64). -/
def Sched.joinCapture (s : Sched) (t : Tuner) (c : Capture) : Sched :=
  s.modTuner t fun r => if r.captures.length < 4 then { r with captures := r.captures ++ [c] } else r

/-- The tuner is LOCKED on a multiplex (R35). -/
def Sched.lockedOn (s : Sched) (t : Tuner) (mux : Nat) : Bool :=
  (s.tuners.get t).state == .locked && (s.tuners.get t).directive.mux == some mux

/-- A new directive takes what then stands, moves the tuner by R66 and sets its unread mark (R65). -/
def TunerRec.issue (v : Base) (mux : Option Nat) (r : TunerRec) : TunerRec :=
  let serial := (r.directive.serial + 1) % 65536
  let started := some (v.now + v.cfg.tuneTimeout * unit, serial)
  let same := mux == r.directive.mux
  let r' := { r with directive := ⟨serial, mux, r.live.map (·.service), r.captures⟩, unread := true }
  match r.state, mux with
  | .failed, _ => { r' with tuneTimer := none }
  | _, none => { r' with state := .idle, tuneTimer := none }
  | .locked, some _ => if same then r' else { r' with state := .tuning, tuneTimer := started }
  | .unknown, some _ => if same then { r' with tuneTimer := started } else { r' with state := .tuning, tuneTimer := started }
  | .idle, some _ => { r' with state := .tuning, tuneTimer := started }
  | .tuning, some _ => { r' with tuneTimer := started }

/-- One of the three things that a directive holds has changed (R65). -/
def Sched.directiveStale (s : Sched) (t : Tuner) : Bool :=
  let r := s.tuners.get t
  r.directive.mux != s.neededMux t || r.directive.live != r.live.map (·.service) || r.directive.captures != r.captures

/-- Issues a directive for a tuner when the needed multiplex, the capture list or the live service has changed (R65). -/
def Sched.revise (v : Base) (s : Sched) (t : Tuner) : Sched :=
  if s.directiveStale t then s.modTuner t (TunerRec.issue v (s.neededMux t)) else s

/-- The directives that one event issues (R65): one for each tuner for which something changed. -/
def Sched.reviseAll (v : Base) (s : Sched) : Sched := (s.revise v .A).revise v .B

end Sys2Proof.Machine
end

