-- ==== Sys2Proof/Machine/Ending.lean ====
section
/-! DEFINITION. Segments and the outcome they give (R41, R118, R121), how a booking leaves the lists, plans and records of
the blocks (R16), the abandonment of a seek (R166), tally records (R172), entry into ENDED (R16), and the return of a hosted
entry (R171). -/

namespace Sys2Proof.Machine

/-! ## Segments -/

/-- An open segment closes at a time (R41). -/
def closeOpen (time : Nat) (l : List Segment) : List Segment :=
  l.map fun g => if g.til.isNone then { g with til := some time } else g

/-- How far from a point the segments cover without a gap, in n rounds (R121). -/
def coverTo (l : List Segment) : Nat → Nat → Nat
  | 0, p => p
  | n + 1, p =>
    coverTo l n (l.foldl (fun q g => if g.frm ≤ p then max q (g.til.getD g.frm) else q) p)

/-- The segments cover [start, end] (R121). -/
def Booking.covers (b : Booking) : Bool := b.finish ≤ coverTo b.segs b.segs.length b.start

/-- The outcome and reason that the segments give, with the reasons the ending rule gives for MISSED and for PARTIAL
(R121). -/
def Booking.bySegs (b : Booking) (missed part : Reason) : BOutcome × Reason :=
  if b.segs.isEmpty then (.missed, missed) else if b.covers then (.complete, .none) else (.partly, part)

/-- Closes the open segment of a booking (R41). -/
def Sched.closeSeg (s : Sched) (h time : Nat) : Sched := s.modB h fun b => { b with segs := closeOpen time b.segs }

/-! ## Leaving plans, lists and records -/

/-- The cause of a RANK record ends when its displacing booking leaves the tuner's plan (R110). -/
def endRankCause (h : Nat) (id : BookingId) (r : StackRec) : StackRec :=
  if r.reason == .rank && r.displacing == some (h, id) then { r with causeEnded := true } else r

/-- A booking leaves one tuner's plan; the stack is to be examined when the tuner loses an occupant or a cause ends
(R86, R110, R114). A RANK cause ends here though the same event may plan the booking on the tuner again (log entry 38). -/
def Ev.leavePlanOf (h : Nat) (e : Ev) (t : Tuner) : Ev :=
  if (e.s.plans.get t).any fun p => p.handle == h then
    let e := e.on fun s => { s with plans := s.plans.mod t (List.filter fun p => p.handle != h) }
    match e.s.bk h with
    | none => e
    | some b =>
      let stack := (e.s.stacked.get t).map (endRankCause h b.id)
      let changed := b.occupies || stack != e.s.stacked.get t
      let e := e.on fun s => { s with stacked := s.stacked.mod t (List.map (endRankCause h b.id)) }
      if changed then e.askExam t else e
  else e

/-- A booking leaves the plan it stands in (R86). -/
def Ev.leavePlan (h : Nat) (e : Ev) : Ev := (e.leavePlanOf h .A).leavePlanOf h .B

/-- A booking leaves the unplaced list (R105). -/
def Sched.leaveUnplaced (s : Sched) (h : Nat) : Sched := { s with unplaced := s.unplaced.filter fun x => x != h }

/-- A referral is withdrawn (R101). -/
def Sched.leaveReferral (s : Sched) (h : Nat) : Sched := { s with referrals := s.referrals.filter fun r => r.handle != h }

/-- A booking joins the unplaced list in its place (R105). -/
def Sched.joinUnplaced (s : Sched) (h : Nat) : Sched :=
  if s.unplaced.contains h then s else { s with unplaced := s.insertHandle h s.unplaced }

/-- A handle leaves the records of a stack; records left empty are removed (R113). -/
def dropHandle (h : Nat) (l : List StackRec) : List StackRec :=
  (l.map fun r => { r with handles := r.handles.filter fun x => x != h }).filter fun r => !r.handles.isEmpty

/-- A handle leaves its stack record on one tuner; the removal of a record calls for an examination (R113, R114). -/
def Ev.leaveStackOf (h : Nat) (e : Ev) (t : Tuner) : Ev :=
  let before := e.s.stacked.get t
  if before.any fun r => r.handles.contains h then
    let e := e.on fun s => { s with stacked := s.stacked.mod t (dropHandle h) }
    if (e.s.stacked.get t).length < before.length then e.askExam t else e
  else e

/-- A handle leaves its stack record (R113). -/
def Ev.leaveStack (h : Nat) (e : Ev) : Ev := (e.leaveStackOf h .A).leaveStackOf h .B

/-! ## WITHDRAW and the abandonment of a seek -/

/-- A WITHDRAW for a booking is offered to a station, at the booking's rank (R128). -/
def Ev.withdraw (v : Base) (h station : Nat) (e : Ev) : Ev :=
  match e.s.bk h with
  | none => e
  | some b => e.on (Sched.offer v b.rank (.withdraw b.id station) none)

/-- The message is a SEEK for a booking id. -/
def Msg.isSeekOf (i : BookingId) : Msg → Bool
  | .seek f => f.id == i
  | _ => false

/-- The message is an AWARD for a booking id to a station. -/
def Msg.isAwardOf (i : BookingId) (station : Nat) : Msg → Bool
  | .award f => f.id == i && f.awardee == station
  | _ => false

/-- The engine lets go of its booking (R166): COLLECTING, a SEEK still waiting is removed unsent; AWAITING, an AWARD still
waiting is removed unsent, else a WITHDRAW is offered to the awardee. -/
def Ev.abandonEngine (v : Base) (h : Nat) (e : Ev) : Ev :=
  match e.s.engine, e.s.bk h with
  | .collecting x _ _, some b =>
    if x = h then (e.on fun s => { s.unqueue (Msg.isSeekOf b.id) with engine := .idle }).askLook else e
  | .awaiting x st _ _, some b =>
    if x = h then
      let e :=
        if e.s.waitsUnsent (Msg.isAwardOf b.id st) then e.on fun s => s.unqueue (Msg.isAwardOf b.id st)
        else e.withdraw v h st
      (e.on fun s => { s with engine := .idle }).askLook
    else e
  | _, _ => e

/-- A booking leaves the seek by abandonment (R166). -/
def Ev.abandon (v : Base) (h : Nat) (e : Ev) : Ev :=
  (e.abandonEngine v h).on fun s => { s with seekQueue := s.seekQueue.filter fun q => q.handle != h }

/-- A booking leaves the plan, unplaced list, referral, seek or stack record that it stands in. -/
def Ev.leaveAll (v : Base) (h : Nat) (e : Ev) : Ev :=
  let e := (e.on fun s => s.leaveCapture h).leavePlan h
  let e := (e.on fun s => (s.leaveUnplaced h).leaveReferral h).leaveStack h
  e.abandon v h

/-! ## MARK -/

/-- The series code of the link that a booking names, while that link is in the table (R177). -/
def Sched.seriesOf (s : Sched) (b : Booking) : Option Nat :=
  b.link.bind fun i => (s.links.find? fun l => l.id == i).map (·.series)

/-- A MARK is composed and offered for an EPISODE booking with an episode code, while the station is JOINED (R177). -/
def Sched.offerMark (v : Base) (h : Nat) (s : Sched) : Sched :=
  match s.bk h with
  | none => s
  | some b =>
    match b.cls, b.episode, s.seriesOf b with
    | .episode, some ep, some series =>
      if v.station = .joined then
        s.offer v b.rank (.mark ⟨v.tag, series, ep, b.rank, b.started.toNat, shortClamped v b.start⟩) none
      else s
    | _, _, _ => s

/-! ## Tally records -/

/-- The TALLY of a record, with the tag and the short form segments of the moment (R172). -/
def TallyRec.msg (v : Base) (r : TallyRec) : Msg :=
  .tally ⟨r.id, r.outcome.code, r.reason.code, v.tag, r.segs.map (Segment.short v)⟩ r.record

/-- A WAITING record may be offered: its origin is PRESENT and the station JOINED or LEAVING (R172). -/
def TallyRec.mayGo (v : Base) (r : TallyRec) : Bool :=
  !r.offered && v.isPresent r.id.origin && (v.station == .joined || v.station == .leaving)

/-- Offers one record; it becomes OFFERED when the queue takes its TALLY (R172). -/
def offerTally (v : Base) (r : TallyRec) (s : Sched) : TallyRec × Sched :=
  if r.mayGo v && taken v (r.msg v) s then ({ r with offered := true }, s.offer v r.rank (r.msg v) none) else (r, s)

/-- Offers the records of a list that a test picks, in order. -/
def offerTallyList (v : Base) (p : TallyRec → Bool) : List TallyRec → Sched → List TallyRec × Sched
  | [], s => ([], s)
  | r :: rest, s =>
    let a := if p r then offerTally v r s else (r, s)
    let b := offerTallyList v p rest a.2
    (a.1 :: b.1, b.2)

/-- Offers the waiting tally records that a test picks (R172). -/
def Sched.offerTallies (v : Base) (p : TallyRec → Bool) (s : Sched) : Sched :=
  let a := offerTallyList v p s.tallies s
  { a.2 with tallies := a.1 }

/-- Removes the tally records that a test picks, each with an ORPHAN notice (R172). -/
def Sched.orphan (s : Sched) (cause : OrphanCause) (p : TallyRec → Bool) : Sched :=
  (s.tallies.filter p).foldl (fun s r => s.notice (.orphan r.id r.outcome cause))
    { s with tallies := s.tallies.filter fun r => !p r }

/-- Makes room for one more tally record: one that finds 8 removes the oldest, with an ORPHAN notice of cause FULL. -/
def Sched.tallyRoom (s : Sched) : Sched :=
  match s.tallies with
  | [] => s
  | old :: rest =>
    if 8 ≤ s.tallies.length then { s with tallies := rest }.notice (.orphan old.id old.outcome .full) else s

/-- The tally record of a hosted booking that ends with an outcome and a reason (R172). -/
def Booking.tallyRec (o : BOutcome × Reason) (record : Nat) (b : Booking) : TallyRec :=
  ⟨b.id, o.1, o.2, b.unstartedRank, b.segs, false, record⟩

/-- A hosted booking's tally record joins the tail of the tally list and is weighed for offering (R172). -/
def Sched.addTally (v : Base) (b : Booking) (o : BOutcome × Reason) (s : Sched) : Sched :=
  let s := s.tallyRoom
  let a := offerTally v (b.tallyRec o s.tallyCtr) s
  { a.2 with tallies := a.2.tallies ++ [a.1], tallyCtr := s.tallyCtr + 1 }

/-! ## Episodes -/

/-- What an outcome gives back to the link: MISSED, and CANCELLED by the guide (R60). -/
def restores (o : BOutcome × Reason) : Bool := o.1 == .missed || o == (.cancelled, .guideWithdrawn)

/-- The remaining count rises by 1, up to the initial count (R44). -/
def Count.restore (c : Count) : Count := { c with remaining := min c.initial (c.remaining + 1) }

/-- A link takes back an episode: the code leaves its list, and a counted link's count rises (R45, R60). -/
def Link.restore (episode : Option Nat) (l : Link) : Link :=
  { l with
    episodes := l.episodes.filter fun c => some c != episode
    count := l.count.map Count.restore
    exhausted := match l.count with | some c => c.restore.remaining == 0 | none => l.exhausted }

/-- The outcome of an EPISODE booking reaches the Series Unit (R60). -/
def Sched.episodeOutcome (b : Booking) (o : BOutcome × Reason) (s : Sched) : Sched :=
  if b.cls == .episode && restores o then
    { s with links := s.links.map fun l => if b.link == some l.id then l.restore b.episode else l }
  else s

/-! ## Entry into ENDED -/

/-- The record of an ENDED booking (R6, R8). -/
def Booking.ended (o : BOutcome × Reason) (b : Booking) : Booking :=
  { b with state := .ended, plan := .absent, outcome := some o, confirm := none, peerLost := false }

/-- A booking enters ENDED with an outcome and a reason (R16). Its open segment closes at `time`; `tally` is false only
for a hosted entry whose RETURN takes the place of its TALLY (R181). A WITHDRAW that the abandonment of its seek calls for
is composed before the entry (log entry 49). The re-try that follows is asked for; it comes after
the examinations (R106, R114). -/
def Ev.endAt (v : Base) (h time : Nat) (tally : Bool) (o : Booking → BOutcome × Reason) (e : Ev) : Ev :=
  match e.s.bk h with
  | none => e
  | some b =>
    if b.state = .ended then e
    else
      let b' := { b with segs := closeOpen time b.segs }
      let e := (e.on fun s => s.closeSeg h time).leaveAll v h
      let e := e.on fun s => (s.modB h (Booking.ended (o b'))).disarm h
      let e := e.on (Sched.episodeOutcome b (o b'))
      let e :=
        if b.hosted && tally then
          e.on (Sched.addTally v b' (o b'))
        else e
      (e.on fun s => s.offerOutcome h).askRetry false

/-- A booking enters ENDED at the clock (R16). -/
def Ev.endNow (v : Base) (h : Nat) (o : Booking → BOutcome × Reason) (e : Ev) : Ev := e.endAt v h v.clock true o

/-- CANCEL's effects by state (R14): a LENT booking sends WITHDRAW to its host; then the booking is ENDED CANCELLED. -/
def Ev.cancel (v : Base) (h : Nat) (reason : Reason) (e : Ev) : Ev :=
  let e :=
    match (e.s.bk h).map (·.plan) with
    | some (.lent st) => e.withdraw v h st
    | _ => e
  e.endNow v h fun _ => (.cancelled, reason)

/-! ## The return of a hosted entry -/

/-- Codes of RETURN reasons (R129). -/
inductive ReturnReason
  | displaced
  | signal
  | limit
  | leaving
  | capacity
deriving DecidableEq, Repr

/-- The code of a RETURN reason (R129). -/
def ReturnReason.code : ReturnReason → Nat
  | .displaced => 0
  | .signal => 1
  | .limit => 2
  | .leaving => 3
  | .capacity => 4

/-- The RETURN of a hosted record (R171). -/
def Booking.returnMsg (v : Base) (b : Booking) (r : ReturnReason) : Msg :=
  .giveBack ⟨b.id, r.code, v.tag, b.segs.map (Segment.short v)⟩

/-- A hosted entry is returned to its origin (R171): with two segments or fewer it sends RETURN and is freed without
entering ENDED; with three or four it is ended with the outcome its segments give. -/
def Ev.giveBack (v : Base) (h : Nat) (r : ReturnReason) (e : Ev) : Ev :=
  match e.s.bk h with
  | none => e
  | some b =>
    let b' := { b with segs := closeOpen v.clock b.segs }
    if b.state = .ended then e
    else if b.segs.length ≤ 2 then
      let e := (e.on fun s => s.closeSeg h v.clock).leaveAll v h
      let e := e.on fun s => (s.disarm h).offer v b.rank (b'.returnMsg v r) none
      e.on fun s => s.free h
    else e.endNow v h fun b => b.bySegs .displaced (if r = .signal then .signal else .displaced)

end Sys2Proof.Machine
end

