-- ==== Sys2Proof/Machine/Placement.lean ====
section
/-! DEFINITION. The Placement Engine: occupancies and what a tuner can take (R87, R88), the placement order (R89 to R96)
with the seek preconditions (R159), and the re-try of the unplaced list (R106). -/

namespace Sys2Proof.Machine

/-! ## Occupancies -/

/-- What an occupancy stands for (R87). -/
inductive Who
  | booking (b : Booking)
  | live
  | hold

/-- An occupancy of a tuner: its part at or after the clock, none for without end (R87). -/
structure Occ where
  lo : Nat
  hi : Option Nat
  mux : Nat
  rank : Nat
  who : Who

/-- A booking to place: the part of its tuned interval at or after the clock (R87). -/
structure Want where
  lo : Nat
  hi : Nat
  mux : Nat
  rank : Nat
  cls : BClass

/-- The record that an AWARD makes of a SEEK's details (R170), which a trial placement weighs (R96). -/
def SeekDetails.draft (d : SeekDetails) (id : BookingId) : Booking where
  handle := 0
  id := id
  cls := .hosted
  service := d.service
  mux := d.mux
  event := d.event
  link := none
  episode := none
  start := d.spanStart + 60 * d.pre
  finish := d.spanEnd - 60 * d.post
  pre := d.pre
  post := d.post
  priority := (d.rank - 1) / 2
  follow := d.follow
  running := if d.follow then some .unknown else none
  state := .waiting
  plan := .absent
  order := 0
  attempts := 0
  segs := []
  outcome := none
  confirm := none
  peerLost := false
  endedAt := none
  prepSeq := 0

/-- The occupancy of a booking of a plan (R87). -/
def Booking.occ (v : Base) (b : Booking) : Option Occ :=
  (b.tuned v).map fun p => ⟨p.1, some p.2, b.mux, b.rank, .booking b⟩

/-- The occupancy of a tentative hold (R87). -/
def Hold.occ (v : Base) (x : Hold) : Option Occ :=
  ((x.details.draft x.id).tuned v).map fun p => ⟨p.1, some p.2, x.details.mux, x.details.rank, .hold⟩

/-- The occupancies of a tuner (R87). -/
def Sched.occs (v : Base) (s : Sched) (t : Tuner) : List Occ :=
  (s.planBookings t).filterMap (Booking.occ v) ++
  ((s.tuners.get t).live.toList.map fun l => ⟨v.clock, none, l.mux, 0, .live⟩) ++
  (s.holds.filter fun x => x.tuner == t).filterMap (Hold.occ v)

/-- What a booking asks of a tuner, weighed at the rank of an unstarted booking (R89); none when nothing of its tuned
interval is left. -/
def Booking.want (v : Base) (b : Booking) : Option Want :=
  (b.tuned v).map fun p => ⟨p.1, p.2, b.mux, b.unstartedRank, b.cls⟩

/-- An occupancy overlaps the interval; a start is included, an end is not (R87). -/
def Occ.overlaps (o : Occ) (w : Want) : Bool := o.lo < w.hi && o.hi.all fun h => w.lo < h

/-- An occupancy stands at an instant. -/
def Occ.standsAt (o : Occ) (p : Nat) : Bool := o.lo ≤ p && o.hi.all fun h => p < h

/-- An occupancy counts against the four captures: all but a LIVE hold (R88). -/
def Occ.counts (o : Occ) : Bool :=
  match o.who with
  | .live => false
  | _ => true

/-- At every instant the occupancies are on the booking's multiplex, and the bookings among them number at most 3 (R88).
Their number rises only at the start of one, so those instants are weighed. -/
def canTake (l : List Occ) (w : Want) : Bool :=
  let met := l.filter fun o => o.overlaps w
  met.all (fun o => o.mux == w.mux) &&
  (w.lo :: met.map fun o => max w.lo o.lo).all fun p => (met.filter fun o => o.counts && o.standsAt p).length ≤ 3

/-- The clash policy vector's entry is AUTO (R97). -/
def Base.auto (v : Base) (incumbent newcomer : BClass) : Bool :=
  let index : BClass → Nat := fun c => match c with | .manual => 0 | .event => 1 | .episode => 2 | .hosted => 3
  !(v.cfg.clash.getD (4 * index incumbent + index newcomer) false)

/-- An incumbent may be displaced (R91). -/
def Occ.yields (v : Base) (auto : Bool) (w : Want) (o : Occ) : Bool :=
  match o.who with
  | .booking b => (auto || v.auto b.cls w.cls) && w.rank < o.rank
  | _ => false

/-- The incumbents of a tuner (R91). -/
def Sched.incumbents (v : Base) (s : Sched) (w : Want) (t : Tuner) : List Occ :=
  (s.occs v t).filter fun o => o.overlaps w && o.mux != w.mux

/-- The best incumbent rank of a tuner that qualifies for automatic displacement (R91). -/
def Sched.displaceRank (v : Base) (s : Sched) (auto : Bool) (w : Want) (t : Tuner) : Option Nat :=
  let inc := s.incumbents v w t
  if s.usable t && !inc.isEmpty && inc.all (Occ.yields v auto w) &&
      canTake ((s.occs v t).filter fun o => o.mux == w.mux) w then
    some (inc.foldl (fun r o => min r o.rank) 31)
  else none

/-- The tuner that step 3 takes: the one whose best incumbent rank is the worse; at equal rank, or where an AWARD's tuner
is to be tried first, the one that stands first (R91, R170). `avoid` names a tuner that is not weighed (R100). -/
def Sched.displaceChoice (v : Base) (s : Sched) (auto : Bool) (prefer avoid : Option Tuner) (w : Want) :
    Option (Tuner × Nat) :=
  let first := prefer.getD .A
  let weighed : Tuner → Option Nat := fun t => if avoid = some t then none else s.displaceRank v auto w t
  match weighed first, weighed first.other with
  | some r, some q => if prefer.isNone && r < q then some (first.other, q) else some (first, r)
  | some r, none => some (first, r)
  | none, some q => some (first.other, q)
  | none, none => none

/-- The first of steps 1 to 3 that succeeds: its cost (0 share, 1 free, 2 displace), its tuner and the best incumbent
rank, 31 when nothing is displaced (R90, R91, R96). `prefer` is the tuner that an AWARD's placement tries first (R170),
`avoid` the tuner that a failed check or a refused capture took the booking from (R100). -/
def Sched.choose (v : Base) (s : Sched) (auto : Bool) (prefer avoid : Option Tuner) (b : Booking) :
    Option (Nat × Tuner × Nat) :=
  match b.want v with
  | none => none
  | some w =>
    let first := prefer.getD .A
    let fit := [first, first.other].filter fun t => s.usable t && avoid != some t && canTake (s.occs v t) w
    match fit.find? fun t => (s.occs v t).any fun o => o.overlaps w with
    | some t => some (0, t, 31)
    | none =>
      match fit with
      | t :: _ => some (1, t, 31)
      | [] => (s.displaceChoice v auto prefer avoid w).map fun p => (2, p.1, p.2)

/-! ## The seek preconditions -/

/-- A view's tuner may take a booking that starts soon (R159). -/
def ViewTuner.helps (b : Booking) (t : ViewTuner) : Bool :=
  t.state == 0 || t.mux == some b.mux || b.unstartedRank < t.top

/-- A booking may seek (R159). -/
def Base.maySeek (v : Base) (b : Booking) : Bool :=
  let views := (v.peers.filter Peer.eligible).filterMap fun p => p.view.filter fun x => 1 ≤ x.usable
  v.station == .joined && v.timed && !v.rxFault && !b.hosted &&
  (shortForm v b.spanStart).isSome && (shortForm v b.spanEnd).isSome && v.clock < b.prepareTime v && !views.isEmpty &&
  (v.clock + 120 < b.startTime || views.any fun x => x.tuners.any (ViewTuner.helps b))

/-! ## The placement order -/

/-- What the cause of a placement opens (R89), and what follows from it: whether every entry of the vector is taken as
AUTO, whether it follows a DECLINE or a failed check, the tuner to try first, the tuner not to come back to, and why a
hosted entry is returned. -/
structure Open where
  seek : Bool := false
  refer : Bool := false
  rest : Bool := false
  auto : Bool := false
  declined : Bool := false
  check : Bool := false
  fresh : Bool := false
  prefer : Option Tuner := none
  avoid : Option Tuner := none
  back : ReturnReason := .displaced

/-- Steps 1 to 6. -/
def Open.all : Open := { seek := true, refer := true, rest := true }

/-- Steps 1 to 6, for a booking just made. -/
def Open.new : Open := { seek := true, refer := true, rest := true, fresh := true }

/-- Steps 1, 2, 3, 5, 6: the seek given back, and PREPARE on a SEEKING booking. -/
def Open.given : Open := { refer := true, rest := true }

/-- Steps 1, 2, 3, 5, 6: a failed PREPARE-time check or a capture refused; the booking does not come back onto that tuner
(R100). -/
def Open.failed (t : Tuner) : Open := { refer := true, rest := true, check := true, avoid := some t, back := .capacity }

/-- Steps 1, 2, 3, 4, 6: DECLINE, or the deadline of a referral. -/
def Open.decline : Open := { seek := true, rest := true, declined := true }

/-- Steps 1, 2, 3, 4, 6 with every entry AUTO: ADMIT. -/
def Open.admitted : Open := { seek := true, rest := true, auto := true }

/-- Steps 1 to 4: a re-try, or a booking pushed onto a stack. -/
def Open.retry : Open := { seek := true }

/-- A booking's record in a state that holds no loan: plan as given, no confirm deadline, no peer-lost mark (R6). -/
def Booking.inState (st : BState) (p : Plan) (b : Booking) : Booking :=
  { b with state := st, plan := p, confirm := none, peerLost := false }

/-- Inserts an entry into a plan, in order of span start and order number (R86). -/
def Sched.insertPlan (s : Sched) (p : PlanEntry) : List PlanEntry → List PlanEntry
  | [] => [p]
  | x :: rest =>
    match s.bk p.handle, s.bk x.handle with
    | some b, some c => if b.before c then p :: x :: rest else x :: s.insertPlan p rest
    | _, _ => x :: s.insertPlan p rest

/-- A booking joins a tuner's plan (R86). -/
def Sched.joinPlan (s : Sched) (t : Tuner) (p : PlanEntry) : Sched := { s with plans := s.plans.mod t (s.insertPlan p) }

/-- A booking leaves the unplaced list and its stack record, because a step places it (R105, R113). -/
def Ev.leaveWaiting (h : Nat) (e : Ev) : Ev := (e.on fun s => s.leaveUnplaced h).leaveStack h

/-- A booking joins the chosen tuner's plan and enters PLANNED (R90). -/
def Ev.enterPlan (v : Base) (h : Nat) (t : Tuner) (preempts : Bool) (e : Ev) : Ev :=
  let e := e.leaveWaiting h
  (e.on fun s => (s.modB h (Booking.inState .planned (.tuner t))).joinPlan t ⟨h, preempts⟩).arm v h

/-- Step 4: the booking enters SEEKING and joins the seek queue (R93). -/
def Ev.enterSeek (v : Base) (h : Nat) (e : Ev) : Ev :=
  let e := e.leaveWaiting h
  let e := e.on fun s =>
    let s := s.modB h (Booking.inState .seeking .absent)
    let hs := s.insertHandle h (s.seekQueue.map (·.handle))
    { s with seekQueue := hs.map fun x => (s.seekQueue.find? fun q => q.handle == x).getD ⟨x, none⟩ }
  (e.arm v h).askLook

/-- The referral that step 5 would make (R94): the deadline, the tuner and its incumbents. -/
def Sched.referral (v : Base) (s : Sched) (b : Booking) (check : Bool) : Option Referral :=
  let deadline :=
    if v.clock < b.prepareTime v then some (b.prepareTime v)
    else if v.clock < b.startTime then some b.startTime
    else none
  match deadline, b.want v with
  | some d, some w =>
    (s.displaceChoice v true none none w).map fun p =>
      let hs := (s.incumbents v w p.1).filterMap fun o => match o.who with | .booking c => some c.handle | _ => none
      ⟨b.handle, p.1, ascending hs, d, if check then .prepareCheck else .placement⟩
  | _, _ => none

/-- The REFERRAL notice (R94). -/
def Sched.referralNotice (s : Sched) (b : Booking) (r : Referral) : Notice :=
  .referral b.handle b.id b.cls b.service b.start b.finish r.tuner r.source r.deadline
    (r.incumbents.filterMap fun h => (s.bk h).map fun c => (h, c.id, c.cls, c.rank))

/-- Step 5: the booking enters REFERRED (R94). -/
def Ev.refer (v : Base) (b : Booking) (r : Referral) (e : Ev) : Ev :=
  let e := e.leaveWaiting b.handle
  let e := e.on fun s => { s.modB b.handle (Booking.inState .referred .absent) with referrals := s.referrals ++ [r] }
  (e.arm v b.handle).on fun s => s.notice (s.referralNotice b r)

/-- The last step that the UNPLACED notice names (R95). -/
def Sched.lastStep (v : Base) (s : Sched) (o : Open) (b : Booking) : LastStep :=
  if o.declined then .declined
  else if v.cfg.seekLimit ≤ b.attempts then .seekSpent
  else if o.seek && v.maySeek b && 16 ≤ s.seekQueue.length then .seekFull
  else .noTuner

/-- Step 6: the booking is left WAITING in the unplaced list; a notice is queued when it is new or enters WAITING from
another state (R95). -/
def Ev.leaveUnplaced (v : Base) (o : Open) (b : Booking) (e : Ev) : Ev :=
  let last := e.s.lastStep v o b
  let e := e.leaveStack b.handle
  let e := (e.on fun s => (s.modB b.handle (Booking.inState .waiting .absent)).joinUnplaced b.handle).arm v b.handle
  if o.fresh || b.state != .waiting then
    e.on fun s => s.notice (.unplaced b.handle b.id b.cls b.service b.start b.finish last)
  else e

/-- Steps 4 to 6, for a booking that steps 1 to 3 do not place; a hosted entry is returned (R93 to R96). -/
def Ev.afterThree (v : Base) (o : Open) (b : Booking) (e : Ev) : Ev :=
  if b.hosted then e.giveBack v b.handle o.back
  else if o.seek && v.maySeek b && b.attempts < v.cfg.seekLimit && e.s.seekQueue.length < 16 then e.enterSeek v b.handle
  else
    match (if o.refer then e.s.referral v b o.check else none) with
    | some r => e.refer v b r
    | none => if o.rest then e.leaveUnplaced v o b else e

/-- The bookings of a plan that a displacement takes away from a tuner (R92). -/
def Sched.displaced (v : Base) (s : Sched) (b : Booking) (t : Tuner) : List Booking :=
  match b.want v with
  | none => []
  | some w => (s.incumbents v w t).filterMap fun o => match o.who with | .booking c => some c | _ => none

/-- Placing a booking takes it through the placement order (R89). A displaced PLANNED incumbent is placed in its turn, and
each displacement of the chain is of a strictly worse rank (R92): the first argument bounds the chain. -/
def placeIn : Nat → Base → Open → Nat → Ev → Ev
  | n, v, o, h, e =>
    match e.s.bk h with
    | none => e
    | some b =>
      match n, e.s.choose v o.auto o.prefer o.avoid b with
      | _, some (0, t, _) => e.enterPlan v h t false
      | _, some (1, t, _) => e.enterPlan v h t false
      | n + 1, some (_, t, _) =>
        let gone := e.s.displaced v b t
        let planned := (gone.filter fun c => !c.occupies).map (·.handle)
        let e := e.enterPlan v h t (gone.any Booking.occupies)
        let e := planned.foldl (fun e c => e.leavePlan c) e
        planned.foldl (fun e c => placeIn n v Open.all c e) e
      | _, _ => e.afterThree v o b

/-- Placing a booking (R89). A chain of displacements ends within 16 ranks (R92). -/
def Ev.place (v : Base) (o : Open) (h : Nat) (e : Ev) : Ev := placeIn 17 v o h e

/-- Several bookings are placed one at a time, in order of span start and order number (R89). -/
def Ev.placeEach (v : Base) (o : Open) (hs : List Nat) (e : Ev) : Ev :=
  (e.s.inSpanOrder hs).foldl (fun e h => e.place v o h) e

/-- One entry of the unplaced list in a re-try (R106). -/
def Ev.retryOne (v : Base) (keep : Bool) (e : Ev) (h : Nat) : Ev :=
  if e.s.unplaced.contains h then
    (if keep then e else e.on fun s => s.modB h fun b => { b with attempts := 0 }).place v Open.retry h
  else e

/-- A re-try of the unplaced list (R106): its entries as they stood, in list order. One in which no entry is placed
changes nothing (log entry 11). -/
def Ev.retryAll (v : Base) (keep : Bool) (e : Ev) : Ev :=
  let e' := e.s.unplaced.foldl (Ev.retryOne v keep) e
  if e'.s.plans = e.s.plans ∧ e'.s.seekQueue = e.s.seekQueue then e else e'

end Sys2Proof.Machine
end

