-- ==== Sys2Proof/Machine/Capture.lean ====
section
/-! DEFINITION. Entry into PREPARING (R33), the capture rule (R35) with the capture of a booking (R41, R64, R119), and the
outcomes of a closing trigger by state (R36, R37, R116). -/

namespace Sys2Proof.Machine

/-- A booking enters PREPARING: its entry takes the next place in the order of such entries (R63, log entry 12), and its
trigger is re-armed. -/
def Ev.enterPreparing (v : Base) (h : Nat) (e : Ev) : Ev :=
  (e.on fun s =>
    { s.modB h (fun b => { b with state := .preparing, prepSeq := s.prepCtr }) with prepCtr := s.prepCtr + 1 }).arm v h

/-- What the running field lets a booking do (R35). -/
inductive Verdict
  | wait
  | capture
  | pause
deriving DecidableEq, Repr

/-- The table of R35. A booking whose follow is no captures. -/
def Booking.verdict (v : Base) (b : Booking) : Verdict :=
  let atGrace : Verdict := if b.graceTime v ≤ v.clock then .capture else .wait
  if !b.follow then .capture
  else
    match b.running.getD .unknown, b.segs.isEmpty with
    | .running, _ => .capture
    | .unknown, _ | .notYet, _ => atGrace
    | .ended, true => atGrace
    | .ended, false => .capture
    | .paused, true => atGrace
    | .paused, false => if b.graceTime v ≤ v.clock then .pause else .wait

/-- The segment that opens on a local tuner (R41). -/
def openSegment (v : Base) (t : Tuner) : Segment := ⟨v.cfg.station, some t, v.clock, none⟩

/-- A segment joins a booking's list, which never holds more than four (R118). -/
def Booking.addSegment (g : Segment) (b : Booking) : Booking :=
  { b with segs := if b.segs.length < 4 then b.segs ++ [g] else b.segs }

/-- A capture that the Tuner Controller refuses (R64, R100): the booking leaves its plan and PREPARING, and is placed as
one whose PREPARE-time check fails, at the rank of an unstarted booking. -/
def Ev.captureRefused (v : Base) (b : Booking) (t : Tuner) (e : Ev) : Ev :=
  ((e.leavePlan b.handle).on fun s => s.modB b.handle fun c => { c with state := .planned }).place v (Open.failed t) b.handle

/-- A booking captures (R35): a fifth segment ends it instead (R119), a full capture list sends it back to placement (R64,
R100), and otherwise it enters RECORDING with a new segment and joins the capture list (log entry 13). -/
def Ev.capture (v : Base) (b : Booking) (t : Tuner) (e : Ev) : Ev :=
  if 4 ≤ b.segs.length then e.endNow v b.handle fun _ => (.partly, .segments)
  else if 4 ≤ (e.s.tuners.get t).captures.length then e.captureRefused v b t
  else
    (e.on fun s =>
      (s.modB b.handle fun c => { c.addSegment (openSegment v t) with state := .recording }).joinCapture t
        ⟨b.service, b.handle⟩).arm v b.handle

/-- The capture rule is applied to a booking (R35). It acts on a PREPARING booking alone. -/
def Ev.captureRule (v : Base) (h : Nat) (e : Ev) : Ev :=
  match e.s.bk h with
  | none => e
  | some b =>
    match b.state, b.plan with
    | .preparing, .tuner t =>
      if e.s.lockedOn t b.mux && b.startTime ≤ v.clock then
        match b.verdict v with
        | .wait => e
        | .capture => e.capture v b t
        | .pause => (e.on fun s => s.modB h fun c => { c with state := .paused }).arm v h
      else e
    | _, _ => e

/-- The capture rule is applied to each PREPARING booking of a tuner, in the order of entry into PREPARING (R69). -/
def Ev.captureAll (v : Base) (t : Tuner) (e : Ev) : Ev :=
  (byPrep ((e.s.occupants t).filter fun b => b.state == .preparing)).foldl (fun e b => e.captureRule v b.handle) e

/-! ## Closing -/

/-- The reason of the stack record that holds a handle (R109). -/
def Sched.pushReason (s : Sched) (h : Nat) : Option PushReason :=
  ((s.stacked.a ++ s.stacked.b).find? fun r => r.handles.contains h).map (·.reason)

/-- The reason that a SUSPENDED booking's ending gives, by its record's reason (R116). -/
def suspendedReason (r : Option PushReason) : Reason := if r = some .signal then .signal else .displaced

/-- The outcome and reason that a closing trigger gives by the booking's state (R36, R37). `r` is the reason of its stack
record. A WAITING, REFERRED or PREPARING booking with segments is PARTIAL also where they cover it (log entry 51). -/
def Booking.closing (r : Option PushReason) (b : Booking) : BOutcome × Reason :=
  match b.state with
  | .covered => (.covered, .none)
  | .lent => (.unknown, if b.peerLost then .peerLost else .none)
  | .preparing => if b.segs.isEmpty then (.missed, .signal) else (.partly, .signal)
  | .recording | .paused => b.bySegs .none .none
  | .suspended => b.bySegs (suspendedReason r) (suspendedReason r)
  | _ => if b.segs.isEmpty then (.missed, .noTuner) else (.partly, .displaced)

/-- A closing trigger ends a booking (R36, R37). -/
def Ev.closeBooking (v : Base) (h : Nat) (e : Ev) : Ev :=
  let r := e.s.pushReason h
  e.endNow v h (Booking.closing r)

end Sys2Proof.Machine
end

