-- ==== Sys2Proof/Machine/Stacks.lean ====
section
/-! DEFINITION. The Displacement Stacks: the push (R111), eviction (R112), the end of a cause (R110), the examination
(R114) and the pop (R115, R116). -/

namespace Sys2Proof.Machine

/-! ## Push -/

/-- A booking is taken off its tuner (R111, steps 1 to 4) and enters SUSPENDED, or WAITING under a depth limit of 0. -/
def Ev.suspend (v : Base) (st : BState) (e : Ev) (h : Nat) : Ev :=
  let e := (e.on fun s => (s.closeSeg h v.clock).leaveCapture h).leavePlan h
  let e := (e.on fun s => s.modB h fun b => { b with state := st, plan := .absent }).arm v h
  e.on fun s => s.joinUnplaced h

/-- The handles and booking ids that an EVICTED notice names (R112). -/
def Sched.named (s : Sched) (hs : List Nat) : List (Nat × BookingId) :=
  hs.filterMap fun h => (s.bk h).map fun b => (h, b.id)

/-- An EVICTED notice for a record (R112). -/
def Sched.evictedNotice (t : Tuner) (kind : EvictKind) (r : StackRec) (hs : List Nat) (s : Sched) : Sched :=
  s.notice (.evicted t kind r.reason r.mux r.displacedAt (s.named hs))

/-- The bookings of a list enter WAITING (R112, R115). -/
def Sched.allWaiting (s : Sched) (hs : List Nat) : Sched :=
  hs.foldl (fun s h => s.modB h fun b => { b with state := .waiting }) s

/-- The bottom record of a stack is evicted (R112). -/
def Sched.evictBottom (t : Tuner) (kind : EvictKind) (s : Sched) : Sched :=
  match (s.stacked.get t).getLast? with
  | none => s
  | some r =>
    (({ s with stacked := s.stacked.mod t List.dropLast }).allWaiting r.handles).evictedNotice t kind r r.handles

/-- Bottom records are evicted until the stack holds at most n (R112, R123): the first argument bounds the rounds. -/
def evictTo : Nat → Tuner → EvictKind → Nat → Sched → Sched
  | 0, _, _, _, s => s
  | k + 1, t, kind, n, s => if n < (s.stacked.get t).length then evictTo k t kind n (s.evictBottom t kind) else s

/-- Evicts down to n records. -/
def Sched.evictDown (t : Tuner) (kind : EvictKind) (n : Nat) (s : Sched) : Sched :=
  evictTo (s.stacked.get t).length t kind n s

/-- One group of bookings on one multiplex is pushed onto a tuner's stack (R111, R112). -/
def Ev.pushGroup (v : Base) (t : Tuner) (reason : PushReason) (by' : Option (Nat × BookingId)) (e : Ev)
    (g : Nat × List Nat) : Ev :=
  let r : StackRec := ⟨g.2, g.1, v.clock, reason, by', false⟩
  if v.cfg.depth = 0 then
    (g.2.foldl (Ev.suspend v .waiting) e).on (Sched.evictedNotice t .noStack r g.2)
  else
    (g.2.foldl (Ev.suspend v .suspended) e).on fun s =>
      let s := s.evictDown t .stackFull (v.cfg.depth - 1)
      { s with stacked := s.stacked.mod t (List.cons r) }

/-- Adds a booking to the group of its multiplex, or begins a group. -/
def addToGroup (b : Booking) : List (Nat × List Nat) → List (Nat × List Nat)
  | [] => [(b.mux, [b.handle])]
  | g :: rest => if g.1 = b.mux then (g.1, g.2 ++ [b.handle]) :: rest else g :: addToGroup b rest

/-- The bookings of one push by multiplex, in the order of the earliest entry into PREPARING on each (R111). -/
def groups (l : List Booking) : List (Nat × List Nat) := (byPrep l).foldl (fun acc b => addToGroup b acc) []

/-- A push (R111): one record for each multiplex. -/
def Ev.push (v : Base) (t : Tuner) (reason : PushReason) (by' : Option (Nat × BookingId)) (l : List Booking) (e : Ev) : Ev :=
  (groups l).foldl (Ev.pushGroup v t reason by') e

/-- The pushed bookings are placed at once, record by record and in handle order within each (R107, R111). -/
def Ev.placePushed (v : Base) (l : List Booking) (e : Ev) : Ev :=
  ((groups l).flatMap fun g => ascending g.2).foldl (Ev.retryOne v true) e

/-! ## Causes -/

/-- The cause of the records that a test picks ends on a tuner, and the stack is to be examined (R110, R114). -/
def Ev.endCauses (t : Tuner) (p : PushReason → Bool) (e : Ev) : Ev :=
  (e.on fun s =>
    { s with stacked := s.stacked.mod t (List.map fun r => if p r.reason then { r with causeEnded := true } else r) }).askExam t

/-! ## Pop -/

/-- The four conditions under which a record pops (R114). -/
def Sched.pops (s : Sched) (t : Tuner) (r : StackRec) : Bool :=
  r.causeEnded && s.usable t && (s.tuners.get t).live.all (fun l => l.mux == r.mux) &&
  (s.occupants t).all (fun b => b.mux == r.mux) && (s.occupants t).length ≤ 3

/-- A booking resumes on the tuner (R115). -/
def Ev.resume (v : Base) (t : Tuner) (h : Nat) (e : Ev) : Ev :=
  let e := e.on fun s => (s.leaveUnplaced h).modB h fun b => { b with plan := .tuner t }
  let e := (e.on fun s => s.joinPlan t ⟨h, false⟩).enterPreparing v h
  e.captureRule v h

/-- What a pop has done so far: the event, whether a booking has resumed, and the handles left over. -/
structure Pop where
  e : Ev
  resumed : Bool
  left : List Nat

/-- One booking of a popped record (R115). -/
def Pop.one (v : Base) (t : Tuner) (reason : PushReason) (p : Pop) (h : Nat) : Pop :=
  match p.e.s.bk h with
  | none => p
  | some b =>
    if b.closeTime v ≤ v.clock then { p with e := p.e.endNow v h (Booking.closing (some reason)) }
    else if (p.e.s.occupants t).length ≤ 3 then { p with e := p.e.resume v t h, resumed := true }
    else { p with left := p.left ++ [h] }

/-- The top record leaves the stack and its bookings are taken in its order (R115); a NO-ROOM notice follows the last of
them (log entry 45). -/
def Ev.pop (v : Base) (t : Tuner) (r : StackRec) (e : Ev) : Pop :=
  let e := e.on fun s => { s with stacked := s.stacked.mod t List.tail }
  let p := r.handles.foldl (Pop.one v t r.reason) ⟨e, false, []⟩
  if p.left.isEmpty then p
  else { p with e := p.e.on fun s => (s.allWaiting p.left).evictedNotice t .noRoom r p.left }

/-- A stack is examined (R114): pops follow one another until one resumes a booking or the top record does not meet the
conditions. The first argument bounds the chain. -/
def examine : Nat → Base → Tuner → Ev → Ev
  | 0, _, _, e => e
  | n + 1, v, t, e =>
    match e.s.stacked.get t with
    | [] => e
    | r :: _ =>
      if e.s.pops t r then
        let p := e.pop v t r
        if p.resumed then p.e else examine n v t p.e
      else e

end Sys2Proof.Machine
end

