-- ==== Sys2Proof/Machine/Engine.lean ====
section
/-! DEFINITION. The seek engine: the look for a booking and its SEEK (R161), the choice of a bid and the AWARD (R163,
R164), and the end of an attempt (R165). -/

namespace Sys2Proof.Machine

/-- The SEEK of a booking (R161). -/
def Booking.seekMsg (v : Base) (b : Booking) : Msg :=
  .seek ⟨v.tag, b.id, b.attempts, b.service, b.mux, b.event.getD 0, (shortForm v b.spanStart).getD 0,
    (shortForm v b.spanEnd).getD 0, b.pre, b.post, b.rank, b.follow.toNat + 2 * b.event.isSome.toNat, v.cfg.bidWindow⟩

/-- The engine becomes IDLE and is to look again (R161). -/
def Ev.engineIdle (e : Ev) : Ev := (e.on fun s => { s with engine := .idle }).askLook

/-- A booking leaves the seek queue. -/
def Sched.leaveSeek (s : Sched) (h : Nat) : Sched := { s with seekQueue := s.seekQueue.filter fun q => q.handle != h }

/-- A booking is given back by the seek: it leaves the queue and is placed by steps 1, 2, 3, 5 and 6 (R161, R165). -/
def Ev.giveUp (v : Base) (h : Nat) (e : Ev) : Ev := (e.on fun s => s.leaveSeek h).place v Open.given h

/-- The ready time after an attempt: 10 s for each attempt and the station number in seconds (R165). -/
def readyTime (v : Base) (attempts : Nat) : Nat := v.now + (10 * attempts + v.cfg.station) * unit

/-- An attempt of the engine's booking ends (R165). -/
def Ev.attemptEnds (v : Base) (h : Nat) (e : Ev) : Ev :=
  let e := e.engineIdle
  match e.s.bk h with
  | none => e
  | some b =>
    if b.attempts < v.cfg.seekLimit then
      e.on fun s => { s with
        seekQueue := s.seekQueue.map fun q => if q.handle = h then { q with ready := some (readyTime v b.attempts) } else q }
    else (e.giveUp v h).askRetry true

/-- A SEEK is composed for a booking and offered (R161); one that is not taken ends the attempt. -/
def Ev.sendSeek (v : Base) (h : Nat) (e : Ev) : Ev :=
  let e := e.on fun s => s.modB h fun b => { b with attempts := b.attempts + 1 }
  match e.s.bk h with
  | none => e
  | some b =>
    if taken v (b.seekMsg v) e.s then
      e.on fun s => { s.offer v b.rank (b.seekMsg v) none with engine := .collecting h none [] }
    else e.attemptEnds v h

/-- An entry is ready: its ready time is absent or reached (R161). -/
def SeekEntry.isReady (v : Base) (q : SeekEntry) : Bool := q.ready.all fun t => t ≤ v.now

/-- The engine looks for a booking when it is IDLE (R161). -/
def Ev.look1 (v : Base) (e : Ev) : Ev :=
  match e.s.engine, e.s.seekQueue.find? (SeekEntry.isReady v) with
  | .idle, some q =>
    match e.s.bk q.handle with
    | none => e
    | some b => if v.maySeek b then e.sendSeek v q.handle else (e.giveUp v q.handle).askLook
  | _, _ => e

/-- One bid is better than another (R163). -/
def Bid.better (a b : Bid) : Bool :=
  a.cost < b.cost ||
  (a.cost == b.cost && (b.displaced < a.displaced || (a.displaced == b.displaced && a.station < b.station)))

/-- The best bid (R163). -/
def bestBid : List Bid → Option Bid
  | [] => none
  | x :: rest =>
    match bestBid rest with
    | none => some x
    | some y => if y.better x then some y else some x

/-- The engine awards the best of the bids (R163), or ends the attempt; an AWARD that the transmit queue does not take
counts as a DECLINE (R164). The first argument bounds the chain. -/
def awardNext : Nat → Base → Nat → List Bid → Ev → Ev
  | 0, v, h, _, e => e.attemptEnds v h
  | n + 1, v, h, bids, e =>
    let bids := bids.filter fun x => v.isEligible x.station
    match bestBid bids, e.s.bk h with
    | some x, some b =>
      let m := Msg.award ⟨b.id, b.attempts, x.station, x.tuner⟩
      if taken v m e.s then
        e.on fun s => { s.offer v b.rank m none with engine := .awaiting h x.station none bids }
      else awardNext n v h (bids.filter fun y => y.station != x.station) e
    | _, _ => e.attemptEnds v h

/-- The engine awards by R163. -/
def Ev.award (v : Base) (h : Nat) (bids : List Bid) (e : Ev) : Ev := awardNext (bids.length + 1) v h bids e

/-- The awardee is out: its entry leaves the bid list and the engine awards the next (R164). -/
def Ev.awardeeOut (v : Base) (h station : Nat) (bids : List Bid) (e : Ev) : Ev :=
  e.award v h (bids.filter fun x => x.station != station)

end Sys2Proof.Machine
end

