-- ==== Sys2Proof/Machine/Event.lean ====
section
/-! DEFINITION. How an event ends (log entry 9): the examinations of the stacks, then the re-try of the unplaced list, then
the look of the seek engine, and the directives last (R65, R106, R114, R161). -/

namespace Sys2Proof.Machine

/-- The parts still to come of an event are carried out, each of which may call for another (R106, R114, R161). The first
argument bounds the rounds. -/
def work : Nat → Base → Ev → Ev
  | 0, _, e => e
  | n + 1, v, e =>
    if e.exam.a then work n v (examine 4 v .A { e with exam := { e.exam with a := false } })
    else if e.exam.b then work n v (examine 4 v .B { e with exam := { e.exam with b := false } })
    else
      match e.retry with
      | some keep => work n v ({ e with retry := none }.retryAll v keep)
      | none => if e.look then work n v ({ e with look := false }.look1 v) else e

/-- The parts of an event that follow its own effects. -/
def Ev.finish (v : Base) (e : Ev) : Ev := work 512 v e

/-- An event ends: what follows from its effects, and then one directive for each tuner for which something changed
(R65). -/
def Ev.close (v : Base) (e : Ev) : Ev := (e.finish v).on (Sched.reviseAll v)

end Sys2Proof.Machine
end

