-- ==== Sys2Proof/Machine/Availability.lean ====
section
/-! DEFINITION. The usable set: a tuner leaves it (R75) or enters it (R76), the power budget choice (R74), entry into FAILED
(R71) and the return from it (R72), the fitted count (R73). -/

namespace Sys2Proof.Machine

/-- The USABLE notice of a tuner (R77). -/
def Sched.usableNotice (t : Tuner) (liveLost : Bool) (s : Sched) : Sched :=
  let r := s.tuners.get t
  s.notice (.usable t r.marks.none r.marks r.state liveLost)

/-- The record of a tuner that the configuration takes away: IDLE, no multiplex, timers stopped, unread mark clear (R73,
log entry 20). -/
def TunerRec.unfit (r : TunerRec) : TunerRec :=
  { r with
    state := .idle
    captures := []
    live := none
    directive := ⟨r.directive.serial, none, none, []⟩
    unread := false
    tuneTimer := none
    recheck := none
    marks := { r.marks with signal := false } }

/-- The RETURN reason of a cause (R171). -/
def PushReason.back : PushReason → ReturnReason
  | .signal => .signal
  | .limit => .limit
  | _ => .displaced

/-- The release of a tuner that has left the usable set (R75, step 5): a directive, but none on a FITTED mark. -/
def Sched.release (v : Base) (t : Tuner) (s : Sched) : Sched :=
  if (s.tuners.get t).marks.fitted then s.modTuner t TunerRec.unfit else s.revise v t

/-- A tuner leaves the usable set (R75); its mark has been set. Its hosted bookings are returned in the order of its plan
(log entry 35). -/
def Ev.leaveUsable (v : Base) (t : Tuner) (cause : PushReason) (e : Ev) : Ev :=
  let lost := (e.s.tuners.get t).live.isSome
  let e := e.on fun s => s.modTuner t fun r => { r with live := none }
  let pushed := (e.s.occupants t).filter fun b => !b.hosted
  let e := e.push v t cause none pushed
  let hosted := (e.s.planBookings t).filter Booking.hosted
  let e := hosted.foldl (fun e b => e.giveBack v b.handle cause.back) e
  let e := e.placePushed v pushed
  let planned := (e.s.planBookings t).map (·.handle)
  let e := planned.foldl (fun e h => e.leavePlan h) e
  let e := e.placeEach v Open.all planned
  (e.on (Sched.release v t)).on (Sched.usableNotice t lost)

/-- A tuner that enters the usable set ends the causes of its limit, and that of a LIVE hold cleared meanwhile (R76, step
1; R110). -/
def Ev.endLimits (e : Ev) (t : Tuner) : Ev := e.endCauses t fun p => p == .limit || p == .signal || p == .live

/-- Tuners enter the usable set in one event (R76): the causes end and the stacks pop, then the unplaced list is re-tried
(R114), and the notices follow. -/
def Ev.enterUsable (v : Base) (ts : List Tuner) (e : Ev) : Ev :=
  if ts.isEmpty then e
  else
    let e := ((ts.foldl Ev.endLimits e).askRetry false).finish v
    ts.foldl (fun e t => e.on (Sched.usableNotice t false)) e

/-- The candidates of the budget choice (R74): the fitted tuners that are not FAILED. -/
def Sched.candidates (v : Base) (s : Sched) : List Tuner :=
  v.fittedTuners.filter fun t => (s.tuners.get t).state != .failed

/-- The candidates kept by the budget (R74): those with the best top rank, the lower index among equals. -/
def Sched.kept (v : Base) (s : Sched) : List Tuner :=
  let c := s.candidates v
  if c.length ≤ s.budget then c
  else if s.budget = 0 then []
  else if s.topRank .B < s.topRank .A then [.B] else [.A]

/-- The BUDGET marks after a choice (R74). A tuner that is no candidate keeps the mark it had. -/
def Sched.budgetMarks (v : Base) (s : Sched) : Sched :=
  let kept := s.kept v
  (s.candidates v).foldl (fun s t => s.modTuner t fun r => { r with marks := { r.marks with budget := !kept.contains t } }) s

/-- The budget choice is made (R74). Tuners that leave the usable set by it are handled before those that enter (R75);
`before` says which were usable before the event changed a mark. Of two that leave, or enter, tuner A comes first (log
entry 35). -/
def Ev.choose (v : Base) (before : Tuner → Bool) (e : Ev) : Ev :=
  let e := e.on (Sched.budgetMarks v)
  let leave := [Tuner.A, .B].filter fun t => before t && !e.s.usable t
  let enter := [Tuner.A, .B].filter fun t => !before t && e.s.usable t
  let e := leave.foldl (fun e t => e.leaveUsable v t .limit) e
  e.enterUsable v enter

/-- A tuner enters FAILED (R71), and then the budget choice is made (R74, log entry 35). -/
def Ev.fail (v : Base) (t : Tuner) (e : Ev) : Ev :=
  let was := e.s.usable t
  let e := e.on fun s => s.modTuner t fun r =>
    { r with
      state := .failed
      tuneTimer := none
      recheck := some (v.now + v.cfg.recheck * unit)
      marks := { r.marks with signal := true } }
  let e := if was then e.leaveUsable v t .signal else e.on (Sched.release v t)
  e.choose v e.s.usable

/-- The recheck timer of a FAILED tuner expires (R72). -/
def Ev.recheck (v : Base) (t : Tuner) (e : Ev) : Ev :=
  let before := e.s.usable
  (e.on fun s => s.modTuner t fun r =>
    { r with state := .idle, recheck := none, marks := { r.marks with signal := false } }).choose v before

/-- The fitted count changes (R73): tuner B loses its place or may have it back, and the budget choice is made. -/
def Ev.refit (v : Base) (e : Ev) : Ev :=
  let before := e.s.usable
  if v.cfg.fitted = 1 then
    let e := e.on fun s => s.modTuner .B fun r => { r with marks := { r.marks with fitted := true } }
    let e := if before .B then e.leaveUsable v .B .limit else e.on (Sched.release v .B)
    e.choose v e.s.usable
  else
    (e.on fun s => s.modTuner .B fun r => { r with marks := { r.marks with fitted := false } }).choose v before

end Sys2Proof.Machine
end

