-- ==== Sys2Proof/Machine/Triggers.lean ====
section
/-! DEFINITION. What each trigger does (R33 to R37) with the PREPARE-time check (R98 to R100), and how late events settle
(R32). -/

namespace Sys2Proof.Machine

/-- The conflicting occupants of a tuner for a booking: those on another multiplex whose close time is later than the
clock (R98). -/
def Sched.conflicting (v : Base) (s : Sched) (b : Booking) (t : Tuner) : List Booking :=
  (s.occupants t).filter fun c => c.mux != b.mux && v.clock < c.closeTime v

/-- The pre-empts mark of a booking's plan entry (R86). -/
def Sched.preempts (s : Sched) (h : Nat) : Bool := (s.plans.a ++ s.plans.b).any fun p => p.handle == h && p.preempts

/-- The PREPARE-time check (R98). The last condition counts every occupant on the booking's multiplex, also one that has
reached its end (log entry 44). -/
def Sched.checkPasses (v : Base) (s : Sched) (b : Booking) (t : Tuner) : Bool :=
  s.usable t && (s.tuners.get t).live.all (fun l => l.mux == b.mux) &&
  (s.conflicting v b t).all (fun c => b.rank < c.rank && (v.auto c.cls b.cls || s.preempts b.handle)) &&
  countOf (fun c => c.mux == b.mux) (s.occupants t) ≤ 3

/-- The pre-empts mark of a booking's plan entry is cleared (R99). -/
def Sched.clearPreempts (h : Nat) (s : Sched) : Sched :=
  { s with plans := s.plans.both (List.map fun p => if p.handle = h then { p with preempts := false } else p) }

/-- A check that passes (R99): the conflicting occupants are pushed or returned, the hosted ones in the order of the plan
(log entry 35), the booking enters PREPARING, sends its
MARK and is weighed by the capture rule (R33), and the pushed bookings are placed at once (R107). -/
def Ev.preparePassed (v : Base) (b : Booking) (t : Tuner) (e : Ev) : Ev :=
  let out := e.s.conflicting v b t
  let pushed := out.filter fun c => !c.hosted
  let e := e.push v t .rank (some (b.handle, b.id)) pushed
  let e := (out.filter Booking.hosted).foldl (fun e c => e.giveBack v c.handle .displaced) e
  let e := ((e.on (Sched.clearPreempts b.handle)).enterPreparing v b.handle).on (Sched.offerMark v b.handle)
  (e.captureRule v b.handle).placePushed v pushed

/-- A referral is answered as DECLINE (R103). -/
def Ev.decline (v : Base) (h : Nat) (e : Ev) : Ev := (e.on fun s => s.leaveReferral h).place v Open.decline h

/-- PREPARE fires (R33). -/
def Ev.firePrepare (v : Base) (h : Nat) (e : Ev) : Ev :=
  match e.s.bk h with
  | none => e
  | some b =>
    match b.state, b.plan with
    | .planned, .tuner t =>
      if e.s.checkPasses v b t then e.preparePassed v b t else (e.leavePlan h).place v (Open.failed t) h
    | .seeking, _ => (e.abandon v h).place v Open.given h
    | .referred, _ => e.decline v h
    | _, _ => e

/-- START or GRACE fires (R34, log entry 32). -/
def Ev.fireStart (v : Base) (h : Nat) (e : Ev) : Ev :=
  match (e.s.bk h).map Booking.state with
  | some BState.preparing =>
    let e := e.captureRule v h
    if (e.s.bk h).any fun b => b.state == .preparing then e.arm v h else e
  | some BState.referred => e.decline v h
  | _ => e

/-- STOP fires (R36): it is set aside by a running field RUNNING or PAUSED, but not in COVERED. -/
def Ev.fireStop (v : Base) (h : Nat) (e : Ev) : Ev :=
  match e.s.bk h with
  | none => e
  | some b => if b.follow && b.keepsRunning && b.state != .covered then e.arm v h else e.closeBooking v h

/-- OVERRUN fires (R37). -/
def Ev.fireOverrun (v : Base) (h : Nat) (e : Ev) : Ev := e.closeBooking v h

/-- The trigger of a kind fires on a booking. -/
def Ev.fire (v : Base) (h : Nat) (k : TrigKind) (e : Ev) : Ev :=
  match k with
  | .prepare => e.firePrepare v h
  | .start | .grace => e.fireStart v h
  | .stop => e.fireStop v h
  | .overrun => e.fireOverrun v h

/-- Late events fire one after another, each an event of its own (R32, log entry 8). The first argument bounds the chain. -/
def settleIn : Nat → Base → Sched → List Nat → Sched
  | 0, _, s, _ => s
  | _, _, s, [] => s
  | n + 1, v, s, h :: rest =>
    match s.trigger h with
    | none => settleIn n v s rest
    | some t =>
      if t.time ≤ v.clock then
        let e := ((Ev.of s).fire v h t.kind).close v
        settleIn n v e.s (rest ++ e.late)
      else settleIn n v s rest

/-- An event is carried out to its end on the scheduling state, with the late events it brings. -/
def Ev.settle (v : Base) (e : Ev) : Sched :=
  let e := e.close v
  settleIn 1024 v e.s e.late

/-- An event on the scheduling state, from its first effect to its last. -/
def Sched.event (v : Base) (f : Ev → Ev) (s : Sched) : Sched := (f (Ev.of s)).settle v

end Sys2Proof.Machine
end

