-- ==== Sys2Proof/Machine/Operands.lean ====
section
/-! DEFINITION. The forms in which operands and results cross the box port: the request records with their form check
(R183), the response record (R184), the encodings of result fields (R183, R184), of notices (R185), of a booking record
(R19), of a directive (R67) and of the configuration record (R190). -/

namespace Sys2Proof.Machine

/-! ## Fields -/

/-- One byte (R183). -/
def byte (n : Nat) : List Byte := bytesOf 1 n

/-- A yes/no field (R183). -/
def yesNo (b : Bool) : List Byte := byte b.toNat

/-- A field that may be absent: a presence byte, then the value or zeros (R183, R184). -/
def optional (w : Nat) (x : Option Nat) : List Byte := yesNo x.isSome ++ bytesOf w (x.getD 0)

/-- A field that takes a value or, named after it, a word without one: a selector byte, 0 for the value and 1 for the word,
then the value or zeros (R183, R184; log entry 19). -/
def valueOr (w : Nat) (x : Option Nat) : List Byte := byte x.isNone.toNat ++ bytesOf w (x.getD 0)

/-- A list: a count byte and the entries (R184). -/
def listField {α : Type} (f : α → List Byte) (l : List α) : List Byte := byte l.length ++ l.flatMap f

/-- An instant in whole seconds, a begun second counting as whole (log entry 19). -/
def seconds (t : Nat) : Nat := (t + unit - 1) / unit

/-- A booking id (R183). -/
def idField (i : BookingId) : List Byte := byte i.origin ++ bytesOf 2 i.serial

/-- A link id (R183). -/
def linkField (i : LinkId) : List Byte := byte i.origin ++ bytesOf 2 i.serial

/-- A link id that may be absent. -/
def optionalLink (i : Option LinkId) : List Byte := yesNo i.isSome ++ linkField (i.getD ⟨0, 0⟩)

/-- A tuner by its index. -/
def tunerField (t : Tuner) : List Byte := byte t.index

/-- A tuner that may be absent. -/
def optionalTuner (t : Option Tuner) : List Byte := optional 1 (t.map Tuner.index)

/-! ## Codes -/

/-- Booking classes (R19). -/
def BClass.code : BClass → Nat
  | .manual => 0
  | .event => 1
  | .episode => 2
  | .hosted => 3

/-- Booking states (R19). -/
def BState.code : BState → Nat
  | .waiting => 0
  | .planned => 1
  | .seeking => 2
  | .lent => 3
  | .covered => 4
  | .referred => 5
  | .preparing => 6
  | .recording => 7
  | .paused => 8
  | .suspended => 9
  | .ended => 10

/-- The running field (R19). -/
def Running.code : Running → Nat
  | .unknown => 0
  | .notYet => 1
  | .running => 2
  | .paused => 3
  | .ended => 4

/-- The statuses of RUNNING in the order of R39. -/
def Running.ofStatus : Nat → Option Running
  | 0 => some .notYet
  | 1 => some .running
  | 2 => some .paused
  | 3 => some .ended
  | _ => none

/-- Referral sources in the order of R94. -/
def RefSource.code : RefSource → Nat
  | .placement => 0
  | .prepareCheck => 1

/-- Last steps in the order of R95. -/
def LastStep.code : LastStep → Nat
  | .noTuner => 0
  | .seekSpent => 1
  | .seekFull => 2
  | .declined => 3

/-- Kinds of EVICTED in the order of R112. -/
def EvictKind.code : EvictKind → Nat
  | .stackFull => 0
  | .noStack => 1
  | .noRoom => 2
  | .configure => 3

/-- Reasons of a stack record in the order of R109. -/
def PushReason.code : PushReason → Nat
  | .live => 0
  | .rank => 1
  | .limit => 2
  | .signal => 3

/-- Presences in the order of R144. -/
def Presence.code : Presence → Nat
  | .absent => 0
  | .hearing => 1
  | .present => 2
  | .suspect => 3

/-- Interval results in the order of R144. -/
def Interval.code : Interval → Nat
  | .good => 0
  | .faulty => 1
  | .missing => 2

/-- Causes of a PEER notice in the order of R156. -/
def PeerCause.code : PeerCause → Nat
  | .goodIntervals => 0
  | .faulty => 1
  | .missing => 2
  | .leaving => 3
  | .incarnation => 4

/-- Kinds of an incarnation change in the order of R155. -/
def IncKind.code : IncKind → Nat
  | .cold => 0
  | .warm => 1

/-- Station states in the order of Station life. -/
def StationState.code : StationState → Nat
  | .detached => 0
  | .joining => 1
  | .joined => 2
  | .leaving => 3
  | .isolated => 4

/-- Causes of a STATION notice (log entry 16). -/
def StationCause.code : StationCause → Nat
  | .duplicate => 0
  | .configure => 1
  | .join => 2
  | .joined => 3
  | .leave => 4
  | .left => 5
  | .leaveTimeout => 6
  | .restart => 7

/-- Causes of an ORPHAN notice (R172, R181). -/
def OrphanCause.code : OrphanCause → Nat
  | .full => 0
  | .originReset => 1
  | .detached => 2

/-- Refusal codes (R184). -/
def Code.code : Code → Nat
  | .ok => 0
  | .busy => 1
  | .badForm => 2
  | .badState => 3
  | .badValue => 4
  | .noRoom => 5
  | .noSuch => 6
  | .duplicate => 7
  | .late => 8
  | .tooFar => 9
  | .conflict => 10

/-- Port states (R182). -/
def PortState.code : PortState → Nat
  | .idle => 0
  | .executing => 1
  | .ready => 2

/-- Limit marks: bit 0 FITTED, bit 1 SIGNAL, bit 2 BUDGET (log entry 19). -/
def Marks.code (m : Marks) : Nat := m.fitted.toNat + 2 * m.signal.toNat + 4 * m.budget.toNat

/-- A field of yes or no, by its code; none outside the two (R183). -/
def yesNoOf : Nat → Option Bool
  | 0 => some false
  | 1 => some true
  | _ => none

/-! ## CRC-8 and the records -/

/-- One bit into the CRC register of x^8 + x^2 + x + 1 (R183). -/
def crc8Step (r : Nat) (bit : Bool) : Nat :=
  let top := decide (128 ≤ r) != bit
  let r := r * 2 % 256
  if top then r ^^^ 0x07 else r

/-- The CRC-8 of bytes, most significant bit first, preset to all ones (R183). -/
def crc8 (l : List Byte) : Byte := BitVec.ofNat 8 ((l.flatMap fun b => bitsOf 8 b.toNat).foldl crc8Step 0xFF)

/-- The length of the field list of each request, by its code (R183). -/
def fieldLength : Nat → Nat
  | 1 => 37
  | 5 => 4
  | 6 => 19
  | 7 => 23
  | 8 => 5
  | 9 => 5
  | 10 => 7
  | 11 => 14
  | 12 => 3
  | 13 => 4
  | 14 => 23
  | 15 => 5
  | 16 => 5
  | 18 => 1
  | 19 => 1
  | 20 => 4
  | 21 => 6
  | 23 => 1
  | 24 => 1
  | _ => 0

/-- Where the presence bytes stand in the fields of each request (R183). -/
def presenceAt : Nat → List Nat
  | 6 => [4]
  | 7 => [1, 5, 7, 9, 11, 13, 18]
  | 8 => [1]
  | 9 => [1]
  | 10 => [0, 2]
  | 14 => [12, 17]
  | 21 => [1]
  | _ => []

/-- A record fails the form check (R183). Bytes after the record are ignored; too few of them leave it incomplete. -/
def formFails (l : List Byte) : Bool :=
  match l with
  | [] => true
  | [_] => true
  | code :: len :: rest =>
    let fields := rest.take len.toNat
    24 < code.toNat || code.toNat == 0 || 64 < len.toNat || len.toNat != fieldLength code.toNat ||
    rest.length < len.toNat + 1 ||
    (presenceAt code.toNat).any (fun i => 1 < (fields.getD i 0).toNat) ||
    rest.getD len.toNat 0 != crc8 (code :: len :: fields)

/-- The response record (R184). A result of more than 255 bytes is sent whole, its length modulo 256 (log entry 41). -/
def Response.record (r : Response) : List Byte :=
  let head := byte r.request ++ byte r.code.code ++ byte r.result.length ++ r.result
  head ++ [crc8 head]

/-! ## Bookings, directives, configuration -/

/-- A segment (R19): the tuner reads 255 for a segment recorded at another station, and an open segment's to reads 0. The
OUTCOME notice (R18) carries its segments in the same form (log entry 19). -/
def Segment.bytes (g : Segment) : List Byte :=
  byte g.station ++ byte ((g.tuner.map Tuner.index).getD 255) ++ bytesOf 4 g.frm ++ bytesOf 4 (g.til.getD 0)

/-- The plan kind (R19). -/
def Plan.kind : Plan → Nat
  | .absent => 0
  | .tuner _ => 1
  | .lent _ => 2
  | .covered _ => 3

/-- The plan value (R19). -/
def Plan.value : Plan → Nat
  | .absent => 0
  | .tuner t => t.index
  | .lent n => n
  | .covered n => n

/-- The tuner of a plan, when it is local. -/
def Plan.tuner? : Plan → Option Tuner
  | .tuner t => some t
  | _ => none

/-- The presence byte of a booking record (R19). -/
def Booking.presence (b : Booking) : Nat :=
  b.event.isSome.toNat + 2 * b.link.isSome.toNat + 4 * b.episode.isSome.toNat + 8 * b.follow.toNat +
  16 * b.peerLost.toNat + 32 * b.confirm.isSome.toNat + 64 * b.outcome.isSome.toNat

/-- Bytes padded with zeros to a width. -/
def padTo (n : Nat) (l : List Byte) : List Byte := (l ++ List.replicate n 0).take n

/-- The 87 bytes of a booking record (R19). -/
def Booking.bytes (b : Booking) : List Byte :=
  byte b.handle ++ byte b.cls.code ++ byte b.state.code ++ byte b.presence ++ idField b.id ++ bytesOf 2 b.service ++
  bytesOf 2 b.mux ++ bytesOf 2 (b.event.getD 0) ++ linkField (b.link.getD ⟨0, 0⟩) ++ bytesOf 4 (b.episode.getD 0) ++
  bytesOf 4 b.start ++ bytesOf 4 b.finish ++ byte b.pre ++ byte b.post ++ byte b.priority ++
  byte ((b.running.map Running.code).getD 255) ++ byte b.plan.kind ++ byte b.plan.value ++ bytesOf 4 b.order ++
  byte b.attempts ++ byte ((b.outcome.map fun o => o.1.code).getD 255) ++
  byte ((b.outcome.map fun o => o.2.code).getD 255) ++ bytesOf 4 ((b.confirm.map seconds).getD 0) ++
  byte b.segs.length ++ padTo 40 (b.segs.flatMap Segment.bytes) ++ byte b.rank

/-- A capture slot of a directive (R67). -/
def Sched.captureBytes (s : Sched) (c : Capture) : List Byte :=
  bytesOf 2 c.service ++ byte c.handle ++ idField (((s.bk c.handle).map (·.id)).getD ⟨0, 0⟩)

/-- The 35 bytes of a directive (R67). -/
def Sched.directiveBytes (s : Sched) (t : Tuner) : List Byte :=
  let r := s.tuners.get t
  let d := r.directive
  byte t.index ++ bytesOf 2 d.serial ++ byte (d.mux.isSome.toNat + 2 * d.live.isSome.toNat + 4 * r.unread.toNat) ++
  bytesOf 2 (d.mux.getD 0) ++ bytesOf 2 (d.live.getD 0) ++ byte r.state.code ++ byte r.holdCount ++
  byte d.captures.length ++ padTo 24 (d.captures.flatMap s.captureBytes)

/-- The 37 bytes of the configuration record (R190). -/
def configBytes (c : Settings) : List Byte :=
  byte c.station ++ bytesOf 2 c.household ++ byte c.fitted ++ byte c.rollPeriod ++ byte c.window ++
  yesNo (!c.debounce) ++ byte c.skew ++ c.clash.flatMap yesNo ++ yesNo c.liveRefer ++ byte c.depth ++
  bytesOf 2 c.bidWindow ++ bytesOf 2 c.takeTimeout ++ byte c.seekLimit ++ byte c.tuneLead ++ byte c.tuneTimeout ++
  bytesOf 2 c.recheck ++ byte c.grace ++ byte c.overrun

/-! ## Notices -/

/-- The kind byte of a notice (R185). -/
def Notice.kind : Notice → Nat
  | .outcome .. => 0
  | .referral .. => 1
  | .unplaced .. => 2
  | .episodeBooked .. => 3
  | .linkExhausted .. => 4
  | .linkBacklog .. => 5
  | .evicted .. => 6
  | .usable .. => 7
  | .peer .. => 8
  | .station .. => 9
  | .orphan .. => 10
  | .linkFault .. => 11

/-- The fields of a notice, in the order of its owning rule (R18, R94, R95, R57, R44, R58, R112, R77, R156, R191, R172,
R137). The incarnation of a PEER notice takes a presence byte (log entry 19). -/
def Notice.fields : Notice → List Byte
  | .outcome h i c l sv st fi o r g =>
    byte h ++ idField i ++ byte c.code ++ optionalLink l ++ bytesOf 2 sv ++ bytesOf 4 st ++ bytesOf 4 fi ++
    byte o.code ++ byte r.code ++ listField Segment.bytes g
  | .referral h i c sv st fi t src d inc =>
    byte h ++ idField i ++ byte c.code ++ bytesOf 2 sv ++ bytesOf 4 st ++ bytesOf 4 fi ++ tunerField t ++
    byte src.code ++ bytesOf 4 d ++
    listField (fun p => byte p.1 ++ idField p.2.1 ++ byte p.2.2.1.code ++ byte p.2.2.2) inc
  | .unplaced h i c sv st fi last =>
    byte h ++ idField i ++ byte c.code ++ bytesOf 2 sv ++ bytesOf 4 st ++ bytesOf 4 fi ++ byte last.code
  | .episodeBooked h i l sv ev ep st fi b =>
    byte h ++ idField i ++ linkField l ++ bytesOf 2 sv ++ bytesOf 2 ev ++ optional 4 ep ++ bytesOf 4 st ++
    bytesOf 4 fi ++ byte b.code
  | .linkExhausted l se => linkField l ++ bytesOf 4 se
  | .linkBacklog l se sv ev st => linkField l ++ bytesOf 4 se ++ bytesOf 2 sv ++ bytesOf 2 ev ++ bytesOf 4 st
  | .evicted t k r m d bs =>
    tunerField t ++ byte k.code ++ byte r.code ++ bytesOf 2 m ++ bytesOf 4 d ++
    listField (fun p => byte p.1 ++ idField p.2) bs
  | .usable t u m st lost => tunerField t ++ yesNo u ++ byte m.code ++ byte st.code ++ yesNo lost
  | .peer n b a c inc k el =>
    byte n ++ byte b.code ++ byte a.code ++ byte c.code ++ optional 1 inc ++ optional 1 (k.map IncKind.code) ++ yesNo el
  | .station st c => byte st.code ++ byte c.code
  | .orphan i o c => idField i ++ byte o.code ++ byte c.code
  | .linkFault f n => yesNo f ++ byte n

/-- A notice as FETCH-NOTICE returns it (R184). -/
def Notice.bytes (n : Notice) : List Byte := byte n.kind ++ n.fields

end Sys2Proof.Machine
end

