-- ==== Sys2Proof/Machine/Transport.lean ====
section
/-! DEFINITION. How every command reaches the state: requests through the box port (R182 to R184), and events of timers,
wire and triggers (log entries 2, 3 and 7). -/

namespace Sys2Proof.Machine

/-- What every command answers: it never faults and is never refused. -/
abbrev Result := Host.Outcome State Fault Refusal

/-- A request's answer: the state it leaves, the refusal code and the result fields. -/
structure Answer where
  s : State
  code : Code
  result : List Byte

/-- A request carried out. -/
def State.done (s : State) (result : List Byte) : Answer := ⟨s, .ok, result⟩

/-- A refused request changes no state (R183). -/
def State.refuse (s : State) (c : Code) : Answer := ⟨s, c, []⟩

/-- The port status byte (R182). -/
def Port.status (p : Port) : Byte := BitVec.ofNat 8 (p.state.code + if p.busy then 8 else 0)

/-- A request transaction that begins in EXECUTING or READY (R182): the busy mark is set and nothing else changes. -/
def State.busy (s : State) (n : Nat) : State :=
  { s with port := { s.port with busy := true, miso := s.port.status :: List.replicate (n - 1) 0 } }

/-- A request's response is placed and the port enters READY (R183). The first argument is the request code. -/
def Answer.place (code n : Nat) (p : Port) (a : Answer) : State :=
  { a.s with
    port :=
      { a.s.port with
        state := .ready
        response := some ⟨code, a.code, a.result⟩
        miso := p.status :: List.replicate (n - 1) 0 } }

/-- A request transaction (R182, R183): refused BUSY unless the port is IDLE, else carried out as one event and answered
(log entry 5). While RESETN is low nothing happens (log entry 7). -/
def State.request (code : Nat) (f : State → Answer) (s : State) : Result :=
  if s.resetLow then .next s
  else if s.port.state = .idle then .next ((f s).place code (3 + fieldLength code) s.port)
  else .next (s.busy (3 + fieldLength code))

/-- An event that is not a request (log entry 7). -/
def State.happens (f : State → State) (s : State) : Result := if s.resetLow then .next s else .next (f s)

/-- Scheduling work on the state. -/
def State.onSched (f : Sched → Sched) (s : State) : State := { s with sch := f s.sch }

/-- One event of the scheduling blocks, from its first effect to its last (R32, R65, R106, R114). -/
def State.event (f : Ev → Ev) (s : State) : State := s.onSched (Sched.event s.base f)

/-- Carries out an event and answers from what it leaves, before the late events that follow it (log entry 8). -/
def State.answerEvent (f : Ev → Ev) (result : Sched → List Byte) (s : State) : Answer :=
  let e := (f (Ev.of s.sch)).close s.base
  { s with sch := settleIn 1024 s.base e.s e.late }.done (result e.s)

/-- Time passes for the base. While this station's attempt stands it drives the line, and no recessive bit time counts
towards the idle (R125). -/
def State.passing (f : Base → Base) (s : State) : State :=
  { s with base := if s.sch.attempt.isSome then { f s.base with idleBits := s.base.idleBits } else f s.base }

/-- The clock counts on to an instant (log entry 2). -/
def State.countTo (t : Nat) (s : State) : State := s.passing (Base.countTo t)

/-- A time-driven event at its due instant, after the clock has counted on to it (log entries 2 and 3). Where the timer
does not run nothing happens. -/
def State.atInstant (due : State → Option Nat) (f : State → State) (s : State) : Result :=
  s.happens fun s => match due s with | none => s | some t => f (s.countTo t)

/-- The entry at a handle, when it is in use and agrees with an expected booking id; else the refusal (R2). -/
def Sched.named? (s : Sched) (h : Nat) (expect : Option BookingId) : Except Code Booking :=
  if 127 < h then .error .badValue
  else
    match s.bk h with
    | none => .error .noSuch
    | some b => if expects expect b then .ok b else .error .noSuch

/-- A request that names a booking (R2). -/
def State.withBooking (h : Nat) (expect : Option BookingId) (f : Booking → State → Answer) (s : State) : Answer :=
  match s.sch.named? h expect with
  | .error c => s.refuse c
  | .ok b => f b s

/-- The state and the local tuner of an entry, as BOOK's response gives them (R11). -/
def Sched.placed (s : Sched) (h : Nat) : List Byte :=
  match s.bk h with
  | none => byte BState.ended.code ++ optionalTuner none
  | some b => byte b.state.code ++ optionalTuner (if b.state = .planned then b.plan.tuner? else none)

/-- The state of an entry; an entry that has been freed was ENDED (R17). -/
def Sched.stateField (s : Sched) (h : Nat) : List Byte := byte (((s.bk h).map (·.state.code)).getD BState.ended.code)

end Sys2Proof.Machine
end

