-- ==== Sys2Proof/Machine/Bookings.lean ====
section
/-! DEFINITION. The requests of the Booking Table (R9 to R14, R19, R20) and RESOLVE (R102, R103). -/

namespace Sys2Proof.Machine

/-! ## BOOK -/

/-- A time rounded down to the whole minute (R9). -/
def minuteDown (t : Nat) : Nat := t / 60 * 60

/-- A time rounded up to the whole minute (R9). One that passes the long form is kept whole (log entry 37). -/
def minuteUp (t : Nat) : Nat := (t + 59) / 60 * 60

/-- The booking horizon in seconds (R10). -/
def horizon : Nat := 44640 * 60

/-- A new local record before the table gives it its identifiers (R11). -/
def newBooking (cls : BClass) (service mux : Nat) (event : Option Nat) (start finish pre post priority : Nat)
    (follow : Bool) : Booking where
  handle := 0
  id := ⟨0, 0⟩
  cls := cls
  service := service
  mux := mux
  event := event
  link := none
  episode := none
  start := start
  finish := finish
  pre := pre
  post := post
  priority := priority
  follow := follow
  running := if follow then some .unknown else none
  state := .waiting
  plan := .absent
  order := 0
  attempts := 0
  segs := []
  outcome := none
  confirm := none
  peerLost := false
  endedAt := none
  prepSeq := 0

/-- The record that a BOOK makes, its times rounded (R9) and its priority clamped (R7). -/
def bookDraft (f : BookFields) : Booking :=
  newBooking (if f.event.isSome then .event else .manual) f.service f.multiplex f.event (minuteDown f.start)
    (minuteUp f.finish) f.pre f.post (min 7 f.priority) (f.follow == 1)

/-- An entry in use, not HOSTED and not ENDED, is for a programme (R10, R56). -/
def Sched.hasProgramme (s : Sched) (service event : Nat) : Bool :=
  s.bookings.any fun b => !b.hosted && b.state != .ended && b.service == service && b.event == some event

/-- The checks of BOOK, in order (R10); a follow byte outside 0 and 1 with the second (log entry 34). -/
def State.bookRefusal (f : BookFields) (s : State) : Option Code :=
  let b := bookDraft f
  if !s.base.timed then some .badState
  else if (yesNoOf f.follow).isNone || 30 < f.pre || 30 < f.post || b.finish ≤ b.start || b.start + 86400 < b.finish ||
      (f.follow == 1 && f.event.isNone) then some .badValue
  else if b.finish ≤ s.base.clock then some .late
  else if s.base.clock + horizon < b.start then some .tooFar
  else if f.event.any fun e => s.sch.hasProgramme f.service e then some .duplicate
  else if !s.sch.roomFor b.cls then some .noRoom
  else none

/-- BOOK (R9 to R11). -/
def State.book (f : BookFields) (s : State) : Answer :=
  match s.bookRefusal f with
  | some c => s.refuse c
  | none =>
    let h := s.sch.nextHandle
    let id : BookingId := ⟨s.base.cfg.station, s.sch.nextSerial⟩
    s.answerEvent (fun e => (e.on fun x => x.createLocal s.base.cfg.station (bookDraft f)).place s.base Open.new h)
      fun x => byte h ++ idField id ++ x.placed h

/-- BOOK (R11). -/
def execBook (f : BookFields) (s : State) : Result := s.request 6 (State.book f)

/-! ## AMEND -/

/-- The record with the values of an AMEND (R12, R13): priority clamped, times rounded, the running field UNKNOWN when
follow becomes yes and absent when it becomes no (R5). -/
def Booking.amended (f : AmendFields) (b : Booking) : Booking :=
  let follow := (f.follow.map (· == 1)).getD b.follow
  { b with
    priority := min 7 (f.priority.getD b.priority)
    pre := f.pre.getD b.pre
    post := f.post.getD b.post
    start := (f.start.map minuteDown).getD b.start
    finish := (f.finish.map minuteUp).getD b.finish
    follow := follow
    running := if follow then (if b.follow then b.running else some .unknown) else none
    endedAt := if follow then b.endedAt else none }

/-- AMEND carries only priority and post-roll (R13). -/
def onlySome (f : AmendFields) : Bool :=
  f.pre.isNone && f.follow.isNone && f.start.isNone && f.finish.isNone

/-- The state admits the fields that an AMEND carries (R13). -/
def Booking.admits (v : Base) (f : AmendFields) (b : Booking) : Bool :=
  match b.state with
  | .waiting | .planned | .referred | .seeking | .covered => true
  | .lent => v.clock < b.prepareTime v
  | .preparing | .recording | .paused | .suspended => onlySome f
  | .ended => false

/-- The checks of AMEND after the first, in order (R12); a follow byte outside 0 and 1 with the third (log entry 34). -/
def Booking.amendRefusal (v : Base) (f : AmendFields) (b : Booking) : Option Code :=
  let c := b.amended f
  if b.hosted || !b.admits v f then some .badState
  else if ((f.start.isSome || f.finish.isSome) && b.cls != .manual) || f.follow.any (fun x => (yesNoOf x).isNone) ||
      (f.follow == some 1 && b.cls == .manual) || 30 < c.pre || 30 < c.post || c.finish ≤ c.start ||
      c.start + 86400 < c.finish then some .badValue
  else if (f.start.isSome || f.finish.isSome) && c.finish ≤ v.clock then some .late
  else if f.start.isSome && v.clock + horizon < c.start then some .tooFar
  else none

/-- A booking comes off whatever it stands in, its attempts go to 0, and it is placed again from the start of the placement
order (R13, R52). -/
def Ev.placeAgain (v : Base) (o : Open) (h : Nat) (e : Ev) : Ev :=
  let e := (e.on fun s => (s.leaveUnplaced h).leaveReferral h).leavePlan h
  ((e.abandon v h).on fun s => s.modB h fun b => { b with attempts := 0 }).place v o h

/-- A booking comes home from its host, WITHDRAW or not: it enters WAITING with its attempts 0 and is placed by steps 1 to
6 (R13, R52, R173, R174, R181). -/
def Ev.comeHome (v : Base) (h : Nat) (e : Ev) : Ev :=
  (e.on fun s => s.modB h fun b => { b.inState .waiting .absent with attempts := 0 }).place v Open.new h

/-- The fields whose change re-arms a booking's trigger (R32). -/
def Booking.triggerFields (b : Booking) : (Nat × Nat × Nat × Nat) × (Bool × Option Running × Option Nat) :=
  ((b.start, b.finish, b.pre, b.post), (b.follow, b.running, b.endedAt))

/-- What follows an AMEND by the booking's state (R13), also where it holds a segment (log entry 46). `b` is the record
before it. A booking that keeps its place in the last rows is re-armed only where a field of its trigger has changed (R13,
R32), so that a trigger already due stays armed to fire. -/
def Ev.afterAmend (v : Base) (f : AmendFields) (b : Booking) (e : Ev) : Ev :=
  let c := b.amended f
  match b.state, b.plan with
  | .waiting, _ | .planned, _ =>
    if c.spanStart = b.spanStart ∧ c.spanEnd = b.spanEnd ∧ c.priority = b.priority then e.arm v b.handle
    else e.placeAgain v Open.all b.handle
  | .referred, _ | .seeking, _ => e.placeAgain v Open.all b.handle
  | .lent, .lent st => (e.withdraw v b.handle st).comeHome v b.handle
  | _, _ => if c.triggerFields = b.triggerFields then e else e.arm v b.handle

/-- AMEND on an entry (R12, R13): the new values are written, and what follows depends on the state. -/
def State.amendEntry (f : AmendFields) (b : Booking) (s : State) : Answer :=
  match b.amendRefusal s.base f with
  | some c => s.refuse c
  | none =>
    s.answerEvent (fun e => (e.on fun x => x.modB b.handle (Booking.amended f)).afterAmend s.base f b)
      fun x => x.stateField b.handle

/-- AMEND (R12, R13). -/
def State.amend (h : Nat) (expect : Option BookingId) (f : AmendFields) (s : State) : Answer :=
  s.withBooking h expect (State.amendEntry f)

/-- AMEND (R13). -/
def execAmend (handle : Nat) (expect : Option BookingId) (f : AmendFields) (s : State) : Result :=
  s.request 7 (State.amend handle expect f)

/-! ## CANCEL -/

/-- CANCEL on an entry (R14). -/
def State.cancelEntry (b : Booking) (s : State) : Answer :=
  if b.hosted || b.state == .ended then s.refuse .badState
  else (s.event fun e => e.cancel s.base b.handle .cancelled).done []

/-- CANCEL (R14). -/
def execCancel (handle : Nat) (expect : Option BookingId) (s : State) : Result :=
  s.request 8 (State.withBooking handle expect State.cancelEntry)

/-! ## Reading -/

/-- READ_BOOKING (R19). -/
def execReadBooking (handle : Nat) (expect : Option BookingId) (s : State) : Result :=
  s.request 9 (State.withBooking handle expect fun b s => s.done b.bytes)

/-- The filter of NEXT-BOOKING: ALL, LOCAL or HOSTED (R20). -/
def filterAdmits (filter : Nat) (b : Booking) : Bool :=
  match filter with
  | 0 => true
  | 1 => !b.hosted
  | _ => b.hosted

/-- A starting handle's entry is in use with the booking id that is expected of it, if one is (R2). -/
def StartAt.found (s : Sched) (x : StartAt) : Bool := x.expect.isNone || (s.bk x.handle).any (expects x.expect)

/-- NEXT-BOOKING (R2, R20). The table lists its entries in the order of their handles. -/
def State.nextBooking (start : Option StartAt) (filter : Nat) (s : State) : Answer :=
  if start.any (127 < ·.handle) || 2 < filter then s.refuse .badValue
  else if !start.all (StartAt.found s.sch) then s.refuse .noSuch
  else
    match s.sch.bookings.find? fun b => start.all (·.handle < b.handle) && filterAdmits filter b with
    | none => s.refuse .noSuch
    | some b => s.done (byte b.handle ++ idField b.id ++ byte b.cls.code ++ byte b.state.code)

/-- NEXT_BOOKING (R20). -/
def execNextBooking (start : Option StartAt) (filter : Nat) (s : State) : Result :=
  s.request 10 (State.nextBooking start filter)

/-! ## RESOLVE -/

/-- RESOLVE on an entry, after the checks (R102, R103). -/
def Ev.resolve (v : Base) (decision h : Nat) (e : Ev) : Ev :=
  match decision with
  | 0 => (e.on fun s => s.leaveReferral h).place v Open.admitted h
  | 1 => e.decline v h
  | _ => e.cancel v h .cancelled

/-- RESOLVE (R102, R103). -/
def State.resolve (decision : Nat) (b : Booking) (s : State) : Answer :=
  if 2 < decision then s.refuse .badValue
  else if b.state ≠ .referred then s.refuse .badState
  else
    s.answerEvent (fun e => e.resolve s.base decision b.handle)
      fun x => if decision = 0 then x.placed b.handle else x.stateField b.handle

/-- RESOLVE (R102). -/
def execResolve (handle : Nat) (expect : Option BookingId) (decision : Nat) (s : State) : Result :=
  s.request 21 (State.withBooking handle expect (State.resolve decision))

end Sys2Proof.Machine
end

