-- ==== Sys2Proof/Machine/Series.lean ====
section
/-! DEFINITION. The Series Unit: LINK, UNLINK and READ-LINK (R43 to R49), the guide's changes to existing bookings (R50 to
R54), and the matching of links with the creation of episodes (R56 to R59). -/

namespace Sys2Proof.Machine

/-! ## LINK -/

/-- The scope that a field gives; none for a selector outside the two (R46, R183). -/
def scopeOf : ScopeField → Option (Option Nat)
  | .any => some none
  | .service n => some (some n)
  | .other _ => none

/-- The count that a field gives; none outside OPEN and 1..255 (R46). -/
def countFieldOf : CountField → Option (Option Count)
  | .unbounded => some none
  | .number n => if 1 ≤ n ∧ n ≤ 255 then some (some ⟨n, n⟩) else none
  | .other _ => none

/-- The record of a new link (R46). -/
def LinkFields.draft (f : LinkFields) (slot : Nat) (id : LinkId) : Link where
  slot := slot
  id := id
  series := f.series
  scope := (scopeOf f.scope).getD none
  priority := min 7 f.priority
  pre := f.pre
  post := f.post
  follow := f.follow == 1
  firstRun := f.firstRun == 1
  count := (countFieldOf f.count).getD none
  exhausted := false
  backlog := false
  episodes := []

/-- The checks of LINK, in order (R46); a selector or a yes/no outside its values with the second (log entry 34). -/
def State.linkRefusal (f : LinkFields) (s : State) : Option Code :=
  if !s.base.timed then some .badState
  else if (scopeOf f.scope).isNone || (countFieldOf f.count).isNone || (yesNoOf f.follow).isNone ||
      (yesNoOf f.firstRun).isNone || 30 < f.pre || 30 < f.post then some .badValue
  else if s.sch.links.any fun l => l.series == f.series && some l.scope == scopeOf f.scope then some .duplicate
  else if 32 ≤ s.sch.links.length then some .noRoom
  else none

/-- The serial that the next link takes (R43). -/
def Sched.nextLinkSerial (s : Sched) (station : Nat) : Nat :=
  findSerial (fun n => s.links.any (fun l => l.id.serial == n) || s.bookings.any (fun b => b.link == some ⟨station, n⟩))
    161 s.linkCtr

/-- Inserts a link by its slot. -/
def insertLink (l : Link) : List Link → List Link
  | [] => [l]
  | m :: rest => if l.slot < m.slot then l :: m :: rest else m :: insertLink l rest

/-- LINK (R43, R46). -/
def State.link (f : LinkFields) (s : State) : Answer :=
  match s.linkRefusal f with
  | some c => s.refuse c
  | none =>
    let serial := s.sch.nextLinkSerial s.base.cfg.station
    let slot := lowestFree 32 (s.sch.links.map (·.slot))
    let id : LinkId := ⟨s.base.cfg.station, serial⟩
    let s' := s.onSched fun x =>
      { x with links := insertLink (LinkFields.draft f slot id) x.links, linkCtr := serialAfter serial }
    s'.done (linkField id ++ byte slot)

/-- LINK (R46). -/
def execLink (f : LinkFields) (s : State) : Result := s.request 11 (State.link f)

/-! ## UNLINK and READ-LINK -/

/-- A state in which UNLINK leaves a booking to its own end (R48). -/
def BState.continues (b : BState) : Bool := b.occupies || b == .suspended

/-- The handles of the bookings of a link that have not ended, ascending. -/
def Sched.ofLink (s : Sched) (id : LinkId) : List Nat :=
  (s.bookings.filter fun b => b.link == some id && b.state != .ended).map (·.handle)

/-- UNLINK's effect on one booking: an event of its own, counted as ended or left (R48, log entry 10). One that an earlier
booking's event has ended counts as neither (log entry 48). -/
def unlinkOne (id : LinkId) (p : State × Nat × Nat) (h : Nat) : State × Nat × Nat :=
  match p.1.sch.bk h with
  | none => p
  | some b =>
    if b.link ≠ some id ∨ b.state = .ended then p
    else if b.state.continues then (p.1, p.2.1, p.2.2 + 1)
    else (p.1.event fun e => e.cancel p.1.base h .cancelled, p.2.1 + 1, p.2.2)

/-- UNLINK (R48). -/
def State.unlink (id : LinkId) (s : State) : Answer :=
  if s.sch.links.any fun l => l.id == id then
    let p := (s.sch.ofLink id).foldl (unlinkOne id) (s, 0, 0)
    let s' := p.1.onSched fun x => { x with links := x.links.filter fun l => l.id != id }
    s'.done (byte p.2.1 ++ byte p.2.2)
  else s.refuse .noSuch

/-- UNLINK (R48). -/
def execUnlink (id : LinkId) (s : State) : Result := s.request 12 (State.unlink id)

/-- A link record as READ-LINK returns it (R49): the backlog mark as a yes/no (log entry 19). -/
def Sched.linkBytes (s : Sched) (l : Link) : List Byte :=
  byte l.slot ++ linkField l.id ++ bytesOf 4 l.series ++ byte l.scope.isSome.toNat ++ bytesOf 2 (l.scope.getD 0) ++
  byte l.priority ++ byte l.pre ++ byte l.post ++ yesNo l.follow ++ yesNo l.firstRun ++ byte l.count.isSome.toNat ++
  byte ((l.count.map (·.remaining)).getD 0) ++ byte ((l.count.map (·.initial)).getD 0) ++ yesNo l.exhausted ++
  yesNo l.backlog ++ listField (bytesOf 4) l.episodes ++ byte (s.ofLink l.id).length

/-- READ-LINK (R49). -/
def State.readLink (key : LinkKey) (s : State) : Answer :=
  let answer (x : Option Link) : Answer := match x with | none => s.refuse .noSuch | some l => s.done (s.sch.linkBytes l)
  match key with
  | .byId id => answer (s.sch.links.find? fun l => l.id == id)
  | .fromSlot n => if 31 < n then s.refuse .badValue else answer (s.sch.links.find? fun l => n ≤ l.slot)
  | .other _ => s.refuse .badValue

/-- READ_LINK (R49). -/
def execReadLink (key : LinkKey) (s : State) : Result := s.request 13 (State.readLink key)

/-! ## Guide changes to existing bookings -/

/-- The guide start (R50). -/
def GuideFields.guideStart (f : GuideFields) : Nat := minuteDown f.start

/-- The guide end (R50). One beyond the long form is kept whole (log entry 37). -/
def GuideFields.guideEnd (f : GuideFields) : Nat := min (minuteUp (f.start + 60 * f.duration)) (minuteDown f.start + 86400)

/-- Step 1 reaches a booking (R51). -/
def reached (f : GuideFields) (b : Booking) : Bool :=
  (b.cls == .event || b.cls == .episode) && b.state != .ended && b.service == f.service && b.event == some f.event

/-- A booking is under way (R51). -/
def Booking.underWay (v : Base) (b : Booking) : Bool := b.started || (b.state == .lent && b.prepareTime v ≤ v.clock)

/-- The end that the guide gives a booking under way (R51). -/
def Booking.underWayEnd (v : Base) (f : GuideFields) (b : Booking) : Nat :=
  let e := max (b.start + 60) (min (b.start + 86400) (GuideFields.guideEnd f))
  if b.follow && e + 60 * b.post ≤ v.clock then b.finish else e

/-- A booking with the times that the guide gives it (R51). -/
def Booking.guided (v : Base) (f : GuideFields) (b : Booking) : Booking :=
  if b.underWay v then { b with finish := b.underWayEnd v f }
  else { b with start := GuideFields.guideStart f, finish := GuideFields.guideEnd f }

/-- A booking is moved (R51). -/
def Booking.movedBy (v : Base) (f : GuideFields) (b : Booking) : Bool :=
  (b.guided v f).start != b.start || (b.guided v f).finish != b.finish

/-- A WITHDRAW goes to the host of a LENT booking. -/
def Ev.withdrawLent (v : Base) (b : Booking) (e : Ev) : Ev :=
  match b.plan with
  | .lent st => e.withdraw v b.handle st
  | _ => e

/-- What follows a move (R52). `b` is the record before it; its new values have been written. -/
def Ev.afterMove (v : Base) (f : GuideFields) (b : Booking) (e : Ev) : Ev :=
  if !b.underWay v && (b.guided v f).closeTime v ≤ v.clock then
    (e.withdrawLent v b).endNow v b.handle fun _ => (.missed, .noTuner)
  else
    match b.state with
    | .waiting | .planned | .referred | .seeking => e.placeAgain v Open.all b.handle
    | .lent => if b.underWay v then e.arm v b.handle else (e.withdrawLent v b).comeHome v b.handle
    | _ => e.arm v b.handle

/-- Step 1 on one booking, an event of its own (R51, R52, R54): the state, and the numbers moved and withdrawn. One that
an earlier booking's event has ended counts in neither (log entry 48). -/
def guideOne (f : GuideFields) (p : State × Nat × Nat) (h : Nat) : State × Nat × Nat :=
  let v := p.1.base
  match p.1.sch.bk h with
  | none => p
  | some b =>
    if !reached f b then p
    else if f.duration = 0 then
      if b.underWay v then p else (p.1.event fun e => e.cancel v h .guideWithdrawn, p.2.1, p.2.2 + 1)
    else if b.movedBy v f then
      (p.1.event fun e => (e.on fun s => s.modB h (Booking.guided v f)).afterMove v f b, p.2.1 + 1, p.2.2)
    else p

/-- Step 1 (R51 to R54), with the re-try that follows one or more moves (R53). -/
def State.guideStep1 (f : GuideFields) (s : State) : State × Nat × Nat :=
  let p := ((s.sch.bookings.filter (reached f)).map (·.handle)).foldl (guideOne f) (s, 0, 0)
  if p.2.1 = 0 then p else (p.1.event fun e => e.askRetry false, p.2)

/-! ## Matching links and creating episodes -/

/-- One MARK or booking beats another by the comparison key (R59). -/
def markBeats (started : Bool) (rank station : Nat) (started' : Bool) (rank' station' : Nat) : Bool :=
  (started && !started') ||
  (started == started' && (rank < rank' || (rank == rank' && station < station')))

/-- An entry of the marks heard list beats another (R59). -/
def MarkHeard.beats (a b : MarkHeard) : Bool := markBeats a.started a.rank a.station b.started b.rank b.station

/-- The best entry of a list (R59). -/
def bestMark : List MarkHeard → Option MarkHeard
  | [] => none
  | m :: rest =>
    match bestMark rest with
    | none => some m
    | some k => if k.beats m then some k else some m

/-- The station that covers a new episode booking (R59). -/
def Sched.coveredAtCreation (v : Base) (s : Sched) (series : Nat) (b : Booking) : Option Nat :=
  let heard := s.marks.filter fun m => m.series == series && some m.episode == b.episode && v.isPresent m.station
  (bestMark heard).bind fun m =>
    if markBeats m.started m.rank m.station false b.unstartedRank v.cfg.station then some m.station else none

/-- The record that a link makes of a guide event (R57). -/
def Link.draft (f : GuideFields) (l : Link) : Booking :=
  { newBooking .episode f.service f.multiplex (some f.event) (GuideFields.guideStart f) (GuideFields.guideEnd f) l.pre
      l.post l.priority l.follow with
    link := some l.id
    episode := f.episode }

/-- An episode code joins the tail of an episode list; a list of 48 first loses its head (R45). -/
def addEpisode (episode : Option Nat) (l : List Nat) : List Nat :=
  match episode with
  | none => l
  | some c => (if 48 ≤ l.length then l.tail else l) ++ [c]

/-- The remaining count falls by 1 (R44). -/
def Count.spend (c : Count) : Count := { c with remaining := c.remaining - 1 }

/-- A link after it has created a booking (R57). -/
def Link.spent (f : GuideFields) (l : Link) : Link :=
  { l with
    episodes := addEpisode f.episode l.episodes
    count := l.count.map Count.spend
    exhausted := match l.count with | some c => c.spend.remaining == 0 | none => l.exhausted
    backlog := false }

/-- Changes the link of a slot. -/
def Sched.modLink (s : Sched) (slot : Nat) (f : Link → Link) : Sched :=
  { s with links := s.links.map fun l => if l.slot == slot then f l else l }

/-- The new booking is created COVERED, or is placed and offers its MARK (R57, R59). -/
def Ev.placeEpisode (v : Base) (series h : Nat) (e : Ev) : Ev :=
  match e.s.bk h with
  | none => e
  | some b =>
    match e.s.coveredAtCreation v series b with
    | some st => (e.on fun s => s.modB h (Booking.inState .covered (.covered st))).arm v h
    | none => (e.place v Open.new h).on (Sched.offerMark v h)

/-- The EPISODE-BOOKED notice of a new booking (R57). -/
def Sched.episodeNotice (h : Nat) (l : Link) (event : Nat) (s : Sched) : Sched :=
  match s.bk h with
  | none => s
  | some b => s.notice (.episodeBooked h b.id l.id b.service event b.episode b.start b.finish b.state)

/-- The creation of an EPISODE booking by a link (R57). -/
def Ev.createEpisode (v : Base) (f : GuideFields) (l : Link) (e : Ev) : Ev :=
  let h := e.s.nextHandle
  let e := e.on fun s => (s.createLocal v.cfg.station (Link.draft f l)).modLink l.slot (Link.spent f)
  let e := (e.placeEpisode v l.series h).on (Sched.episodeNotice h l f.event)
  if (Link.spent f l).exhausted then e.on fun s => s.notice (.linkExhausted l.id l.series) else e

/-- A link meets a full table (R58). -/
def Sched.meetFull (f : GuideFields) (l : Link) (s : Sched) : Sched :=
  let s' := s.modLink l.slot fun l => { l with backlog := true }
  if l.backlog then s' else s'.notice (.linkBacklog l.id l.series f.service f.event (GuideFields.guideStart f))

/-- The conditions that skip a link (R56). -/
def State.skips (f : GuideFields) (l : Link) (s : State) : Bool :=
  (l.firstRun && f.repeated == 1) || f.episode.any (fun c => l.episodes.contains c) ||
  s.sch.hasProgramme f.service f.event || GuideFields.guideEnd f ≤ s.base.clock ||
  s.base.clock + horizon < GuideFields.guideStart f || l.exhausted

/-- Step 2 on one link, by its slot (R56): the state, and the numbers created and of links that met a full table. -/
def matchOne (f : GuideFields) (p : State × Nat × Nat) (slot : Nat) : State × Nat × Nat :=
  match p.1.sch.links.find? fun l => l.slot == slot with
  | none => p
  | some l =>
    if p.1.skips f l then p
    else if p.1.sch.roomFor .episode then
      (p.1.event fun e => e.createEpisode p.1.base f l, p.2.1 + 1, p.2.2)
    else (p.1.onSched (Sched.meetFull f l), p.2.1, p.2.2 + 1)

/-- Inserts a link by priority and slot (R56). -/
def insertByPriority (l : Link) : List Link → List Link
  | [] => [l]
  | m :: rest =>
    if l.priority < m.priority || (l.priority == m.priority && l.slot < m.slot) then l :: m :: rest
    else m :: insertByPriority l rest

/-- The slots of the links that step 2 takes, in its order (R56). -/
def Sched.matching (f : GuideFields) (s : Sched) : List Nat :=
  ((s.links.filter fun l => !l.exhausted && some l.series == f.series && l.scope.all (· == f.service)).foldl
    (fun acc l => insertByPriority l acc) []).map (·.slot)

/-- Step 2 (R56 to R59). -/
def State.guideStep2 (f : GuideFields) (s : State) : State × Nat × Nat :=
  if f.duration = 0 ∨ f.series.isNone then (s, 0, 0) else (s.sch.matching f).foldl (matchOne f) (s, 0, 0)

/-- GUIDE-EVENT (R50): an UNTIMED clock is weighed before the fields (log entry 34). -/
def State.guideEvent (f : GuideFields) (s : State) : Answer :=
  if !s.base.timed then s.refuse .badState
  else if 1440 < f.duration ∨ (yesNoOf f.repeated).isNone then s.refuse .badValue
  else
    let p := s.guideStep1 f
    let q := p.1.guideStep2 f
    q.1.done (byte p.2.1 ++ byte p.2.2 ++ byte q.2.1 ++ byte q.2.2)

/-- GUIDE_EVENT (R50). -/
def execGuideEvent (f : GuideFields) (s : State) : Result := s.request 14 (State.guideEvent f)

end Sys2Proof.Machine
end

