-- ==== Sys2Proof/Machine/Broker.lean ====
section
/-! DEFINITION. What the Household Broker does when peers come, go or restart (R174, R175, R180), when the station changes
state (R181), and the composition of the station's own ROLL (R141, R142). -/

namespace Sys2Proof.Machine

/-! ## The station's own ROLL -/

/-- One tuner of a ROLL (R142): an open busy-until, and one beyond the range, is sent as 65,535 (R130). An UNTIMED station
sends a busy-until too (log entry 47). -/
def Sched.rollTuner (v : Base) (s : Sched) (t : Tuner) : RollTuner :=
  ⟨(s.tuners.get t).state.code, (s.tuners.get t).directive.mux,
    match s.busyUntil v t with | none => 65535 | some x => shortClamped v x, s.topRank t⟩

/-- The ROLL composed from the station's state (R142). Its sequence and clock are written at the start of each attempt
(R143). -/
def Sched.roll (v : Base) (s : Sched) : Msg :=
  .roll ⟨v.incarnation, 0,
    ⟨!v.timed, v.rxFault, v.station == .leaving, v.station == .joining⟩,
    v.cfg.rollPeriod, 0, v.day, s.usableTuners.length, v.fittedTuners.map (s.rollTuner v)⟩

/-- A ROLL is composed and offered (R141). -/
def Sched.offerRoll (v : Base) (s : Sched) : Sched := s.offer v 31 (s.roll v) none

/-- The roll timer starts with an expiry of the clock and the roll period (R141). -/
def Base.startRoll (v : Base) : Base := { v with rollTimer := some (v.now + v.cfg.rollPeriod * unit) }

/-! ## What stands with a peer -/

/-- A booking is LENT to a station. -/
def Booking.isLentTo (n : Nat) (b : Booking) : Bool := b.state == .lent && b.plan == .lent n

/-- A booking is COVERED by a station. -/
def Booking.isCoveredBy (n : Nat) (b : Booking) : Bool := b.state == .covered && b.plan == .covered n

/-- The handles of the bookings that a test picks, in order of span start and order number (R89). -/
def Sched.pick (s : Sched) (p : Booking → Bool) : List Nat := s.inSpanOrder ((s.bookings.filter p).map (·.handle))

/-- The loss of the host of a LENT booking (R174): before its PREPARE time it comes home, else the peer-lost mark is
set. -/
def Ev.lostHost (v : Base) (e : Ev) (h : Nat) : Ev :=
  match e.s.bk h with
  | none => e
  | some b =>
    if v.clock < b.prepareTime v then e.comeHome v h
    else (e.on fun s => s.modB h fun b => { b with peerLost := true }).arm v h

/-- The loss of the covering station of a COVERED booking (R180): with its start still ahead it comes home and offers its
MARK, else it stays. -/
def Ev.lostCover (v : Base) (e : Ev) (h : Nat) : Ev :=
  match e.s.bk h with
  | none => e
  | some b =>
    if v.clock < b.start then
      let e := e.on fun s => s.modB h fun b => { b.inState .waiting .absent with attempts := 0 }
      (e.on (Sched.offerMark v h)).place v Open.new h
    else e

/-- A booking is LENT to, or COVERED by, a station that a test picks. -/
def Booking.standsWith (p : Nat → Bool) (b : Booking) : Bool :=
  match b.state, b.plan with
  | .lent, .lent n => p n
  | .covered, .covered n => p n
  | _, _ => false

/-- A booking loses the station that hosts or covers it (R174, R180). -/
def Ev.lostStation (v : Base) (e : Ev) (h : Nat) : Ev :=
  match (e.s.bk h).map (·.state) with
  | some BState.lent => e.lostHost v h
  | some BState.covered => e.lostCover v h
  | _ => e

/-- The bookings LENT to or COVERED by the stations that a test picks lose them, in one order of span start and order
number (R89, R174, R180). -/
def Ev.lostBookings (v : Base) (p : Nat → Bool) (e : Ev) : Ev :=
  (e.s.pick (Booking.standsWith p)).foldl (Ev.lostStation v) e

/-- The seek and bid state shared with a peer is voided (R155, R174): its bid goes, an AWARD outstanding to it counts as
its DECLINE, with a WITHDRAW first when the peer is lost, and its holds and lapsed records are discarded. No rule orders
the two: that the DECLINE, by which the booking may be placed at once, comes before the holds go is the model's choice, on a
WARM change as on a loss (log entry 50). -/
def Ev.voidShared (v : Base) (n : Nat) (lost : Bool) (e : Ev) : Ev :=
  let e :=
    match e.s.engine with
    | .idle => e
    | .collecting h w bids => e.on fun s => { s with engine := .collecting h w (bids.filter fun x => x.station != n) }
    | .awaiting h st t bids =>
      if st = n then (if lost then e.withdraw v h n else e).awardeeOut v h n bids
      else e.on fun s => { s with engine := .awaiting h st t (bids.filter fun x => x.station != n) }
  e.on fun s => { s with
    holds := s.holds.filter fun x => x.id.origin != n
    lapsed := s.lapsed.filter fun x => x.id.origin != n }

/-- A peer is lost (R174, R180): its LENT and COVERED bookings are placed again before what else stands with it goes (log
entry 50). -/
def Ev.peerLost (v : Base) (n : Nat) (e : Ev) : Ev := (e.lostBookings v (· == n)).voidShared v n true

/-- A COLD change removes the tally records of the peer (R172). -/
def Ev.dropTallies (n : Nat) (e : Ev) : Ev := e.on fun s => s.orphan .originReset fun r => r.id.origin == n

/-- A COLD change after absence (R174): the tally records go, and the bookings still LENT to the peer with the peer-lost
mark end UNKNOWN. -/
def Ev.coldAfterAbsence (v : Base) (n : Nat) (e : Ev) : Ev :=
  let e := e.dropTallies n
  (e.s.pick fun b => b.isLentTo n && b.peerLost).foldl (fun e h => e.endNow v h fun _ => (.unknown, .peerLost)) e

/-- The station that hosts or covers a booking is PRESENT: the confirm deadline and the peer-lost mark are cleared, and the
trigger of a LENT booking is re-armed (R174, R175). -/
def Ev.hostPresent (v : Base) (n : Nat) (e : Ev) (h : Nat) : Ev :=
  let e := e.on fun s => s.modB h fun b => { b with confirm := none, peerLost := false }
  if (e.s.bk h).any (Booking.isLentTo n) then e.arm v h else e

/-- A peer becomes PRESENT (R156, R174, R175): confirm deadlines and peer-lost marks of the bookings that concern it are
cleared, and the tally records that wait for it are offered. -/
def Ev.peerPresent (v : Base) (n : Nat) (e : Ev) : Ev :=
  let hs := e.s.pick fun b => b.isLentTo n || b.isCoveredBy n
  let e := hs.foldl (Ev.hostPresent v n) e
  e.on (Sched.offerTallies v fun r => r.id.origin == n)

/-! ## Changes of the station state -/

/-- Holds and lapsed records are discarded (R181). -/
def Sched.dropHolds (s : Sched) : Sched := { s with holds := [], lapsed := [] }

/-- The seek ends for every booking (R181): the engine abandons its own, all leave the queue, and each is placed by steps
1, 2, 3, 5 and 6. -/
def Ev.endSeeking (v : Base) (e : Ev) : Ev :=
  let hs := e.s.seekQueue.map (·.handle)
  let e := hs.foldl (fun e h => e.abandon v h) e
  hs.foldl (fun e h => e.place v Open.given h) e

/-- A HOSTED entry is given back on LEAVING (R181): with two segments or fewer RETURN takes the place of its TALLY. -/
def Ev.leaveHosted (v : Base) (e : Ev) (h : Nat) : Ev :=
  match e.s.bk h with
  | none => e
  | some b =>
    let b' := { b with segs := closeOpen v.clock b.segs }
    if b.segs.length ≤ 2 then
      let e := e.on fun s => s.offer v b.rank (b'.returnMsg v .leaving) none
      e.endAt v h v.clock false fun b => if b.segs.isEmpty then (.cancelled, .cancelled) else (.partly, .displaced)
    else e.endNow v h fun b => b.bySegs .displaced .displaced

/-- A LENT booking is called home with a WITHDRAW (R181). -/
def Ev.callHome (v : Base) (e : Ev) (h : Nat) : Ev :=
  match (e.s.bk h).map Booking.plan with
  | some (Plan.lent st) => (e.withdraw v h st).comeHome v h
  | _ => e

/-- The Broker's entry into LEAVING (R181). -/
def Ev.brokerLeaving (v : Base) (e : Ev) : Ev :=
  let e := (e.endSeeking v).on Sched.dropHolds
  let e := (e.s.pick fun b => b.state == .lent).foldl (Ev.callHome v) e
  let e := (e.s.pick fun b => b.state == .covered).foldl (Ev.lostCover v) e
  (e.s.pick fun b => b.hosted && b.state != .ended).foldl (Ev.leaveHosted v) e

/-- The Broker's entry into ISOLATED (R181). -/
def Ev.brokerIsolated (v : Base) (e : Ev) : Ev := (e.endSeeking v).on Sched.dropHolds

/-- The Broker's entry into DETACHED (R181). -/
def Ev.brokerDetached (v : Base) (e : Ev) : Ev :=
  let e := (e.endSeeking v).on fun s => { s.dropHolds with marks := [] }
  (e.on fun s => s.orphan .detached fun _ => true).lostBookings v fun _ => true

/-- The parts of Base that an entry into DETACHED changes: timers stopped and peer table cleared (R194). -/
def Base.detach (v : Base) : Base :=
  { v with
    station := .detached
    joinTimer := none
    leaveTimer := none
    rollTimer := none
    leavingSent := false
    peers := Peer.emptyTable v.cfg.station }

/-- Entry into DETACHED on the scheduling state (R194); `v` is the base after it. -/
def Ev.enterDetached (v : Base) (e : Ev) : Ev := (e.on Sched.emptyQueue).brokerDetached v

/-- The station enters DETACHED as an event of its own, with a STATION notice (R193, R194) after the parts that its endings
call for (log entry 9). -/
def State.goDetached (cause : StationCause) (s : State) : State :=
  let s := { s with base := s.base.detach }
  s.event fun e => ((e.enterDetached s.base).finish s.base).on fun x => x.notice (.station .detached cause)

/-- The Broker's warm-restart state (R181). -/
def Sched.brokerRestart (s : Sched) : Sched := { s.dropHolds with engine := .idle, seekQueue := [], marks := [] }

end Sys2Proof.Machine
end

