-- ==== Sys2Proof/Machine/Life.lean ====
section
/-! DEFINITION. Station life: COLD_RESET and RESETN (R195), CONFIGURE (R190, R191), JOIN (R192), LEAVE (R193), RESTART
(R196), and the join, leave and roll timers. -/

namespace Sys2Proof.Machine

/-! ## Cold reset -/

/-- COLD_RESET (R195): every block takes its cold-reset value. The commands that wait and the counter of free values are
the model's own and stay. -/
def execColdReset (s : State) : Result := .next { State.reset with free := s.free, pending := s.pending }

/-- RESETN_HELD_LOW (R195): HLINK is released, MISO is high impedance and ATTN is left high. -/
def execResetnHeldLow (s : State) : Result :=
  .next { s with resetLow := true, sch := { s.sch with attempt := none }, port := { s.port with miso := [] } }

/-! ## CONFIGURE -/

/-- n lies in the range. -/
def within (lo hi n : Nat) : Bool := lo ≤ n && n ≤ hi

/-- Every setting is inside its range (R190). -/
def inRange (c : ConfigFields) : Bool :=
  within 1 8 c.station && within 0 65535 c.household && within 1 2 c.fitted && within 2 30 c.rollPeriod &&
  (c.window == 6 || c.window == 8 || c.window == 10) && within 0 1 c.debounce && within 2 60 c.skew &&
  c.clash.length == 16 && c.clash.all (within 0 1) && within 0 1 c.livePolicy && within 0 3 c.depth &&
  within 250 4000 c.bidWindow && within 500 4000 c.takeTimeout && within 1 5 c.seekLimit && within 10 120 c.tuneLead &&
  within 2 30 c.tuneTimeout && within 30 600 c.recheck && within 0 60 c.grace && within 0 180 c.overrun

/-- The record that CONFIGURE carries (R190). -/
def settingsOf (c : ConfigFields) : Settings where
  station := c.station
  household := c.household
  fitted := c.fitted
  rollPeriod := c.rollPeriod
  window := c.window
  debounce := c.debounce == 0
  skew := c.skew
  clash := c.clash.map (· == 1)
  liveRefer := c.livePolicy == 1
  depth := c.depth
  bidWindow := c.bidWindow
  takeTimeout := c.takeTimeout
  seekLimit := c.seekLimit
  tuneLead := c.tuneLead
  tuneTimeout := c.tuneTimeout
  recheck := c.recheck
  grace := c.grace
  overrun := c.overrun

/-- The record is locked (R190). -/
def Base.locked (v : Base) : Bool := v.station == .joining || v.station == .joined || v.station == .leaving

/-- The checks of CONFIGURE, in order (R190). -/
def State.configureRefusal (c : ConfigFields) (s : State) : Option Code :=
  if s.base.locked then some .badState
  else if !inRange c then some .badValue
  else if s.sch.bookings.any fun b => b.hosted && b.id.origin == c.station then some .badState
  else none

/-- The triggers of all bookings are re-armed, in order of handle (R42). -/
def Ev.armAll (v : Base) (e : Ev) : Ev := (e.s.bookings.map (·.handle)).foldl (fun e h => e.arm v h) e

/-- The new settings reach the blocks (R191): `old` is the record before. A stack that holds more records than the new
limit loses its surplus (R123), tuner A's stack first, before a changed fitted count pushes or pops (log entry 35). -/
def Ev.reconfigure (v : Base) (old : Settings) (e : Ev) : Ev :=
  let e := e.on fun s => (s.evictDown .A .configure v.cfg.depth).evictDown .B .configure v.cfg.depth
  let e := if v.cfg.fitted = old.fitted then e else e.refit v
  if v.cfg.tuneLead = old.tuneLead ∧ v.cfg.grace = old.grace ∧ v.cfg.overrun = old.overrun then e else e.armAll v

/-- The settings are put in force, with an empty peer table for the new station number (R191). -/
def Base.withSettings (v : Base) (c : Settings) : Base := { v with cfg := c, peers := Peer.emptyTable c.station }

/-- The base that CONFIGURE leaves: a station that was ISOLATED is DETACHED (R191). -/
def Base.configured (v : Base) (c : Settings) : Base := v.detach.withSettings c

/-- CONFIGURE on the scheduling state (R191): an ISOLATED station first enters DETACHED under the old settings, and its
STATION notice comes last (log entry 9). -/
def Ev.configure (v : Base) (c : Settings) (e : Ev) : Ev :=
  let isolated := v.station == .isolated
  let e := if isolated then e.enterDetached v.detach else e
  let e := (e.reconfigure (v.configured c) v.cfg).finish (v.configured c)
  if isolated then e.on fun s => s.notice (.station .detached .configure) else e

/-- CONFIGURE (R190, R191). -/
def State.configure (c : ConfigFields) (s : State) : Answer :=
  match s.configureRefusal c with
  | some r => s.refuse r
  | none =>
    let s' := { s with base := s.base.configured (settingsOf c) }
    (s'.event (Ev.configure s.base (settingsOf c))).done (byte StationState.detached.code)

/-- CONFIGURE (R191). -/
def execConfigure (c : ConfigFields) (s : State) : Result := s.request 1 (State.configure c)

/-! ## JOIN -/

/-- The base of a station that enters JOINING: roll and join timers started (R192). -/
def Base.startJoining (v : Base) : Base :=
  { v.startRoll with station := .joining, joinTimer := some (v.now + 3 * v.cfg.rollPeriod * unit) }

/-- JOIN (R192). -/
def State.join (s : State) : Answer :=
  if s.base.station ≠ .detached then s.refuse .badState
  else
    let s' := { s with base := s.base.startJoining }
    (s'.onSched fun x => (x.offerRoll s'.base).notice (.station .joining .join)).done []

/-- JOIN (R192). -/
def execJoin (s : State) : Result := s.request 2 State.join

/-- A station still JOINING enters JOINED (R192). -/
def State.enterJoined (s : State) : State :=
  let s := { s with base := { s.base with station := .joined, joinTimer := none }.startRoll }
  s.event fun e =>
    (((e.on (Sched.offerRoll s.base)).askRetry false).finish s.base).on fun x => x.notice (.station .joined .joined)

/-- JOIN_TIMER_EXPIRY (R192). -/
def execJoinTimerExpiry (s : State) : Result :=
  s.atInstant (fun s => if s.base.station = .joining then s.base.joinTimer else none) State.enterJoined

/-! ## LEAVE -/

/-- The base of a station that enters LEAVING: join timer stopped, roll timer restarted, leave timer started (R193). -/
def Base.startLeaving (v : Base) : Base :=
  { v.startRoll with
    station := .leaving
    joinTimer := none
    leaveTimer := some (v.now + 10 * unit)
    leavingSent := false }

/-- LEAVE (R193): the parts that the Broker's endings call for come before the ROLL (log entry 9). -/
def State.leave (s : State) : Answer :=
  if s.base.station = .joined ∨ s.base.station = .joining then
    let s' := { s with base := s.base.startLeaving }
    (s'.event fun e =>
      ((e.brokerLeaving s'.base).finish s'.base).on fun x =>
        (x.offerRoll s'.base).notice (.station .leaving .leave)).done []
  else s.refuse .badState

/-- LEAVE (R193). -/
def execLeave (s : State) : Result := s.request 3 State.leave

/-- LEAVE_TIMER_EXPIRY (R193). -/
def execLeaveTimerExpiry (s : State) : Result :=
  s.atInstant (fun s => if s.base.station = .leaving then s.base.leaveTimer else none) (State.goDetached .leaveTimeout)

/-! ## The roll timer -/

/-- The roll timer expires (R141): a ROLL is offered, the timer goes on from that expiry, and the tally records that wait
are offered (R172). -/
def State.rollExpires (s : State) : State :=
  let next := s.base.rollTimer.map (· + s.base.cfg.rollPeriod * unit)
  let s := { s with base := { s.base with rollTimer := next } }
  s.onSched fun x => (x.offerRoll s.base).offerTallies s.base fun _ => true

/-- ROLL_TIMER_EXPIRY (R141). -/
def execRollTimerExpiry (s : State) : Result := s.atInstant (fun s => s.base.rollTimer) State.rollExpires

/-! ## RESTART -/

/-- The next incarnation: 255 is followed by 1 (R195). -/
def nextIncarnation (n : Nat) : Nat := if 255 ≤ n then 1 else n + 1

/-- The station state after a warm restart (R196). -/
def StationState.restarted : StationState → StationState
  | .joined | .joining => .joining
  | .leaving | .isolated | .detached => .detached

/-- Base after parts 2 and 3 of a warm restart (R158, R195, R196): the station state stays until part 9. -/
def Base.restarting (v : Base) : Base :=
  { v.detach with station := v.station, incarnation := nextIncarnation v.incarnation }

/-- Base after part 9 of a warm restart (R196). -/
def Base.restart (v : Base) : Base :=
  match v.station.restarted with
  | .joining => v.restarting.detach.startJoining
  | _ => v.restarting.detach

/-- What a warm restart does to one booking (R21). One that is PREPARING again keeps its place in the order of entry into
PREPARING (log entry 12). -/
def Ev.restartBooking (v : Base) (e : Ev) (h : Nat) : Ev :=
  match e.s.bk h with
  | none => e
  | some b =>
    match b.state with
    | .preparing | .recording | .paused =>
      if v.clock < b.closeTime v then
        e.on fun s => ((s.closeSeg h v.clock).leaveCapture h).modB h fun b => { b with state := .preparing }
      else
        let missed : Reason := if b.state = .preparing then .signal else .none
        e.endNow v h fun b => b.bySegs missed missed
    | .seeking => e.on fun s => s.modB h (Booking.inState .waiting .absent)
    | .lent | .covered =>
      e.on fun s => s.modB h fun b => { b with confirm := some ((v.clock + 4 * v.cfg.rollPeriod) * unit) }
    | _ => e

/-- What a warm restart does to a fitted tuner's record (R85): a directive is issued, whatever the directive before, which
leaves it UNKNOWN on a multiplex and IDLE on none. -/
def TunerRec.restart (v : Base) (mux : Option Nat) (r : TunerRec) : TunerRec :=
  TunerRec.issue v mux
    { r with
      state := .unknown
      captures := []
      live := none
      directive := { r.directive with mux := mux }
      tuneTimer := none
      recheck := none
      marks := { r.marks with signal := false } }

/-- The Tuner Controller's part of a warm restart before the budget choice (R85). Its directive is issued here at once;
where a later part changes what the tuner needs, a second one follows, with the next serial: the model's choice (log entry
54). -/
def Sched.restartTuners (v : Base) (s : Sched) : Sched :=
  let s := { s with tuners := s.tuners.both fun r => { r with live := none } }
  v.fittedTuners.foldl (fun s t => s.modTuner t (TunerRec.restart v (s.neededMux t))) s

/-- The unplaced list is rebuilt (R108). -/
def Sched.rebuildUnplaced (s : Sched) : Sched :=
  { s with
    unplaced := s.inSpanOrder ((s.bookings.filter fun b => b.state == .waiting || b.state == .suspended).map (·.handle)) }

/-- The causes that a warm restart ends on a tuner (R122): every LIVE cause, and LIMIT and SIGNAL causes where it is
usable. -/
def Ev.restartCauses (e : Ev) (t : Tuner) : Ev :=
  let u := e.s.usable t
  e.endCauses t fun p => p == .live || (u && (p == .limit || p == .signal))

/-- Parts 4 to 8 of a warm restart (R196).
The bookings are treated in order of handle (log entry 10), and the USABLE notices of the tuners that enter the usable
set come after the re-try (log entry 25). -/
def Ev.restart (v : Base) (e : Ev) : Ev :=
  let before := e.s.usable
  let e := (e.s.bookings.map (·.handle)).foldl (Ev.restartBooking v) e
  let e := (e.on (Sched.restartTuners v)).on (Sched.budgetMarks v)
  let leave := [Tuner.A, .B].filter fun t => before t && !e.s.usable t
  let enter := [Tuner.A, .B].filter fun t => !before t && e.s.usable t
  let e := leave.foldl (fun e t => e.leaveUsable v t .limit) e
  let e := [Tuner.A, .B].foldl Ev.restartCauses e
  let e := ((e.on Sched.rebuildUnplaced).askRetry false).finish v
  (enter.foldl (fun e t => e.on (Sched.usableNotice t false)) e).armAll v

/-- Part 9 (R196): entry into JOINING finds the queue emptied, of what the parts before offered too (R135, log entry 25),
and offers a ROLL; entry into DETACHED has its own parts. `v` is the base after it. -/
def Ev.restartStation (v : Base) (was : StationState) (e : Ev) : Ev :=
  match was with
  | .joined | .joining => (e.on Sched.emptyQueue).on (Sched.offerRoll v)
  | .leaving | .isolated => (e.enterDetached v).finish v
  | .detached => e

/-- Parts 4 to 10 of a warm restart (R196), from the base before it: until part 9 the station state stands. -/
def Ev.restartAll (v : Base) (e : Ev) : Ev :=
  let e := (e.restart v.restarting).restartStation v.restart v.station
  if v.restart.station = v.station then e else e.on fun x => x.notice (.station v.restart.station .restart)

/-- RESTART (R196). -/
def State.restart (s : State) : Answer :=
  let v := s.base.restart
  ({ s with base := v, sch := s.sch.emptyQueue.brokerRestart }.event (Ev.restartAll s.base)).done
    (byte v.station.code ++ byte v.incarnation)

/-- RESTART (R196). -/
def execRestart (s : State) : Result := s.request 4 State.restart

end Sys2Proof.Machine
end

