-- ==== Sys2Proof/Machine/Wire.lean ====
section
/-! DEFINITION. The Link Controller's events: attempts (R125, R127, R133, R134, R143), frames received with the order of their
checks (R131, R136) and the receive-fault window (R137), and the duplicate station (R139). -/

namespace Sys2Proof.Machine

/-! ## Attempts -/

/-- The clock counts on while the line is read recessive for the bit times still missing from ten (R125, log entry 18). -/
def Base.awaitIdle (v : Base) : Base :=
  if 10 ≤ v.idleBits then v else { v.countTo (v.now + (10 - v.idleBits) * 41) with idleBits := 10 }

/-- What the Link Controller writes into a message at the start of an attempt: a ROLL's clock and sequence (R130, R143). -/
def QMsg.begun (v : Base) (q : QMsg) : QMsg :=
  { q with
    att := true
    msg := match q.msg with
      | .roll r => .roll { r with sequence := (v.lastSent + 1) % 256, clock := v.clock }
      | m => m }

/-- An attempt begins with the message of the lowest key (R125, R132). The start bit ends the idle. -/
def State.startAttempt (s : State) : State :=
  match s.sch.attempt, lowestKey s.sch.txq with
  | none, some q =>
    let v := s.base.awaitIdle
    { s with
      base := { v with idleBits := 0 }
      sch := { s.sch with txq := modFirst q (QMsg.begun v) s.sch.txq, attempt := some (q.begun v).wire } }
  | _, _ => s

/-- ATTEMPT_START (R125). -/
def execAttemptStart (s : State) : Result := s.happens State.startAttempt

/-- The message in the attempt. -/
def Sched.inAttempt (s : Sched) : Option QMsg := s.txq.find? (·.att)

/-- The queue without the message in the attempt; a ROLL that waits beside it takes its place (R133, R134). -/
def Sched.sentOff (s : Sched) : Sched :=
  { s with
    txq := s.txq.flatMap fun q => if q.att then s.waitingRoll.toList else [q]
    waitingRoll := none
    attempt := none }

/-- The messages that were offered after the one in the attempt: the queue keeps the order of offering (R132). -/
def Sched.offeredLater (s : Sched) : List QMsg := (s.txq.dropWhile fun q => !q.att).tail

/-- What the sending of a message starts or ends in the Broker (R134): the bid window, the take timer, the tally record. A
SEEK or AWARD counts for the engine only when no other for the same booking was offered after it (log entry 23). -/
def Sched.told (v : Base) (m : Msg) (later : List QMsg) (s : Sched) : Sched :=
  match m, s.engine with
  | .seek f, .collecting h none bids =>
    if ((s.bk h).any fun b => b.id == f.id && b.attempts == f.number) && !later.any (fun q => q.msg.isSeekOf f.id) then
      { s with engine := .collecting h (some (v.now + v.cfg.bidWindow * milli)) bids }
    else s
  | .award f, .awaiting h st none bids =>
    if st == f.awardee && ((s.bk h).any fun b => b.id == f.id && b.attempts == f.number) &&
        !later.any (fun q => q.msg.isAwardOf f.id st) then
      { s with engine := .awaiting h st (some (v.now + v.cfg.takeTimeout * milli)) bids }
    else s
  | .tally _ record, _ => { s with tallies := s.tallies.filter fun r => r.record != record }
  | _, _ => s

/-- What the Presence Monitor and Station life learn of a ROLL sent (R134, R143, R193). -/
def Base.rollSent (v : Base) (m : Msg) : Base :=
  match m with
  | .roll r => { v with lastSent := r.sequence, leavingSent := v.leavingSent || (v.station == .leaving && r.flags.leaving) }
  | _ => v

/-- The drain report (R134): LEAVING ends on it once a ROLL with the LEAVING flag has been sent (R193). -/
def State.drain (s : State) : State :=
  if s.base.station == .leaving && s.base.leavingSent && s.sch.drained then s.goDetached .left else s

/-- The attempt ends sent (R134). -/
def State.attemptSent (s : State) : State :=
  match s.sch.attempt, s.sch.inAttempt with
  | some _, some q =>
    let v := { s.base.rollSent q.msg with idleBits := 0 }
    State.drain { s with base := v, sch := s.sch.sentOff.told v q.msg s.sch.offeredLater }
  | _, _ => s

/-- MESSAGE_SENT (R134). -/
def execMessageSent (s : State) : Result := s.happens State.attemptSent

/-- The message is a BID whose bid window end has passed (R133). -/
def QMsg.bidOver (v : Base) (q : QMsg) : Bool := q.bidEnd.any fun t => t ≤ v.now

/-- The booking id of a BID. -/
def Msg.bidId : Msg → Option BookingId
  | .bid f => some f.id
  | _ => none

/-- The holds of a booking id are discarded (R167, R168). -/
def Sched.dropHold (i : BookingId) (s : Sched) : Sched := { s with holds := s.holds.filter fun x => x.id != i }

/-- A queued message is the BID that a hold was made with (R167): the booking id, the seek number and the bid window end
agree. -/
def Hold.isOf (q : QMsg) (x : Hold) : Bool :=
  match q.msg with
  | .bid f => x.id == f.id && x.number == f.number && q.bidEnd == some x.bidEnd
  | _ => false

/-- A BID that is not sent discards its own hold (R167, R168). -/
def Sched.dropHoldOf (s : Sched) (q : QMsg) : Sched := { s with holds := s.holds.filter fun x => !x.isOf q }

/-- The queue after an attempt that fails (R127, R133): the message stays in its place, a ROLL that waits beside it replaces
it, and a BID past its window end is removed. -/
def Sched.failedOff (v : Base) (s : Sched) : Sched :=
  let s' := { s with
    txq := s.txq.flatMap fun q =>
      if q.att then
        match s.waitingRoll with
        | some r => [r]
        | none => if q.bidOver v then [] else [{ q with att := false }]
      else [q]
    waitingRoll := none
    attempt := none }
  match s.inAttempt with
  | some q => if q.bidOver v then s'.dropHoldOf q else s'
  | none => s'

/-- An attempt fails (R127). -/
def State.attemptFails (s : State) : State :=
  match s.sch.attempt with
  | some _ => State.drain { s with base := { s.base with idleBits := 0 }, sch := s.sch.failedOff s.base }
  | none => s

/-- ATTEMPT_FAILED (R127): the three causes have one effect on this station. -/
def execAttemptFailed (_why : AttemptEnd) (s : State) : Result := s.happens State.attemptFails

/-- A BID for a booking id waits in the queue and is not in an attempt (R133). -/
def QMsg.waitsBid (i : BookingId) (q : QMsg) : Bool := q.msg.bidId == some i && !q.att

/-- The earliest bid window end of the BIDs for a booking id that wait in the queue (R133). -/
def State.queuedBidEnd (i : BookingId) (s : State) : Option Nat :=
  ((s.sch.txq.filter (QMsg.waitsBid i)).filterMap (·.bidEnd)).min?

/-- The BIDs for a booking id that wait in the queue past their bid window end go unsent, each with its own hold (R133,
R167). -/
def Sched.dropBids (v : Base) (i : BookingId) (s : Sched) : Sched :=
  let gone : QMsg → Bool := fun q => q.waitsBid i && q.bidOver v
  (s.txq.filter gone).foldl Sched.dropHoldOf { s with txq := s.txq.filter fun q => !gone q }

/-- QUEUED_BID_REMOVED (R133). -/
def execQueuedBidRemoved (id : BookingId) (s : State) : Result :=
  s.atInstant (State.queuedBidEnd id) fun s => (s.onSched (Sched.dropBids s.base id)).drain

/-! ## Frames received -/

/-- A frame arrives while this station's own attempt stands: the attempt had lost the wire (R127, log entry 22). -/
def State.yieldWire (s : State) : State := { s.attemptFails with base := { s.attemptFails.base with idleBits := 0 } }

/-- A counted frame joins the receive-fault window, with a LINK-FAULT notice on a change of the flag (R137). -/
def State.countFrame (good : Bool) (s : State) : State :=
  let v := s.base.countFrame good
  { s with base := v, sch := s.sch.linkFaultNotice s.base v }

/-- What the checks of R136 need to know of a frame: whether its contents are well formed (check 3), whether it is a ROLL
(check 5), whether this station is addressed (check 7), and whether its base day tag resolves (check 8). -/
structure FrameCheck where
  good : Bool
  isRoll : Bool := false
  addressed : Bool := true
  resolves : Bool := true

/-- The station enters ISOLATED on a duplicate (R139, R194): its notice comes after the parts that the Broker's entry calls
for (log entry 9). -/
def State.goIsolated (s : State) : State :=
  let s := { s with
    base := { s.base with station := .isolated, joinTimer := none, leaveTimer := none, leavingSent := false } }
  s.event fun e =>
    (((e.on Sched.emptyQueue).brokerIsolated s.base).finish s.base).on fun x => x.notice (.station .isolated .duplicate)

/-- The checks of R136 from the second on, in order; a message that passes them all is handed on (R138). The frame is
counted before its message is handed on, or its duplicate found (log entry 39). -/
def State.receive (h : FrameHead) (c : FrameCheck) (handOn : State → State) (s : State) : State :=
  let s := s.yieldWire
  if h.household ≠ s.base.cfg.household then s
  else if !c.good then s.countFrame false
  else if s.base.station = .detached ∨ s.base.station = .isolated then s.countFrame true
  else if h.sender = s.base.cfg.station then
    if c.isRoll then (s.countFrame true).goIsolated else s.countFrame true
  else if !c.addressed then s.countFrame true
  else if !c.resolves then s
  else handOn (s.countFrame true)

/-- BAD_FRAME_RECEIVED (R136, check 1). -/
def execBadFrameReceived (_why : BadFrame) (s : State) : Result :=
  s.happens fun s => s.yieldWire.countFrame false

/-- MALFORMED_FRAME (R136, check 3): ignored when it is of another household (check 2). -/
def execMalformedFrame (household : Nat) (_cls : Nat) (s : State) : Result :=
  s.happens fun s => if household = s.base.cfg.household then s.yieldWire.countFrame false else s.yieldWire

/-! ## What the payload tables admit -/

/-- A booking id (R129). -/
def idAdmitted (i : BookingId) : Bool := within 1 8 i.origin && within 1 65535 i.serial

/-- ROLL's fields (R129, log entry 15). -/
def rollAdmitted (f : RollFields) : Bool :=
  f.flags < 16 && within 2 30 f.period && f.usable ≤ 2 && within 1 2 f.tuners.length && f.tuners.all fun t => t.state ≤ 4

/-- SEEK's fields and its sender (R129, R131, log entry 15). -/
def seekAdmitted (h : FrameHead) (f : SeekFields) : Bool :=
  idAdmitted f.id && within 1 5 f.number && f.pre ≤ 30 && f.post ≤ 30 && within 1 16 f.rank && f.flags < 4 &&
  (f.flags / 2 == 1 || f.event == 0) && within 250 4000 f.window && h.sender == f.id.origin

/-- BID's fields and its sender (R129, R131). -/
def bidAdmitted (h : FrameHead) (f : BidFields) : Bool :=
  idAdmitted f.id && within 1 5 f.number && f.cost ≤ 2 && f.tuner ≤ 1 &&
  (if f.cost = 2 then within 1 16 f.displaced else f.displaced == 31) && h.sender != f.id.origin

/-- AWARD's fields and its sender (R129, R131). -/
def awardAdmitted (h : FrameHead) (f : AwardFields) : Bool :=
  idAdmitted f.id && within 1 5 f.number && within 1 8 f.awardee && f.tuner ≤ 1 && h.sender == f.id.origin &&
  f.awardee != h.sender

/-- TAKE's fields and its sender (R129, R131). -/
def takeAdmitted (h : FrameHead) (id : BookingId) (number : Nat) : Bool :=
  idAdmitted id && within 1 5 number && h.sender != id.origin

/-- WITHDRAW's fields and its sender (R129, R131). -/
def withdrawAdmitted (h : FrameHead) (id : BookingId) (addressee : Nat) : Bool :=
  idAdmitted id && within 1 8 addressee && h.sender == id.origin && addressee != h.sender

/-- RETURN's fields and its sender (R129, R131). -/
def returnAdmitted (h : FrameHead) (f : ReturnFields) : Bool :=
  idAdmitted f.id && f.reason ≤ 4 && f.segments.length ≤ 2 && h.sender != f.id.origin

/-- TALLY's fields and its sender (R129, R131). -/
def tallyAdmitted (h : FrameHead) (f : TallyFields) : Bool :=
  idAdmitted f.id && f.outcome ≤ 5 && f.reason ≤ 8 && f.segments.length ≤ 4 && h.sender != f.id.origin

/-- MARK's fields (R129). -/
def markAdmitted (f : MarkFields) : Bool := within 1 16 f.rank && f.started ≤ 1

/-- The epoch day that a sender's base day tag names (R30). -/
def Base.resolveDay (v : Base) (sender tag : Nat) : Option Nat :=
  match v.peer sender with
  | none => none
  | some p =>
    match p.day.filter (· % 256 == tag), p.prevDay.filter (· % 256 == tag) with
    | some d, _ => some d
    | none, some d => some d
    | none, none => none

end Sys2Proof.Machine
end

