-- ==== Sys2Proof/Machine/Presence.lean ====
section
/-! DEFINITION. The Presence Monitor: the arrival of a ROLL at its sender's record (R145 to R155), the expiry of an interval
deadline (R148), what presence hands on (R156), and the confirm deadline (R175). -/

namespace Sys2Proof.Machine

/-! ## A peer record -/

/-- The flags of a ROLL (R129). -/
def rollFlagsOf (n : Nat) : RollFlags := ⟨n % 2 == 1, n / 2 % 2 == 1, n / 4 % 2 == 1, n / 8 % 2 == 1⟩

/-- The tuner view that a ROLL carries (R144): busy-until in long form, 65,535 kept as open. -/
def viewOf (f : RollFields) : View :=
  ⟨f.usable, f.tuners.map fun t => ⟨t.state, t.mux, if t.busy = 65535 then none else some (longForm f.day t.busy), t.top⟩⟩

/-- One and a half roll periods (R148). -/
def firstInterval (period : Nat) : Nat := period * unit * 3 / 2

/-- A ROLL opens an ABSENT record (R146). -/
def Peer.opened (v : Base) (f : RollFields) (p : Peer) : Peer :=
  { Peer.absentOf p.station (some f.incarnation) with
    presence := .hearing
    lastSeq := some f.sequence
    period := some f.period
    day := some f.day
    flags := rollFlagsOf f.flags
    candidate := some (viewOf f)
    view := if v.cfg.debounce then none else some (viewOf f)
    deadline := some (v.now + firstInterval f.period) }

/-- The clocks disagree by more than the skew tolerance (R147). -/
def Base.skewed (v : Base) (f : RollFields) : Bool :=
  v.timed && f.flags % 2 == 0 && (f.clock + v.cfg.skew < v.clock || v.clock + v.cfg.skew < f.clock)

/-- The interval that a ROLL ends (R147, R155). -/
def Peer.judge (v : Base) (f : RollFields) (p : Peer) : Interval :=
  let jumped := p.incarnation == some f.incarnation && p.lastSeq.any fun n => f.sequence != (n + 1) % 256
  if jumped || v.skewed f then .faulty else .good

/-- A result counts as faulty in the history (R149). -/
def Interval.bad (r : Interval) : Bool := r != .good

/-- An interval result joins the history and moves the counts (R149). -/
def Peer.count (w : Nat) (r : Interval) (p : Peer) : Peer :=
  { p with
    history := lastN w (p.history ++ [r])
    good := if r = .good then min 255 (p.good + 1) else 0
    missing := if r = .missing then min 255 (p.missing + 1) else 0 }

/-- The presence after a result has joined the history (R150). -/
def Peer.moved (r : Interval) (p : Peer) : Presence :=
  let faults := countOf Interval.bad p.history
  match p.presence with
  | .absent => .absent
  | .hearing => if r.bad then .absent else if 3 ≤ p.good then .present else .hearing
  | .present => if r.bad then (if 3 ≤ p.missing then .absent else if 2 ≤ faults then .suspect else .present) else .present
  | .suspect =>
    if r.bad then (if 4 ≤ faults ∨ 3 ≤ p.missing then .absent else .suspect)
    else if 3 ≤ p.good then .present else .suspect

/-- A record after its presence has moved; one that becomes ABSENT keeps its incarnation alone (R151). -/
def Peer.settled (w : Nat) (r : Interval) (p : Peer) : Peer :=
  let q := p.count w r
  match q.moved r with
  | .absent => Peer.absentOf p.station p.incarnation
  | x => { q with presence := x }

/-- The tuner view is taken (R153). -/
def Peer.takeView (debounce : Bool) (x : View) (p : Peer) : Peer :=
  if !debounce then { p with view := some x, candidate := some x }
  else if p.candidate = some x then { p with view := some x }
  else { p with candidate := some x }

/-- The bases are set (R152). -/
def Peer.takeDay (d : Nat) (p : Peer) : Peer := if p.day = some d then p else { p with prevDay := p.day, day := some d }

/-- Part 5 of a ROLL's taking (R145), with the incarnation of part 3. -/
def Peer.takeRoll (v : Base) (f : RollFields) (p : Peer) : Peer :=
  (({ p with
      incarnation := some f.incarnation
      lastSeq := some f.sequence
      period := some f.period
      flags := rollFlagsOf f.flags
      deadline := some (v.now + firstInterval f.period) } : Peer).takeDay f.day).takeView v.cfg.debounce (viewOf f)

/-- A record after a ROLL without LEAVING that finds it not ABSENT (R145, parts 3 to 7). -/
def Peer.afterRoll (v : Base) (f : RollFields) (p : Peer) : Peer := (p.takeRoll v f).settled v.cfg.window (p.judge v f)

/-- A record after an interval deadline has passed (R148). -/
def Peer.afterMissing (w : Nat) (p : Peer) : Peer :=
  ({ p with deadline := p.deadline.map (· + (p.period.getD 0) * unit) } : Peer).settled w .missing

/-- Replaces a peer's record. -/
def Base.setPeer (v : Base) (p : Peer) : Base :=
  { v with peers := v.peers.map fun q => if q.station == p.station then p else q }

/-! ## Hand-offs -/

/-- The kind of a new incarnation (R155). -/
def incKind (n : Nat) : IncKind := if n = 0 then .cold else .warm

/-- The PEER notice of a change (R156). -/
def Sched.peerNotice (p q : Peer) (cause : PeerCause) (kind : Option IncKind) (s : Sched) : Sched :=
  s.notice (.peer q.station p.presence q.presence cause q.incarnation kind q.eligible)

/-- A change of presence is handed on (R156): `p` is the record before, `q` after. The re-try for flags that clear, which no
notice follows, comes after the event's other effects (R106, log entry 40). -/
def Ev.handPresence (v : Base) (p q : Peer) (cause : PeerCause) (e : Ev) : Ev :=
  if q.presence = .present ∧ p.presence ≠ .present then
    let e := e.peerPresent v q.station
    let e := if q.eligible then (e.askRetry false).finish v else e
    e.on (Sched.peerNotice p q .goodIntervals none)
  else if q.presence = .present ∧ q.eligible ∧ !p.eligible then e.askRetry false
  else if q.presence = .absent ∧ p.presence ≠ .absent then
    ((e.peerLost v q.station).finish v).on (Sched.peerNotice p q cause none)
  else e

/-- A change of incarnation in a record that was not ABSENT is handed on (R155, R156), after a change of presence by the
same ROLL, into ABSENT too; its notice carries the presence before and after the whole event (log entry 40). -/
def Ev.handIncarnation (v : Base) (p q : Peer) (e : Ev) : Ev :=
  match q.incarnation with
  | none => e
  | some n =>
    if p.incarnation = some n then e
    else
      let e :=
        match incKind n with
        | .cold => (e.peerLost v q.station).dropTallies q.station
        | .warm => e.voidShared v q.station false
      (e.finish v).on (Sched.peerNotice p q .incarnation (some (incKind n)))

/-- A change of incarnation after absence is handed on (R155, R174): a COLD one alone has an effect, and no notice
follows. -/
def Ev.handAfterAbsence (v : Base) (p : Peer) (n : Nat) (e : Ev) : Ev :=
  if p.incarnation.any (· != n) && incKind n == .cold then e.coldAfterAbsence v p.station else e

/-! ## ROLL -/

/-- A ROLL is taken by its sender's record (R145). -/
def State.takeRoll (f : RollFields) (p : Peer) (s : State) : State :=
  if (rollFlagsOf f.flags).leaving then
    let q := Peer.absentOf p.station (some f.incarnation)
    let s := { s with base := s.base.setPeer q }
    if p.presence = .absent then s else s.event (Ev.handPresence s.base p q .leaving)
  else if p.presence = .absent then
    let s := { s with base := s.base.setPeer (p.opened s.base f) }
    s.event (Ev.handAfterAbsence s.base p f.incarnation)
  else
    let q := p.afterRoll s.base f
    let s := { s with base := s.base.setPeer q }
    s.event fun e => (e.handPresence s.base p q .faulty).handIncarnation s.base p q

/-- A ROLL that passes every check (R138, R145). -/
def State.rollArrives (sender : Nat) (f : RollFields) (s : State) : State :=
  match s.base.peer sender with
  | none => s
  | some p => s.takeRoll f p

/-- ROLL_ARRIVAL (R136, R145). -/
def execRollArrival (h : FrameHead) (f : RollFields) (s : State) : Result :=
  s.happens (State.receive h { good := rollAdmitted f, isRoll := true } (State.rollArrives h.sender f))

/-! ## Deadlines -/

/-- The interval deadline of a record (R148). -/
def State.intervalDue (n : Nat) (s : State) : Option Nat := (s.base.peer n).bind (·.deadline)

/-- An interval deadline passes (R148). -/
def State.intervalMissing (n : Nat) (s : State) : State :=
  match s.base.peer n with
  | none => s
  | some p =>
    let q := p.afterMissing s.base.cfg.window
    let s := { s with base := s.base.setPeer q }
    s.event (Ev.handPresence s.base p q .missing)

/-- INTERVAL_DEADLINE_EXPIRY (R148). -/
def execIntervalDeadlineExpiry (station : Nat) (s : State) : Result :=
  s.atInstant (State.intervalDue station) (State.intervalMissing station)

/-- A confirm deadline passes (R175): it is cleared, and with the peer not PRESENT the lost-peer rules apply to the
booking. -/
def Ev.confirmPasses (v : Base) (h : Nat) (e : Ev) : Ev :=
  let e := e.on fun s => s.modB h fun b => { b with confirm := none }
  match e.s.bk h with
  | none => e
  | some b =>
    match b.plan with
    | .lent n => if v.isPresent n then e else e.lostHost v h
    | .covered n => if v.isPresent n then e else e.lostCover v h
    | _ => e

/-- CONFIRM_DEADLINE_EXPIRY (R175). -/
def execConfirmDeadlineExpiry (handle : Nat) (s : State) : Result :=
  s.atInstant (fun s => (s.sch.bk handle).bind (·.confirm)) fun s => s.event fun e => e.confirmPasses s.base handle

end Sys2Proof.Machine
end

