-- ==== Sys2Proof/Machine/Exchange.lean ====
section
/-! DEFINITION. The Household Broker's exchanges: bids and awards at the origin (R161 to R165), SEEK and AWARD at the bidder
(R167 to R170), RETURN and TALLY (R173, R120), MARK (R178, R179), and the timers of holds and of the engine. -/

namespace Sys2Proof.Machine

/-! ## The seek engine at the origin -/

/-- The station is the origin that an answer names (R131). -/
def Base.isOrigin (v : Base) (i : BookingId) : Bool := i.origin == v.cfg.station

/-- A booking is the one that an answer names by booking id and seek number. -/
def Booking.answers (i : BookingId) (number : Nat) (b : Booking) : Bool := b.id == i && b.attempts == number

/-- A BID that the engine may take joins the bid list, replacing an earlier one of its sender (R162). -/
def State.bidArrives (sender : Nat) (f : BidFields) (s : State) : State :=
  match s.sch.engine with
  | .collecting h (some w) bids =>
    if s.base.now ≤ w && (s.sch.bk h).any (Booking.answers f.id f.number) && s.base.isEligible sender then
      s.onSched fun x => { x with
        engine := .collecting h (some w)
          (bids.filter (fun y => y.station != sender) ++ [⟨sender, f.cost, f.tuner, f.displaced⟩]) }
    else s
  | _ => s

/-- BID_ARRIVAL (R162). -/
def execBidArrival (h : FrameHead) (f : BidFields) (s : State) : Result :=
  s.happens fun s =>
    s.receive h { good := bidAdmitted h f, addressed := s.base.isOrigin f.id } (State.bidArrives h.sender f)

/-- The end of the open bid window. -/
def State.windowEnd (s : State) : Option Nat :=
  match s.sch.engine with
  | .collecting _ w _ => w
  | _ => none

/-- The bid window ends (R163). -/
def Ev.windowEnds (v : Base) (e : Ev) : Ev :=
  match e.s.engine with
  | .collecting h _ bids => e.award v h bids
  | _ => e

/-- BID_WINDOW_END (R163). -/
def execBidWindowEnd (s : State) : Result := s.atInstant State.windowEnd fun s => s.event (Ev.windowEnds s.base)

/-- The expiry of the take timer. -/
def State.takeEnd (s : State) : Option Nat :=
  match s.sch.engine with
  | .awaiting _ _ t _ => t
  | _ => none

/-- The take timer expires (R164): WITHDRAW is offered, and the engine goes on as on a DECLINE. -/
def Ev.takeEnds (v : Base) (e : Ev) : Ev :=
  match e.s.engine with
  | .awaiting h st _ bids => (e.withdraw v h st).awardeeOut v h st bids
  | _ => e

/-- TAKE_TIMER_EXPIRY (R164). -/
def execTakeTimerExpiry (s : State) : Result := s.atInstant State.takeEnd fun s => s.event (Ev.takeEnds s.base)

/-- The ready time of a booking of the seek queue (R165). -/
def State.readyAt (h : Nat) (s : State) : Option Nat := (s.sch.seekQueue.find? fun q => q.handle == h).bind (·.ready)

/-- SEEK_READY_TIME (R161). -/
def execSeekReadyTime (handle : Nat) (s : State) : Result := s.atInstant (State.readyAt handle) fun s => s.event Ev.askLook

/-- TAKE from the awardee (R164): the booking is LENT. -/
def Ev.takeArrives (v : Base) (sender : Nat) (i : BookingId) (number : Nat) (e : Ev) : Ev :=
  match e.s.engine with
  | .awaiting h st _ _ =>
    if st == sender && (e.s.bk h).any (Booking.answers i number) then
      ((e.on fun s => (s.leaveSeek h).modB h (Booking.inState .lent (.lent st))).arm v h).engineIdle
    else e
  | _ => e

/-- TAKE_ARRIVAL (R164). -/
def execTakeArrival (h : FrameHead) (id : BookingId) (number : Nat) (s : State) : Result :=
  s.happens fun s =>
    s.receive h { good := takeAdmitted h id number, addressed := s.base.isOrigin id } fun s =>
      s.event (Ev.takeArrives s.base h.sender id number)

/-- DECLINE from the awardee (R164): the engine awards the next entry. -/
def Ev.declineArrives (v : Base) (sender : Nat) (i : BookingId) (number : Nat) (e : Ev) : Ev :=
  match e.s.engine with
  | .awaiting h st _ bids =>
    if st == sender && (e.s.bk h).any (Booking.answers i number) then e.awardeeOut v h st bids else e
  | _ => e

/-- DECLINE_ARRIVAL (R164). The reason is not weighed. -/
def execDeclineArrival (h : FrameHead) (id : BookingId) (number : Nat) (reason : Nat) (s : State) : Result :=
  s.happens fun s =>
    s.receive h { good := takeAdmitted h id number && reason ≤ 3, addressed := s.base.isOrigin id } fun s =>
      s.event (Ev.declineArrives s.base h.sender id number)

/-! ## Bidding -/

/-- A SEEK's details with its times in long form against an epoch day (R168). -/
def SeekFields.details (day : Nat) (f : SeekFields) : SeekDetails where
  service := f.service
  mux := f.multiplex
  event := if f.flags / 2 = 1 then some f.event else none
  spanStart := longForm day f.spanStart
  spanEnd := longForm day f.spanEnd
  pre := f.pre
  post := f.post
  rank := f.rank
  follow := f.flags % 2 == 1

/-- The span less its padding gives an end after the start by at most 24 hours, and follow is set only with an event id
(R167). -/
def SeekDetails.sound (d : SeekDetails) : Bool :=
  d.spanStart + 60 * d.pre + 60 * d.post < d.spanEnd && d.spanEnd ≤ d.spanStart + 60 * d.pre + 60 * d.post + 86400 &&
  (!d.follow || d.event.isSome)

/-- A HOSTED entry, not ENDED, has the booking id. -/
def Booking.hosts (i : BookingId) (b : Booking) : Bool := b.hosted && b.id == i && b.state != .ended

/-- WITHDRAW's effect (R167, R170): the hosted entry ends CANCELLED, and holds and lapsed records are discarded. -/
def Ev.withdrawn (v : Base) (i : BookingId) (e : Ev) : Ev :=
  let e :=
    match e.s.bookings.find? (Booking.hosts i) with
    | some b => e.endNow v b.handle fun _ => (.cancelled, .cancelled)
    | none => e
  e.on fun s => { s.dropHold i with lapsed := s.lapsed.filter fun x => x.id != i }

/-- The station may bid on a SEEK, but for the trial placement (R167). -/
def Sched.mayBid (v : Base) (sender : Nat) (i : BookingId) (d : SeekDetails) (s : Sched) : Bool :=
  v.station == .joined && v.timed && !v.rxFault && v.isEligible sender && d.sound && s.hostedInUse < 16 &&
  !(s.bookings.any fun b => !b.hosted && b.id == i) && s.holds.length < 4

/-- The trial placement of a SEEK (R96). -/
def Sched.trial (v : Base) (s : Sched) (prefer : Option Tuner) (i : BookingId) (d : SeekDetails) :
    Option (Nat × Tuner × Nat) :=
  s.choose v false prefer none (d.draft i)

/-- A hold is made and a BID offered; a BID that is not taken discards the hold (R167, R168). -/
def Sched.bid (v : Base) (i : BookingId) (number window : Nat) (d : SeekDetails) (p : Nat × Tuner × Nat) (s : Sched) :
    Sched :=
  let ends := v.now + window * milli
  let m := Msg.bid ⟨i, number, p.1, p.2.1.index, p.2.2⟩
  if taken v m s then
    let s := s.offer v d.rank m (some ends)
    { s with holds := s.holds ++ [⟨i, number, d, p.2.1, ends, ends + 3 * unit⟩] }
  else s

/-- A SEEK arrives (R167). -/
def Ev.seekArrives (v : Base) (sender day : Nat) (f : SeekFields) (e : Ev) : Ev :=
  let d := SeekFields.details day f
  let e := (e.withdrawn v f.id).finish v
  if e.s.mayBid v sender f.id d then
    match e.s.trial v none f.id d with
    | some p => e.on (Sched.bid v f.id f.number f.window d p)
    | none => e
  else e

/-- SEEK_ARRIVAL (R167). -/
def execSeekArrival (h : FrameHead) (f : SeekFields) (s : State) : Result :=
  s.happens fun s =>
    s.receive h { good := seekAdmitted h f, resolves := (s.base.resolveDay h.sender f.tag).isSome } fun s =>
      s.event (Ev.seekArrives s.base h.sender ((s.base.resolveDay h.sender f.tag).getD 0) f)

/-! ## The award at the bidder -/

/-- Reasons of a DECLINE (R129). -/
inductive DeclineReason
  | noCapacity
  | stale
  | hostedFull
  | notReady
deriving DecidableEq, Repr

/-- The code of a DECLINE reason (R129). -/
def DeclineReason.code : DeclineReason → Nat
  | .noCapacity => 0
  | .stale => 1
  | .hostedFull => 2
  | .notReady => 3

/-- The hold or lapsed record of a booking id and seek number (R169). -/
def Sched.heldFor (i : BookingId) (number : Nat) (s : Sched) : Option Hold :=
  (s.holds ++ s.lapsed).find? fun x => x.id == i && x.number == number

/-- The hold or lapsed record is removed (R169). -/
def Sched.consume (i : BookingId) (number : Nat) (s : Sched) : Sched :=
  { s with
    holds := s.holds.filter fun x => !(x.id == i && x.number == number)
    lapsed := s.lapsed.filter fun x => !(x.id == i && x.number == number) }

/-- The HOSTED entry is created and placed, the AWARD's tuner first (R170). -/
def Ev.host (v : Base) (t : Tuner) (x : Hold) (e : Ev) : Ev :=
  (e.on fun s => s.createHosted (x.details.draft x.id)).place v { prefer := some t } e.s.nextHandle

/-- How an AWARD that names this station is answered (R169). -/
inductive AwardAnswer
  | again
  | decline (r : DeclineReason) (held : Option Hold)
  | accept (x : Hold)

/-- The checks of R169, in order. -/
def Sched.awardAnswer (v : Base) (f : AwardFields) (s : Sched) : AwardAnswer :=
  let held := s.heldFor f.id f.number
  if s.bookings.any (Booking.hosts f.id) then .again
  else if s.bookings.any fun b => b.id == f.id then .decline .stale held
  else if v.station ≠ .joined || !v.timed || v.rxFault then .decline .notReady held
  else
    match held with
    | none => .decline .stale none
    | some x =>
      if 16 ≤ s.hostedInUse then .decline .hostedFull held
      else if 128 ≤ s.bookings.length then .decline .noCapacity held
      else if ((s.consume f.id f.number).trial v (some (Tuner.ofIndex f.tuner)) f.id x.details).isNone then
        .decline .noCapacity held
      else .accept x

/-- The rank in the key of an answer (R128): of the SEEK that the hold, or the lapsed record, keeps (log entry 42). -/
def answerRank (x : Option Hold) : Nat := (x.map (·.details.rank)).getD 31

/-- A DECLINE is offered; checks 5 to 7 have removed the hold or lapsed record (R169). -/
def Sched.declineAward (v : Base) (f : AwardFields) (r : DeclineReason) (held : Option Hold) (s : Sched) : Sched :=
  let s' := if r = .hostedFull ∨ r = .noCapacity then s.consume f.id f.number else s
  s'.offer v (answerRank held) (.decline f.id f.number r.code) none

/-- A TAKE is offered, at the rank that the hold or lapsed record gives (R128, R169). -/
def Sched.takeAward (v : Base) (f : AwardFields) (held : Option Hold) (s : Sched) : Sched :=
  s.offer v (answerRank held) (.take f.id f.number) none

/-- An AWARD arrives (R169). A TAKE for a new entry is offered after its placement and a PREPARE that fires at once (R170,
log entry 8). -/
def Sched.awardArrives (v : Base) (f : AwardFields) (s : Sched) : Sched :=
  match s.awardAnswer v f with
  | .again => s.event v fun e => e.on (Sched.takeAward v f (s.heldFor f.id f.number))
  | .decline r held => s.event v fun e => e.on (Sched.declineAward v f r held)
  | .accept x =>
    (s.event v fun e => (e.on (Sched.consume f.id f.number)).host v (Tuner.ofIndex f.tuner) x).takeAward v f (some x)

/-- AWARD_ARRIVAL (R169). -/
def execAwardArrival (h : FrameHead) (f : AwardFields) (s : State) : Result :=
  s.happens fun s =>
    s.receive h { good := awardAdmitted h f, addressed := f.awardee == s.base.cfg.station } fun s =>
      s.onSched (Sched.awardArrives s.base f)

/-- WITHDRAW_ARRIVAL (R170). -/
def execWithdrawArrival (h : FrameHead) (id : BookingId) (addressee : Nat) (s : State) : Result :=
  s.happens fun s =>
    s.receive h { good := withdrawAdmitted h id addressee, addressed := addressee == s.base.cfg.station } fun s =>
      s.event (Ev.withdrawn s.base id)

/-! ## Timers of holds -/

/-- A hold becomes a lapsed record; a fifth lapsed record discards the oldest (R168). -/
def Sched.lapse (i : BookingId) (s : Sched) : Sched :=
  match s.holds.find? fun x => x.id == i with
  | none => s
  | some x => { s with holds := s.holds.erase x, lapsed := lastN 4 (s.lapsed ++ [x]) }

/-- HOLD_EXPIRY (R168). -/
def execHoldExpiry (id : BookingId) (s : State) : Result :=
  s.atInstant (fun s => (s.sch.holds.find? fun x => x.id == id).map (·.expiry)) (State.onSched (Sched.lapse id))

/-- The PREPARE time of a lapsed record's SEEK, with the station's own tune lead (R168). -/
def Hold.prepareAt (v : Base) (x : Hold) : Nat := ((x.details.draft x.id).prepareTime v) * unit

/-- LAPSED_RECORD_DISCARD (R168). -/
def execLapsedRecordDiscard (id : BookingId) (s : State) : Result :=
  s.atInstant (fun s => (s.sch.lapsed.find? fun x => x.id == id).map (Hold.prepareAt s.base)) fun s =>
    s.onSched fun x => { x with lapsed := x.lapsed.filter fun y => y.id != id }

/-! ## RETURN and TALLY at the origin -/

/-- Segments of a peer in long form (R120). -/
def peerSegments (sender day : Nat) (l : List (Nat × Nat)) : List Segment :=
  l.map fun p => ⟨sender, none, longForm day p.1, some (longForm day p.2)⟩

/-- The booking with a booking id that is LENT to a station (R173). -/
def Sched.lentWith (s : Sched) (i : BookingId) (sender : Nat) : Option Booking :=
  s.bookings.find? fun b => b.id == i && b.isLentTo sender

/-- A peer's segments join a booking's list while it holds fewer than four (R120). -/
def Sched.appendSegments (h : Nat) (l : List Segment) (s : Sched) : Sched :=
  s.modB h fun b => { b with segs := (b.segs ++ l).take 4 }

/-- A RETURN for a LENT booking (R120, R173). -/
def Ev.returned (v : Base) (sender day : Nat) (f : ReturnFields) (e : Ev) : Ev :=
  match e.s.lentWith f.id sender with
  | none => e
  | some b =>
    let e := e.on (Sched.appendSegments b.handle (peerSegments sender day f.segments))
    if 4 < b.segs.length + f.segments.length then e.endNow v b.handle fun _ => (.partly, .segments)
    else e.comeHome v b.handle

/-- RETURN_ARRIVAL (R173). -/
def execReturnArrival (h : FrameHead) (f : ReturnFields) (s : State) : Result :=
  s.happens fun s =>
    s.receive h
      { good := returnAdmitted h f, addressed := s.base.isOrigin f.id
        resolves := (s.base.resolveDay h.sender f.tag).isSome } fun s =>
      s.event (Ev.returned s.base h.sender ((s.base.resolveDay h.sender f.tag).getD 0) f)

/-- A TALLY for a LENT booking (R120, R173). -/
def Ev.tallied (v : Base) (sender day : Nat) (f : TallyFields) (e : Ev) : Ev :=
  match e.s.lentWith f.id sender with
  | none => e
  | some b =>
    let e := e.on (Sched.appendSegments b.handle (peerSegments sender day f.segments))
    e.endNow v b.handle fun _ =>
      if 4 < b.segs.length + f.segments.length then (.partly, .segments)
      else (BOutcome.ofCode f.outcome, Reason.ofCode f.reason)

/-- TALLY_ARRIVAL (R173). -/
def execTallyArrival (h : FrameHead) (f : TallyFields) (s : State) : Result :=
  s.happens fun s =>
    s.receive h
      { good := tallyAdmitted h f, addressed := s.base.isOrigin f.id
        resolves := (s.base.resolveDay h.sender f.tag).isSome } fun s =>
      s.event (Ev.tallied s.base h.sender ((s.base.resolveDay h.sender f.tag).getD 0) f)

/-! ## MARK -/

/-- The key of an entry of the marks heard list (R178). -/
def MarkHeard.isFor (series episode station : Nat) (m : MarkHeard) : Bool :=
  m.series == series && m.episode == episode && m.station == station

/-- A MARK joins the marks heard list (R178). -/
def Sched.hear (m : MarkHeard) (s : Sched) : Sched :=
  let l := s.marks.filter fun x => !x.isFor m.series m.episode m.station
  { s with marks := (if 64 ≤ l.length then l.tail else l) ++ [m] }

/-- A booking is covered by a station (R179). -/
def Ev.cover (v : Base) (h station : Nat) (e : Ev) : Ev :=
  let e := e.leaveAll v h
  (e.on fun s => s.modB h fun b => { b.inState .covered (.covered station) with attempts := 0 }).arm v h

/-- A COVERED booking is re-pointed to a better MARK's sender when the MARK beats the entry of the covering station, or that
entry is gone (R179); the entry is weighed only while that station is PRESENT (R178). Its confirm deadline is cleared (R21,
log entry 43). -/
def Ev.repoint (v : Base) (m : MarkHeard) (b : Booking) (old : Nat) (e : Ev) : Ev :=
  let entry := (e.s.marks.find? (MarkHeard.isFor m.series m.episode old)).filter fun x => v.isPresent x.station
  if entry.all fun x => m.beats x then
    (e.on fun s => s.modB b.handle (Booking.inState .covered (.covered m.station))).arm v b.handle
  else e

/-- A MARK is weighed against one booking (R179). -/
def Ev.weighMark (v : Base) (m : MarkHeard) (e : Ev) (h : Nat) : Ev :=
  match e.s.bk h with
  | none => e
  | some b =>
    let better := markBeats m.started m.rank m.station b.started b.rank v.cfg.station
    match b.state, b.plan with
    | .covered, .covered old => if better then e.repoint v m b old else e
    | _, _ =>
      if !better then e.on (Sched.offerMark v h)
      else if b.started then e
      else
        match b.state, b.plan with
        | .lent, .lent st => if v.clock < b.prepareTime v then (e.withdraw v h st).cover v h m.station else e
        | .ended, _ => e
        | _, _ => e.cover v h m.station

/-- The bookings that a MARK concerns (R179). -/
def Sched.marked (s : Sched) (m : MarkHeard) : List Nat :=
  (s.bookings.filter fun b =>
    b.cls == .episode && b.state != .ended && b.episode == some m.episode && s.seriesOf b == some m.series).map (·.handle)

/-- A MARK arrives (R178, R179). -/
def Ev.markArrives (v : Base) (m : MarkHeard) (e : Ev) : Ev :=
  let e := e.on (Sched.hear m)
  if v.isPresent m.station && v.station == .joined then (e.s.marked m).foldl (Ev.weighMark v m) e else e

/-- The entry that a MARK makes (R178). -/
def MarkFields.heard (sender day : Nat) (f : MarkFields) : MarkHeard :=
  ⟨f.series, f.episode, sender, f.rank, f.started == 1, longForm day f.start⟩

/-- MARK_ARRIVAL (R179). -/
def execMarkArrival (h : FrameHead) (f : MarkFields) (s : State) : Result :=
  s.happens fun s =>
    s.receive h { good := markAdmitted f, resolves := (s.base.resolveDay h.sender f.tag).isSome } fun s =>
      s.event (Ev.markArrives s.base (MarkFields.heard h.sender ((s.base.resolveDay h.sender f.tag).getD 0) f))

/-- MARKS_HEARD_EXPIRY (R178): the clock passes the entry's start + 24 hours. -/
def execMarksHeardExpiry (series : Nat) (episode : Nat) (station : Nat) (s : State) : Result :=
  s.atInstant
    (fun s => (s.sch.marks.find? (MarkHeard.isFor series episode station)).map fun m => (m.start + 86400) * unit)
    fun s => s.onSched fun x => { x with marks := x.marks.filter fun m => !m.isFor series episode station }

end Sys2Proof.Machine
end

