-- ==== Sys2Proof/Machine/BoxPort.lean ====
section
/-! DEFINITION. The commands of the box port itself: FETCH-NOTICE (R186), READ-PEER (R188), READ-STATION (R189), requests
that find the port busy (R182) and collections (R184). -/

namespace Sys2Proof.Machine

/-! ## Notices -/

/-- FETCH-NOTICE (R186). -/
def State.fetchNotice (s : State) : Answer :=
  match s.sch.notices with
  | [] => s.refuse .noSuch
  | n :: rest =>
    let sch := { s.sch with notices := rest, overflow := false }.admitPending
    { s with sch := sch }.done (n.bytes ++ yesNo s.sch.overflow ++ byte sch.notices.length)

/-- FETCH_NOTICE (R186). -/
def execFetchNotice (s : State) : Result := s.request 22 State.fetchNotice

/-! ## Peers -/

/-- A tuner of a view (R188): busy-until in long form, or open. -/
def ViewTuner.bytes (t : ViewTuner) : List Byte := byte t.state ++ optional 2 t.mux ++ valueOr 4 t.busy ++ byte t.top

/-- A tuner view, or absent (R188). -/
def viewBytes (x : Option View) : List Byte :=
  yesNo x.isSome ++
  match x with
  | none => byte 0 ++ byte 0
  | some w => byte w.usable ++ listField ViewTuner.bytes w.tuners

/-- Which condition of eligibility fails, the first in R188's order (R154, log entry 19). -/
def Peer.bar (p : Peer) : Option Nat :=
  if p.presence ≠ .present then some 0
  else if p.flags.untimed then some 1
  else if p.flags.rxFault then some 2
  else if p.flags.joining then some 3
  else if p.flags.leaving then some 4
  else none

/-- The peer record's own fields (R188): the deadline in long form, or stopped; the flags in one byte (log entry 19). -/
def Peer.bytes (p : Peer) : List Byte :=
  byte p.presence.code ++ optional 1 p.incarnation ++ optional 1 p.lastSeq ++ byte (p.period.getD 0) ++ optional 2 p.day ++
  optional 2 p.prevDay ++ byte p.flags.code ++ listField (fun r => byte r.code) p.history ++ byte p.good ++
  byte p.missing ++ valueOr 4 (p.deadline.map seconds) ++ viewBytes p.view ++ viewBytes p.candidate ++
  yesNo p.eligible ++ optional 1 p.bar

/-- What stands with a peer (R188): whether the AWARD names it and whether it is in the bid list in a byte each. That the
tally records waiting for the peer are all those whose origin it is, the OFFERED ones with the WAITING, is the model's
choice too (log entry 19). -/
def Sched.withPeer (s : Sched) (n : Nat) : List Byte :=
  byte (countOf (fun b => b.plan == .lent n) s.bookings) ++
  byte (countOf (fun b => b.plan == .lent n && b.peerLost) s.bookings) ++
  byte (countOf (fun b => b.plan == .covered n) s.bookings) ++
  byte (countOf (fun b => b.hosted && b.id.origin == n) s.bookings) ++
  byte (countOf (fun t => t.id.origin == n) s.tallies) ++
  byte (countOf (fun x => x.id.origin == n) s.holds) ++
  byte (countOf (fun x => x.id.origin == n) s.lapsed) ++
  match s.engine with
  | .idle => yesNo false ++ yesNo false
  | .collecting _ _ bids => yesNo false ++ yesNo (bids.any fun x => x.station == n)
  | .awaiting _ st _ bids => yesNo (st == n) ++ yesNo (bids.any fun x => x.station == n)

/-- READ-PEER (R188). -/
def State.readPeer (n : Nat) (s : State) : Answer :=
  if n < 1 ∨ 8 < n then s.refuse .badValue
  else
    match s.base.peer n with
    | none => s.refuse .noSuch
    | some p => s.done (p.bytes ++ s.sch.withPeer n)

/-- READ_PEER (R188). -/
def execReadPeer (station : Nat) (s : State) : Result := s.request 23 (State.readPeer station)

/-! ## The station -/

/-- The top record of a stack as READ-STATION gives it (R189): the cause-ended mark as a yes/no (log entry 19). -/
def topRecord (l : List StackRec) : List Byte :=
  match l with
  | [] => yesNo false ++ byte 0 ++ byte 0
  | r :: _ => yesNo true ++ byte r.reason.code ++ yesNo r.causeEnded

/-- One tuner of the status (R189): the unread mark as a yes/no (log entry 19). -/
def Sched.tunerStatus (s : Sched) (t : Tuner) : List Byte :=
  let r := s.tuners.get t
  byte r.state.code ++ optional 2 r.directive.mux ++ byte r.marks.code ++ yesNo r.marks.none ++ byte r.holdCount ++
  yesNo r.live.isSome ++ bytesOf 2 ((r.live.map (·.mux)).getD 0) ++ bytesOf 2 ((r.live.map (·.service)).getD 0) ++
  bytesOf 2 r.directive.serial ++ yesNo r.unread ++ byte (s.stacked.get t).length ++ topRecord (s.stacked.get t)

/-- The engine's state and the handle of its booking (R189). -/
def Engine.bytes : Engine → List Byte
  | .idle => byte 0 ++ optional 1 none
  | .collecting h _ _ => byte 1 ++ optional 1 (some h)
  | .awaiting h _ _ _ => byte 2 ++ optional 1 (some h)

/-- The groups station, time and link of the status (R189). -/
def State.statusHead (s : State) : List Byte :=
  let v := s.base
  byte v.cfg.station ++ bytesOf 2 v.cfg.household ++ byte v.station.code ++ byte v.incarnation ++ yesNo (!v.timed) ++
  bytesOf 4 v.clock ++ bytesOf 2 v.day ++ byte v.tag ++
  yesNo v.rxFault ++ byte (badCount v.window) ++ byte v.goodRun ++ byte s.sch.txq.length ++ byte v.lastSent

/-- The groups of the scheduling blocks of the status (R189). -/
def State.statusTail (s : State) : List Byte :=
  let x := s.sch
  listField x.tunerStatus s.base.fittedTuners ++ byte x.budget ++ byte x.usableTuners.length ++
  byte x.bookings.length ++ byte x.hostedInUse ++ byte x.pendingOutcomes.length ++ byte x.unplaced.length ++
  byte x.referrals.length ++ byte x.plans.a.length ++ byte x.plans.b.length ++ byte x.links.length ++ x.engine.bytes ++
  byte x.seekQueue.length ++ byte x.holds.length ++ byte x.lapsed.length ++ byte x.tallies.length ++
  byte x.marks.length ++ byte x.notices.length ++ yesNo x.overflow

/-- The configuration record is locked (R190). -/
def StationState.locked : StationState → Bool
  | .joining | .joined | .leaving => true
  | .detached | .isolated => false

/-- READ-STATION (R189). -/
def State.readStation (part : Nat) (s : State) : Answer :=
  match part with
  | 0 => s.done (s.statusHead ++ s.statusTail)
  | 1 => s.done (configBytes s.base.cfg ++ yesNo s.base.station.locked)
  | _ => s.refuse .badValue

/-- READ_STATION (R189). -/
def execReadStation (part : Nat) (s : State) : Result := s.request 24 (State.readStation part)

/-! ## The transport -/

/-- BUSY_REQUEST (R182): a request transaction by its first byte, in EXECUTING or READY (log entry 6). -/
def execBusyRequest (first : Byte) (s : State) : Result :=
  s.happens fun s => if first.toNat = 0 ∨ s.port.state = .idle then s else s.busy 1

/-- The bytes that follow the response record on MISO when the box processor clocks on (log entry 17). -/
def freeBytes : Nat → Nat → List Byte
  | 0, _ => []
  | n + 1, k => Config.freeByte k :: freeBytes n (k + 1)

/-- What MISO carries after the port status in a collection of n bytes (R184). -/
def State.collected (s : State) (n : Nat) : List Byte :=
  match s.port.state, s.port.response with
  | .ready, some r => (r.record ++ freeBytes (n - r.record.length) s.free).take n
  | _, _ => List.replicate n 0

/-- A collection of n bytes after the port status clocks out the whole record (R184). -/
def State.collectsAll (s : State) (n : Nat) : Bool :=
  s.port.state == .ready && s.port.response.any fun r => r.record.length ≤ n

/-- A collection (R184) of n bytes after the port status. -/
def State.collect (n : Nat) (s : State) : State :=
  let miso := s.port.status :: s.collected n
  let past := match s.port.state, s.port.response with
    | .ready, some r => n - r.record.length
    | _, _ => 0
  let s' := { s with free := s.free + past }
  if s.collectsAll n then { s' with port := ⟨.idle, false, none, miso⟩ }
  else { s' with port := { s.port with miso := miso } }

/-- COLLECTION (R184): a transaction of that many whole bytes, the first of which the box processor sends as 0. -/
def execCollection (clocked : Nat) (s : State) : Result :=
  s.happens fun s => if clocked = 0 then s else s.collect (clocked - 1)

end Sys2Proof.Machine
end

