-- ==== Sys2Proof/Machine/Clock.lean ====
section
/-! DEFINITION. SET-CLOCK (R24 to R27), RUNNING (R39, R40), the booking triggers as commands (R32 to R37), and the change of
the epoch day (R28). -/

namespace Sys2Proof.Machine

/-! ## SET-CLOCK -/

/-- The kinds of a SET-CLOCK (R24). -/
inductive ClockKind
  | first
  | trim
  | forward
  | backward
deriving DecidableEq, Repr

/-- Kinds in the order of R24. -/
def ClockKind.code : ClockKind → Nat
  | .first => 0
  | .trim => 1
  | .forward => 2
  | .backward => 3

/-- The kind of a SET-CLOCK by its change (R24). -/
def Base.clockKind (v : Base) (time : Nat) : ClockKind :=
  if !v.timed then .first
  else if v.clock + 2 ≤ time then .forward
  else if time + 2 ≤ v.clock then .backward
  else .trim

/-- An expiry moved by the change of the clock (R24). -/
def shift (old new t : Nat) : Nat := t + new * unit - old * unit

/-- The timers of station life and presence keep the time they still had to run (R24). -/
def Base.shiftTimers (old new : Nat) (v : Base) : Base :=
  { v with
    joinTimer := v.joinTimer.map (shift old new)
    leaveTimer := v.leaveTimer.map (shift old new)
    rollTimer := v.rollTimer.map (shift old new)
    peers := v.peers.map fun p => { p with deadline := p.deadline.map (shift old new) } }

/-- The timers of the seek engine (R24). -/
def Engine.shift (old new : Nat) : Engine → Engine
  | .idle => .idle
  | .collecting h w b => .collecting h (w.map (Machine.shift old new)) b
  | .awaiting h st t b => .awaiting h st (t.map (Machine.shift old new)) b

/-- The timers of tuners, Broker and transmit queue keep the time they still had to run (R24). -/
def Sched.shiftTimers (old new : Nat) (s : Sched) : Sched :=
  { s with
    tuners := s.tuners.both fun r =>
      { r with tuneTimer := r.tuneTimer.map fun p => (shift old new p.1, p.2), recheck := r.recheck.map (shift old new) }
    engine := s.engine.shift old new
    seekQueue := s.seekQueue.map fun q => { q with ready := q.ready.map (shift old new) }
    holds := s.holds.map fun x => { x with bidEnd := shift old new x.bidEnd, expiry := shift old new x.expiry }
    txq := s.txq.map fun q => { q with bidEnd := q.bidEnd.map (shift old new) }
    bookings := s.bookings.map fun b => { b with confirm := b.confirm.map (shift old new) } }

/-- The clock takes the given value, its fraction discarded, and the timers move by the change (R24). -/
def State.setTime (time : Nat) (s : State) : State :=
  { s with
    base := { s.base.shiftTimers s.base.clock time with clock := time, frac := 0, timed := true }
    sch := s.sch.shiftTimers s.base.clock time }

/-- The handles whose armed trigger lies at or before the clock (R32), in the order of the Trigger List: of time, and at
one time of arming, which is the model's choice (log entry 53). -/
def Sched.due (v : Base) (s : Sched) : List Nat := (s.triggers.filter fun t => t.time ≤ v.clock).map (·.handle)

/-- Every trigger at or before the clock fires (R25, R26, R32), those of one time in the order of arming (log entry 53). -/
def State.fireDue (s : State) : State := s.onSched fun x => settleIn 1024 s.base x (x.due s.base)

/-- A RECORDING booking that a forward jump leaves capturing, its open segment closed at the old clock: a new one opens at
the clock; with four segments held the booking ends instead (R26, R119). -/
def Ev.gap (v : Base) (old : Nat) (b : Booking) (e : Ev) : Ev :=
  if 4 ≤ b.segs.length then e.endAt v b.handle old true fun _ => (.partly, .segments)
  else
    match b.plan with
    | .tuner t => e.on fun s => s.modB b.handle (Booking.addSegment (openSegment v t))
    | _ => e

/-- A forward jump leaves a booking behind (R26). -/
def Booking.leftBehind (v : Base) (b : Booking) : Bool :=
  b.state != .ended && b.state != .lent && b.state != .covered && b.closeTime v ≤ v.clock

/-- A booking is RECORDING with no open segment, as a forward jump finds it (R26, R41). -/
def Booking.interrupted (b : Booking) : Bool := b.state == .recording && b.segs.all fun g => g.til.isSome

/-- A forward jump's handling of one booking, an event of its own (R26, log entry 10). -/
def forwardOne (old : Nat) (s : State) (h : Nat) : State :=
  let v := s.base
  match s.sch.bk h with
  | none => s
  | some b =>
    if b.leftBehind v then s.event fun e => e.endAt v h old true fun b => b.bySegs .clock .clock
    else if b.interrupted then s.event fun e => e.gap v old b
    else s

/-- The handles in use, ascending. -/
def Sched.handles (s : Sched) : List Nat := s.bookings.map (·.handle)

/-- The open segment of every RECORDING booking closes at the old clock of a forward jump (R26, R41). -/
def Sched.interrupt (old : Nat) (s : Sched) : Sched :=
  ((s.bookings.filter fun b => b.state == .recording).map (·.handle)).foldl (fun s h => s.closeSeg h old) s

/-- The order in which a forward jump treats the bookings: those of the stacks from the bottom record up, and then all in
ascending order of handle (log entry 10). -/
def Sched.jumpOrder (s : Sched) : List Nat :=
  (s.stacked.a.reverse ++ s.stacked.b.reverse).flatMap (·.handles) ++ s.handles

/-- FORWARD (R26): open segments close at the old clock, the bookings left behind end, those RECORDING keep capturing past
a gap, and then the triggers passed fire as late events. -/
def State.forward (old : Nat) (s : State) : State :=
  let s := s.onSched (Sched.interrupt old)
  (s.sch.jumpOrder.foldl (forwardOne old) s).fireDue

/-- An open segment that begins after the clock begins at the clock (R27). -/
def Segment.notAfter (clock : Nat) (g : Segment) : Segment := if g.til.isNone then { g with frm := min g.frm clock } else g

/-- A backward jump's handling of one booking (R27). -/
def Ev.back (v : Base) (b : Booking) (e : Ev) : Ev :=
  match b.state, b.plan with
  | .ended, _ => e
  | .preparing, .tuner t =>
    if b.segs.isEmpty && v.clock < b.prepareTime v then
      ((e.on fun s => s.modB b.handle fun c => { c with state := .planned }).arm v b.handle).askExam t
    else e.arm v b.handle
  | .recording, _ =>
    (e.on fun s => s.modB b.handle fun c => { c with segs := c.segs.map (Segment.notAfter v.clock) }).arm v b.handle
  | _, _ => e.arm v b.handle

/-- A backward jump reaches one booking, an event of its own. -/
def backwardOne (s : State) (h : Nat) : State :=
  match s.sch.bk h with
  | none => s
  | some b => s.event fun e => e.back s.base b

/-- BACKWARD (R27). -/
def State.backward (s : State) : State := s.sch.handles.foldl backwardOne s

/-- SET-CLOCK (R24 to R27). -/
def State.setClock (time : Nat) (s : State) : Answer :=
  if time < 86400 ∨ 4290000000 < time then s.refuse .badValue
  else
    let old := s.base.clock
    let kind := s.base.clockKind time
    let s' := s.setTime time
    let s' := match kind with
      | .first => s'
      | .trim => s'.fireDue
      | .forward => s'.forward old
      | .backward => s'.backward
    s'.done (byte kind.code ++ bytesOf 4 old)

/-- SET_CLOCK (R24). -/
def execSetClock (time : Nat) (s : State) : Result := s.request 5 (State.setClock time)

/-! ## RUNNING -/

/-- The fields that a running status writes (R39). -/
def Booking.takeStatus (v : Base) (r : Running) (b : Booking) : Booking :=
  { b with
    running := some r
    endedAt :=
      if r = .ended then
        if b.running = some .ended then b.endedAt
        else if !b.segs.isEmpty || b.state == .recording then some v.clock
        else none
      else none }

/-- A RECORDING booking pauses (R40). -/
def Ev.pause (v : Base) (h : Nat) (e : Ev) : Ev :=
  (e.on fun s => ((s.closeSeg h v.clock).leaveCapture h).modB h fun b => { b with state := .paused }).arm v h

/-- A PAUSED booking runs again (R40): it captures when its tuner is LOCKED on its multiplex, else it is PREPARING and keeps
its place in the order of entry into PREPARING (log entry 12). -/
def Ev.unpause (v : Base) (b : Booking) (e : Ev) : Ev :=
  match b.plan with
  | .tuner t =>
    if e.s.lockedOn t b.mux then e.capture v b t
    else (e.on fun s => s.modB b.handle fun c => { c with state := .preparing }).arm v b.handle
  | _ => e

/-- The state effects of a running status (R40). -/
def Ev.statusEffect (v : Base) (r : Running) (b : Booking) (e : Ev) : Ev :=
  match b.state with
  | .preparing => e.captureRule v b.handle
  | .recording => if r = .paused then e.pause v b.handle else e
  | .paused => if r = .running then e.unpause v b else e
  | _ => e

/-- A running status reaches one booking (R39). -/
def Ev.status (v : Base) (r : Running) (b : Booking) (e : Ev) : Ev :=
  ((e.on fun s => s.modB b.handle (Booking.takeStatus v r)).arm v b.handle).statusEffect v r (b.takeStatus v r)

/-- RUNNING reaches a booking (R39). -/
def followsProgramme (service event : Nat) (b : Booking) : Bool :=
  b.follow && b.state != .ended && b.service == service && b.event == some event

/-- RUNNING's part at one booking (R39). One that an earlier part has ended or freed takes no status (log entry 48). -/
def Ev.statusOf (v : Base) (service event : Nat) (r : Running) (e : Ev) (h : Nat) : Ev :=
  match e.s.bk h with
  | none => e
  | some b => if followsProgramme service event b then e.status v r b else e

/-- RUNNING (R39): one event whatever it reaches, so that each tuner gets one directive at most (R65, R183), the bookings
in order of handle (log entry 10). The answer counts those that it finds (log entry 48); one that finds none is no event. -/
def State.running (service event status : Nat) (s : State) : Answer :=
  match Running.ofStatus status with
  | none => s.refuse .badValue
  | some r =>
    let hs := (s.sch.bookings.filter (followsProgramme service event)).map (·.handle)
    let s' := if hs.isEmpty then s else s.event fun e => hs.foldl (Ev.statusOf s.base service event r) e
    s'.done (byte hs.length)

/-- RUNNING (R39). -/
def execRunning (service : Nat) (event : Nat) (status : Nat) (s : State) : Result :=
  s.request 15 (State.running service event status)

/-! ## Triggers -/

/-- The time of the trigger of a kind that is armed for a handle, as an instant. -/
def State.armedAt (h : Nat) (k : TrigKind) (s : State) : Option Nat :=
  (s.sch.trigger h).bind fun t => if t.kind = k then some (t.time * unit) else none

/-- A trigger fires when its time comes (R32): nothing where none of the kind is armed for the handle (log entry 3). -/
def State.triggerFires (h : Nat) (k : TrigKind) (s : State) : Result :=
  s.atInstant (State.armedAt h k) fun s => s.event fun e => e.fire s.base h k

/-- PREPARE (R33). -/
def execPrepare (handle : Nat) (s : State) : Result := s.triggerFires handle .prepare

/-- START (R34). -/
def execStart (handle : Nat) (s : State) : Result := s.triggerFires handle .start

/-- GRACE (R34). -/
def execGrace (handle : Nat) (s : State) : Result := s.triggerFires handle .grace

/-- STOP (R36). -/
def execStop (handle : Nat) (s : State) : Result := s.triggerFires handle .stop

/-- OVERRUN (R37). -/
def execOverrun (handle : Nat) (s : State) : Result := s.triggerFires handle .overrun

/-! ## The epoch day -/

/-- EPOCH_DAY_CHANGE (R28): the clock counts on into the next epoch day. The tag and the window base are worked out from the
clock. -/
def execEpochDayChange (s : State) : Result :=
  s.happens fun s => s.countTo ((s.base.day + 1) * 86400 * unit)

end Sys2Proof.Machine
end

