-- ==== Sys2Proof/Machine/Viewing.lean ====
section
/-! DEFINITION. The requests of the Tuner Controller: READ-DIRECTIVE (R67), TUNER-REPORT (R68, R69), POWER-BUDGET (R74),
HOLD-LIVE (R78 to R81) and RELEASE-LIVE (R82); and the tune and recheck timers (R70, R72). -/

namespace Sys2Proof.Machine

/-- A tuner is fitted (R73). -/
def Base.isFitted (v : Base) (n : Nat) : Bool := n < v.cfg.fitted

/-! ## Directives and reports -/

/-- READ-DIRECTIVE (R67). -/
def State.readDirective (n : Nat) (s : State) : Answer :=
  if 1 < n then s.refuse .badValue
  else if !s.base.isFitted n then s.refuse .noSuch
  else
    let t := Tuner.ofIndex n
    (s.onSched fun x => x.modTuner t fun r => { r with unread := false }).done (s.sch.directiveBytes t)

/-- READ_DIRECTIVE (R67). -/
def execReadDirective (tuner : Nat) (s : State) : Result := s.request 19 (State.readDirective tuner)

/-- A tuner locks (R69): the tune timer stops and the capture rule is applied to its PREPARING bookings. -/
def Ev.lock (v : Base) (t : Tuner) (e : Ev) : Ev :=
  (e.on fun s => s.modTuner t fun r => { r with state := .locked, tuneTimer := none }).captureAll v t

/-- A current report (R69): status 0 is LOCKED, 1 is NO-SIGNAL. -/
def Ev.report (v : Base) (t : Tuner) (status : Nat) (e : Ev) : Ev :=
  match (e.s.tuners.get t).state, status with
  | .idle, _ | .failed, _ => e
  | .tuning, 0 | .unknown, 0 => e.lock v t
  | .locked, 0 => e
  | _, _ => e.fail v t

/-- TUNER-REPORT (R68). -/
def State.tunerReport (n serial status : Nat) (s : State) : Answer :=
  if 1 < n ∨ 1 < status then s.refuse .badValue
  else if !s.base.isFitted n then s.refuse .noSuch
  else
    let t := Tuner.ofIndex n
    let current := (s.sch.tuners.get t).directive.serial
    if serial ≠ current then s.done (yesNo true ++ bytesOf 2 current)
    else s.answerEvent (Ev.report s.base t status) fun x => yesNo false ++ byte (x.tuners.get t).state.code

/-- TUNER_REPORT (R68). -/
def execTunerReport (tuner : Nat) (serial : Nat) (status : Nat) (s : State) : Result :=
  s.request 20 (State.tunerReport tuner serial status)

/-! ## Power budget -/

/-- POWER-BUDGET (R74). -/
def State.powerBudget (n : Nat) (s : State) : Answer :=
  if 2 < n then s.refuse .badValue
  else
    s.answerEvent (fun e => (e.on fun x => { x with budget := n }).choose s.base e.s.usable) fun x =>
      listField tunerField x.usableTuners

/-- POWER_BUDGET (R74). -/
def execPowerBudget (tuners : Nat) (s : State) : Result := s.request 18 (State.powerBudget tuners)

/-! ## Live viewing -/

/-- Step 1, share: a LOCKED tuner comes before the others, then the lower index (R78). -/
def Sched.shareTuner (s : Sched) (mux : Nat) : Option Tuner :=
  let fit := s.usableTuners.filter fun t => s.bookingMux t == some mux
  (fit.find? fun t => (s.tuners.get t).state == .locked).or fit.head?

/-- Step 2, free (R78): the station's own hold is left out in weighing. -/
def Sched.freeTuner (s : Sched) : Option Tuner := s.usableTuners.find? fun t => (s.occupants t).isEmpty

/-- Step 3, displace: the worst top rank, then the lower index (R78). -/
def Sched.worstTuner (s : Sched) : Option Tuner :=
  match s.usableTuners with
  | [] => none
  | [t] => some t
  | t :: u :: _ => if s.bookingTop t < s.bookingTop u then some u else some t

/-- The tuner that HOLD-LIVE chooses (R78). -/
def Sched.liveChoice (s : Sched) (mux : Nat) : Option Tuner := ((s.shareTuner mux).or s.freeTuner).or s.worstTuner

/-- The booking occupants that a hold displaces (R80). -/
def Sched.liveDisplaces (s : Sched) (t : Tuner) (mux : Nat) : List Booking := (s.occupants t).filter fun b => b.mux != mux

/-- The hold is taken on a tuner (R80): bookings on another multiplex are pushed or returned, the hosted ones in the order
of the plan (log entry 35), the hold is set, the pushed bookings are placed at once (R111), and PLANNED bookings on another
multiplex are placed again. -/
def Ev.takeHold (v : Base) (t : Tuner) (mux service : Nat) (e : Ev) : Ev :=
  let out := e.s.liveDisplaces t mux
  let pushed := out.filter fun b => !b.hosted
  let e := e.push v t .live none pushed
  let e := (out.filter Booking.hosted).foldl (fun e b => e.giveBack v b.handle .displaced) e
  let e := e.on fun s => s.modTuner t fun r => { r with live := some ⟨mux, service⟩ }
  let e := e.placePushed v pushed
  let planned := ((e.s.planBookings t).filter fun b => !b.occupies && b.mux != mux).map (·.handle)
  let e := planned.foldl (fun e h => e.leavePlan h) e
  e.placeEach v Open.all planned

/-- The hold leaves its tuner (R82): the cause of the LIVE records ends, the stack is examined, and the unplaced list is
re-tried. -/
def Ev.releaseHold (t : Tuner) (e : Ev) : Ev :=
  ((e.on fun s => s.modTuner t fun r => { r with live := none }).endCauses t (· == .live)).askRetry false

/-- HOLD-LIVE's hold on the chosen tuner: set, changed or moved (R80, R81). -/
def Ev.holdLive (v : Base) (t : Tuner) (mux service : Nat) (e : Ev) : Ev :=
  match e.s.liveTuner with
  | none => e.takeHold v t mux service
  | some u =>
    if u = t then
      if (e.s.tuners.get t).live.any fun l => l.mux == mux then
        e.on fun s => s.modTuner t fun r => { r with live := some ⟨mux, service⟩ }
      else e.takeHold v t mux service
    else (e.takeHold v t mux service).releaseHold u

/-- The handles that a hold displaces, in handle order; none where the tuner holds a LIVE hold on that multiplex already
(R79, R81). -/
def Sched.liveHandles (s : Sched) (t : Tuner) (mux : Nat) : List Nat :=
  if (s.tuners.get t).live.any fun l => l.mux == mux then []
  else ascending ((s.liveDisplaces t mux).map (·.handle))

/-- HOLD-LIVE (R78 to R81): an OK gives the handles in the order that R79 gives for CONFLICT (log entry 19). -/
def State.holdLive (mux service force : Nat) (s : State) : Answer :=
  match yesNoOf force, s.sch.liveChoice mux with
  | none, _ => s.refuse .badValue
  | some _, none => s.refuse .badState
  | some forced, some t =>
    let hs := s.sch.liveHandles t mux
    if s.base.cfg.liveRefer && !forced && !hs.isEmpty then ⟨s, .conflict, tunerField t ++ listField byte hs⟩
    else
      s.answerEvent (Ev.holdLive s.base t mux service) fun x =>
        tunerField t ++ bytesOf 2 (x.tuners.get t).directive.serial ++ listField byte hs

/-- HOLD_LIVE (R78). -/
def execHoldLive (multiplex : Nat) (service : Nat) (force : Nat) (s : State) : Result :=
  s.request 16 (State.holdLive multiplex service force)

/-- RELEASE-LIVE (R82). -/
def State.releaseLive (s : State) : Answer :=
  match s.sch.liveTuner with
  | none => s.refuse .badState
  | some t => (s.event (Ev.releaseHold t)).done (tunerField t)

/-- RELEASE_LIVE (R82). -/
def execReleaseLive (s : State) : Result := s.request 17 State.releaseLive

/-! ## Timers -/

/-- When the tune timer of a tuner expires: it is TUNING or UNKNOWN and the timer's serial is current (R70). -/
def State.tuneDue (n : Nat) (s : State) : Option Nat :=
  let r := s.sch.tuners.get (Tuner.ofIndex n)
  if 1 < n then none
  else if r.state = .tuning ∨ r.state = .unknown then
    r.tuneTimer.bind fun p => if p.2 = r.directive.serial then some p.1 else none
  else none

/-- TUNE_TIMER_EXPIRY (R70). -/
def execTuneTimerExpiry (tuner : Nat) (s : State) : Result :=
  s.atInstant (State.tuneDue tuner) fun s => s.event fun e => e.fail s.base (Tuner.ofIndex tuner)

/-- When the recheck timer of a FAILED tuner expires (R72). -/
def State.recheckDue (n : Nat) (s : State) : Option Nat :=
  let r := s.sch.tuners.get (Tuner.ofIndex n)
  if 1 < n then none else if r.state = .failed then r.recheck else none

/-- RECHECK_TIMER_EXPIRY (R72). -/
def execRecheckTimerExpiry (tuner : Nat) (s : State) : Result :=
  s.atInstant (State.recheckDue tuner) fun s => s.event fun e => e.recheck s.base (Tuner.ofIndex tuner)

end Sys2Proof.Machine
end

