-- ==== Sys2Proof/Machine/Requests.lean ====
section
/-! DEFINITION. Request records as bytes (R183): how the fields of each request are sent, how a record is read into its
request, and the transaction that carries a record, which is answered BAD-FORM when the form check fails. -/

namespace Sys2Proof.Machine

/-! ## The fields as they are sent -/

/-- A booking id that may be absent (R183). -/
def optionalId (i : Option BookingId) : List Byte := yesNo i.isSome ++ idField (i.getD ⟨0, 0⟩)

/-- An alternative in its place: the selector byte and the value in the low-order bytes of a width (R183). -/
def alternative (w selector value : Nat) : List Byte := byte selector ++ bytesOf w value

/-- The settings of R190's table as CONFIGURE sends them. -/
def configFields (c : ConfigFields) : List Byte :=
  byte c.station ++ bytesOf 2 c.household ++ byte c.fitted ++ byte c.rollPeriod ++ byte c.window ++ byte c.debounce ++
  byte c.skew ++ c.clash.flatMap byte ++ byte c.livePolicy ++ byte c.depth ++ bytesOf 2 c.bidWindow ++
  bytesOf 2 c.takeTimeout ++ byte c.seekLimit ++ byte c.tuneLead ++ byte c.tuneTimeout ++ bytesOf 2 c.recheck ++
  byte c.grace ++ byte c.overrun

/-- The scope of LINK: ANY or a service id (R46). -/
def ScopeField.bytes : ScopeField → List Byte
  | .any => alternative 2 0 0
  | .service n => alternative 2 1 n
  | .other k => alternative 2 k 0

/-- The count of LINK: OPEN or a number (R46). -/
def CountField.bytes : CountField → List Byte
  | .unbounded => alternative 1 0 0
  | .number n => alternative 1 1 n
  | .other k => alternative 1 k 0

/-- What READ-LINK carries: a link id or a starting slot (R49). -/
def LinkKey.bytes : LinkKey → List Byte
  | .byId i => byte 0 ++ linkField i
  | .fromSlot n => alternative 3 1 n
  | .other k => alternative 3 k 0

/-- The field bytes of a request, in the order of its owning rule (R183). -/
def Instr.fieldBytes : Instr → List Byte
  | .configure c => configFields c
  | .setClock t => bytesOf 4 t
  | .book f =>
    bytesOf 2 f.service ++ bytesOf 2 f.multiplex ++ optional 2 f.event ++ bytesOf 4 f.start ++ bytesOf 4 f.finish ++
    byte f.pre ++ byte f.post ++ byte f.priority ++ byte f.follow
  | .amend h x f =>
    byte h ++ optionalId x ++ optional 1 f.priority ++ optional 1 f.pre ++ optional 1 f.post ++ optional 1 f.follow ++
    optional 4 f.start ++ optional 4 f.finish
  | .cancel h x | .readBooking h x => byte h ++ optionalId x
  | .nextBooking x f => optional 1 (x.map StartAt.handle) ++ optionalId (x.bind StartAt.expect) ++ byte f
  | .link f =>
    bytesOf 4 f.series ++ ScopeField.bytes f.scope ++ byte f.priority ++ byte f.pre ++ byte f.post ++ byte f.follow ++
    byte f.firstRun ++ CountField.bytes f.count
  | .unlink i => linkField i
  | .readLink k => LinkKey.bytes k
  | .guideEvent f =>
    bytesOf 2 f.service ++ bytesOf 2 f.multiplex ++ bytesOf 2 f.event ++ bytesOf 4 f.start ++ bytesOf 2 f.duration ++
    optional 4 f.series ++ optional 4 f.episode ++ byte f.repeated
  | .running s e x => bytesOf 2 s ++ bytesOf 2 e ++ byte x
  | .holdLive m s f => bytesOf 2 m ++ bytesOf 2 s ++ byte f
  | .powerBudget n | .readDirective n | .readPeer n | .readStation n => byte n
  | .tunerReport t n x => byte t ++ bytesOf 2 n ++ byte x
  | .resolve h x d => byte h ++ optionalId x ++ byte d
  | _ => []

/-- The request record of a code and its field bytes (R183). -/
def requestRecord (code : Nat) (fields : List Byte) : List Byte :=
  let head := byte code ++ byte fields.length ++ fields
  head ++ [crc8 head]

/-! ## Reading a record -/

/-- The number of so many bytes from a place on, most significant byte first (R183). -/
def numAt (l : List Byte) (i : Nat) : Nat → Nat
  | 0 => 0
  | w + 1 => 256 * numAt l i w + (l.getD (i + w) 0).toNat

/-- An optional field: its presence byte stands at a place (R183). -/
def optAt (l : List Byte) (i w : Nat) : Option Nat := if l.getD i 0 = 0 then none else some (numAt l (i + 1) w)

/-- A booking id at a place (R183). -/
def idAt (l : List Byte) (i : Nat) : BookingId := ⟨numAt l i 1, numAt l (i + 1) 2⟩

/-- A link id at a place (R183). -/
def linkIdAt (l : List Byte) (i : Nat) : LinkId := ⟨numAt l i 1, numAt l (i + 1) 2⟩

/-- An optional booking id: its presence byte stands at a place (R183). -/
def optIdAt (l : List Byte) (i : Nat) : Option BookingId := if l.getD i 0 = 0 then none else some (idAt l (i + 1))

/-- The settings that CONFIGURE carries (R190). -/
def configAt (l : List Byte) : ConfigFields where
  station := numAt l 0 1
  household := numAt l 1 2
  fitted := numAt l 3 1
  rollPeriod := numAt l 4 1
  window := numAt l 5 1
  debounce := numAt l 6 1
  skew := numAt l 7 1
  clash := ((l.drop 8).take 16).map BitVec.toNat
  livePolicy := numAt l 24 1
  depth := numAt l 25 1
  bidWindow := numAt l 26 2
  takeTimeout := numAt l 28 2
  seekLimit := numAt l 30 1
  tuneLead := numAt l 31 1
  tuneTimeout := numAt l 32 1
  recheck := numAt l 33 2
  grace := numAt l 35 1
  overrun := numAt l 36 1

/-- The fields of BOOK (R9). -/
def bookAt (l : List Byte) : BookFields where
  service := numAt l 0 2
  multiplex := numAt l 2 2
  event := optAt l 4 2
  start := numAt l 7 4
  finish := numAt l 11 4
  pre := numAt l 15 1
  post := numAt l 16 1
  priority := numAt l 17 1
  follow := numAt l 18 1

/-- The optional fields of AMEND (R12). -/
def amendAt (l : List Byte) : AmendFields where
  priority := optAt l 5 1
  pre := optAt l 7 1
  post := optAt l 9 1
  follow := optAt l 11 1
  start := optAt l 13 4
  finish := optAt l 18 4

/-- The fields of LINK (R46), the selectors at their places (R183). -/
def linkAt (l : List Byte) : LinkFields where
  series := numAt l 0 4
  scope := match numAt l 4 1 with | 0 => .any | 1 => .service (numAt l 5 2) | k => .other k
  priority := numAt l 7 1
  pre := numAt l 8 1
  post := numAt l 9 1
  follow := numAt l 10 1
  firstRun := numAt l 11 1
  count := match numAt l 12 1 with | 0 => .unbounded | 1 => .number (numAt l 13 1) | k => .other k

/-- The fields of GUIDE-EVENT (R50). -/
def guideAt (l : List Byte) : GuideFields where
  service := numAt l 0 2
  multiplex := numAt l 2 2
  event := numAt l 4 2
  start := numAt l 6 4
  duration := numAt l 10 2
  series := optAt l 12 4
  episode := optAt l 17 4
  repeated := numAt l 22 1

/-- The request of a code with the field bytes of a record (R183, table of 10.2); none for a code outside 1..24. What a byte
that should be 0 does is log entry 52's. -/
def requestOf (code : Nat) (l : List Byte) : Option Instr :=
  match code with
  | 1 => some (.configure (configAt l))
  | 2 => some .join
  | 3 => some .leave
  | 4 => some .restart
  | 5 => some (.setClock (numAt l 0 4))
  | 6 => some (.book (bookAt l))
  | 7 => some (.amend (numAt l 0 1) (optIdAt l 1) (amendAt l))
  | 8 => some (.cancel (numAt l 0 1) (optIdAt l 1))
  | 9 => some (.readBooking (numAt l 0 1) (optIdAt l 1))
  | 10 => some (.nextBooking ((optAt l 0 1).map fun h => ⟨h, optIdAt l 2⟩) (numAt l 6 1))
  | 11 => some (.link (linkAt l))
  | 12 => some (.unlink (linkIdAt l 0))
  | 13 =>
    some (.readLink (match numAt l 0 1 with | 0 => .byId (linkIdAt l 1) | 1 => .fromSlot (numAt l 1 3) | k => .other k))
  | 14 => some (.guideEvent (guideAt l))
  | 15 => some (.running (numAt l 0 2) (numAt l 2 2) (numAt l 4 1))
  | 16 => some (.holdLive (numAt l 0 2) (numAt l 2 2) (numAt l 4 1))
  | 17 => some .releaseLive
  | 18 => some (.powerBudget (numAt l 0 1))
  | 19 => some (.readDirective (numAt l 0 1))
  | 20 => some (.tunerReport (numAt l 0 1) (numAt l 1 2) (numAt l 3 1))
  | 21 => some (.resolve (numAt l 0 1) (optIdAt l 1) (numAt l 5 1))
  | 22 => some .fetchNotice
  | 23 => some (.readPeer (numAt l 0 1))
  | 24 => some (.readStation (numAt l 0 1))
  | _ => none

/-- The request that the bytes of a transaction spell (R183): none when they fail the form check. Bytes after the record
are ignored. -/
def readRequest (l : List Byte) : Option Instr :=
  if formFails l then none else requestOf (l.getD 0 0).toNat ((l.drop 2).take (l.getD 1 0).toNat)

/-! ## The transaction -/

/-- A record that passes the check is handed to its owning block (R183): the requests by their meanings. No other command
comes from a record. -/
def takeRequest (i : Instr) (s : State) : Result :=
  match i with
  | .configure c => execConfigure c s
  | .join => execJoin s
  | .leave => execLeave s
  | .restart => execRestart s
  | .setClock t => execSetClock t s
  | .book f => execBook f s
  | .amend h x f => execAmend h x f s
  | .cancel h x => execCancel h x s
  | .readBooking h x => execReadBooking h x s
  | .nextBooking x f => execNextBooking x f s
  | .link f => execLink f s
  | .unlink i => execUnlink i s
  | .readLink k => execReadLink k s
  | .guideEvent f => execGuideEvent f s
  | .running v e x => execRunning v e x s
  | .holdLive m v f => execHoldLive m v f s
  | .releaseLive => execReleaseLive s
  | .powerBudget n => execPowerBudget n s
  | .readDirective n => execReadDirective n s
  | .tunerReport n k x => execTunerReport n k x s
  | .resolve h x d => execResolve h x d s
  | .fetchNotice => execFetchNotice s
  | .readPeer n => execReadPeer n s
  | .readStation n => execReadStation n s
  | _ => .next s

/-- A record that fails the form check is answered BAD-FORM (R183). -/
def State.badForm (first : Byte) (s : State) : State :=
  { s with port := { s.port with state := .ready, response := some ⟨first.toNat, .badForm, []⟩ } }

/-- MISO carried the port status and then zeros through a transaction of n bytes that began in a state (R182). -/
def State.clocked (p : Port) (n : Nat) (s : State) : State :=
  { s with port := { s.port with miso := p.status :: List.replicate (n - 1) 0 } }

/-- BAD_FORM_REQUEST (R183): the bytes clocked in before CSN rose. In EXECUTING or READY they are refused BUSY like any
request (R182). Bytes that begin with 0 are a collection, and bytes that pass the check are the request that they spell
(log entry 6). -/
def execBadFormRequest (bytes : List Byte) (s : State) : Result :=
  match bytes with
  | [] => .next s
  | first :: _ =>
    if s.resetLow || first.toNat = 0 then .next s
    else if s.port.state ≠ .idle then .next (s.busy bytes.length)
    else
      match (readRequest bytes).map fun i => takeRequest i s with
      | some (.next t) => .next (t.clocked s.port bytes.length)
      | _ => .next ((s.badForm first).clocked s.port bytes.length)

end Sys2Proof.Machine
end

