-- ==== Sys2Proof/Machine/Dispatch.lean ====
section
/-! DEFINITION. The meaning of every command: one arm for each constructor of `Instr`. -/

namespace Sys2Proof.Machine

/-- What a command does to everything but the queue. -/
def exec (i : Instr) (s : State) : Host.Outcome State Fault Refusal :=
  match i with
  | .coldReset => Sys2Proof.Machine.execColdReset s
  | .configure c => Sys2Proof.Machine.execConfigure c s
  | .join => Sys2Proof.Machine.execJoin s
  | .leave => Sys2Proof.Machine.execLeave s
  | .restart => Sys2Proof.Machine.execRestart s
  | .setClock time => Sys2Proof.Machine.execSetClock time s
  | .book f => Sys2Proof.Machine.execBook f s
  | .amend handle expect f => Sys2Proof.Machine.execAmend handle expect f s
  | .cancel handle expect => Sys2Proof.Machine.execCancel handle expect s
  | .readBooking handle expect => Sys2Proof.Machine.execReadBooking handle expect s
  | .nextBooking start filter => Sys2Proof.Machine.execNextBooking start filter s
  | .link f => Sys2Proof.Machine.execLink f s
  | .unlink id => Sys2Proof.Machine.execUnlink id s
  | .readLink key => Sys2Proof.Machine.execReadLink key s
  | .guideEvent f => Sys2Proof.Machine.execGuideEvent f s
  | .running service event status => Sys2Proof.Machine.execRunning service event status s
  | .holdLive multiplex service force => Sys2Proof.Machine.execHoldLive multiplex service force s
  | .releaseLive => Sys2Proof.Machine.execReleaseLive s
  | .powerBudget tuners => Sys2Proof.Machine.execPowerBudget tuners s
  | .readDirective tuner => Sys2Proof.Machine.execReadDirective tuner s
  | .tunerReport tuner serial status => Sys2Proof.Machine.execTunerReport tuner serial status s
  | .resolve handle expect decision => Sys2Proof.Machine.execResolve handle expect decision s
  | .fetchNotice => Sys2Proof.Machine.execFetchNotice s
  | .readPeer station => Sys2Proof.Machine.execReadPeer station s
  | .readStation part => Sys2Proof.Machine.execReadStation part s
  | .badFormRequest bytes => Sys2Proof.Machine.execBadFormRequest bytes s
  | .busyRequest first => Sys2Proof.Machine.execBusyRequest first s
  | .collection clocked => Sys2Proof.Machine.execCollection clocked s
  | .prepare handle => Sys2Proof.Machine.execPrepare handle s
  | .start handle => Sys2Proof.Machine.execStart handle s
  | .grace handle => Sys2Proof.Machine.execGrace handle s
  | .stop handle => Sys2Proof.Machine.execStop handle s
  | .overrun handle => Sys2Proof.Machine.execOverrun handle s
  | .epochDayChange => Sys2Proof.Machine.execEpochDayChange s
  | .tuneTimerExpiry tuner => Sys2Proof.Machine.execTuneTimerExpiry tuner s
  | .recheckTimerExpiry tuner => Sys2Proof.Machine.execRecheckTimerExpiry tuner s
  | .rollTimerExpiry => Sys2Proof.Machine.execRollTimerExpiry s
  | .joinTimerExpiry => Sys2Proof.Machine.execJoinTimerExpiry s
  | .leaveTimerExpiry => Sys2Proof.Machine.execLeaveTimerExpiry s
  | .intervalDeadlineExpiry station => Sys2Proof.Machine.execIntervalDeadlineExpiry station s
  | .seekReadyTime handle => Sys2Proof.Machine.execSeekReadyTime handle s
  | .bidWindowEnd => Sys2Proof.Machine.execBidWindowEnd s
  | .takeTimerExpiry => Sys2Proof.Machine.execTakeTimerExpiry s
  | .queuedBidRemoved id => Sys2Proof.Machine.execQueuedBidRemoved id s
  | .holdExpiry id => Sys2Proof.Machine.execHoldExpiry id s
  | .lapsedRecordDiscard id => Sys2Proof.Machine.execLapsedRecordDiscard id s
  | .marksHeardExpiry series episode station => Sys2Proof.Machine.execMarksHeardExpiry series episode station s
  | .confirmDeadlineExpiry handle => Sys2Proof.Machine.execConfirmDeadlineExpiry handle s
  | .attemptStart => Sys2Proof.Machine.execAttemptStart s
  | .messageSent => Sys2Proof.Machine.execMessageSent s
  | .attemptFailed why => Sys2Proof.Machine.execAttemptFailed why s
  | .badFrameReceived why => Sys2Proof.Machine.execBadFrameReceived why s
  | .rollArrival h f => Sys2Proof.Machine.execRollArrival h f s
  | .seekArrival h f => Sys2Proof.Machine.execSeekArrival h f s
  | .bidArrival h f => Sys2Proof.Machine.execBidArrival h f s
  | .awardArrival h f => Sys2Proof.Machine.execAwardArrival h f s
  | .takeArrival h id number => Sys2Proof.Machine.execTakeArrival h id number s
  | .declineArrival h id number reason => Sys2Proof.Machine.execDeclineArrival h id number reason s
  | .withdrawArrival h id addressee => Sys2Proof.Machine.execWithdrawArrival h id addressee s
  | .returnArrival h f => Sys2Proof.Machine.execReturnArrival h f s
  | .tallyArrival h f => Sys2Proof.Machine.execTallyArrival h f s
  | .markArrival h f => Sys2Proof.Machine.execMarkArrival h f s
  | .resetnHeldLow => Sys2Proof.Machine.execResetnHeldLow s
  | .malformedFrame household cls => Sys2Proof.Machine.execMalformedFrame household cls s

end Sys2Proof.Machine
end

