-- ==== Sys2Proof/Machine/Step.lean ====
section
/-! DEFINITION. One step: the command at the front of the queue, or one period of REFCLK on an empty queue (log entry 1). -/

namespace Sys2Proof.Machine

/-- On an empty queue the block idles for one period of REFCLK, in which nothing but the clock and the quiet of the line
moves; while RESETN is low nothing does (log entries 1 and 7). -/
def State.idle (s : State) : State := if s.resetLow then s else s.passing Base.tick

/-- One step: the command at the front of the queue is carried out on the state with the queue's rest. -/
def step (s : State) : Host.Outcome State Fault Refusal :=
  match s.pending with
  | [] => .next s.idle
  | c :: rest => exec c { s with pending := rest }

/-- The command that a word spells, put at the front of the queue; no row of the table gives bits, so no word spells
one. -/
def State.withFetchWord (s : State) (nbits w : Nat) : State :=
  match decodeTableWord nbits w with
  | none => s
  | some c => { s with pending := c :: s.pending }

end Sys2Proof.Machine
end

