-- ==== Sys2Proof/Safety.lean ====
section
/-! DEFINITION. What stays true of every state: capacities that the spec gives the block's tables, lists and queues (R1,
R22, R32, R43, R44, R45, R64, R74, R112, R118, R132, R137, R149, R160, R168, R172, R178, R185, R195); what an event of the
scheduling blocks leaves as it was; and the words in which the statements speak of a request answered, a request refused,
an event taken, a frame heard and a booking's end reported. -/

namespace Sys2Proof

/-- The request code of a request (R182, table of 10.2); none for a command that is no request. -/
def Instr.code : Instr → Option Nat
  | .configure _ => some 1
  | .join => some 2
  | .leave => some 3
  | .restart => some 4
  | .setClock _ => some 5
  | .book _ => some 6
  | .amend _ _ _ => some 7
  | .cancel _ _ => some 8
  | .readBooking _ _ => some 9
  | .nextBooking _ _ => some 10
  | .link _ => some 11
  | .unlink _ => some 12
  | .readLink _ => some 13
  | .guideEvent _ => some 14
  | .running _ _ _ => some 15
  | .holdLive _ _ _ => some 16
  | .releaseLive => some 17
  | .powerBudget _ => some 18
  | .readDirective _ => some 19
  | .tunerReport _ _ _ => some 20
  | .resolve _ _ _ => some 21
  | .fetchNotice => some 22
  | .readPeer _ => some 23
  | .readStation _ => some 24
  | _ => none

end Sys2Proof

namespace Sys2Proof.Machine

/-- Capacities of the scheduling blocks, the Booking Table in order of handle and the series table in order of slot. The
Trigger List holds at most one entry for each handle, so that it has at most 128; an episode list holds no code twice (R45),
and no link has more left of its count than it was given (R44). -/
structure Sched.Fits (s : Sched) : Prop where
  handles : (s.bookings.map Booking.handle).Pairwise (· < ·)
  handleRange : ∀ b ∈ s.bookings, b.handle < 128
  bookings : s.bookings.length ≤ 128
  hosted : s.hostedInUse ≤ 16
  segs : ∀ b ∈ s.bookings, b.segs.length ≤ 4
  triggers : (s.triggers.map Trigger.handle).Nodup
  triggerRange : ∀ t ∈ s.triggers, t.handle < 128
  slots : (s.links.map Link.slot).Pairwise (· < ·)
  slotRange : ∀ l ∈ s.links, l.slot < 32
  links : s.links.length ≤ 32
  episodes : ∀ l ∈ s.links, l.episodes.length ≤ 48
  episodesOnce : ∀ l ∈ s.links, l.episodes.Nodup
  counts : ∀ l ∈ s.links, ∀ c ∈ l.count, c.remaining ≤ c.initial
  capturesA : s.tuners.a.captures.length ≤ 4
  capturesB : s.tuners.b.captures.length ≤ 4
  budget : s.budget ≤ 2
  txq : s.txq.length ≤ 12
  seekQueue : s.seekQueue.length ≤ 16
  holds : s.holds.length ≤ 4
  lapsed : s.lapsed.length ≤ 4
  tallies : s.tallies.length ≤ 8
  marks : s.marks.length ≤ 64
  notices : s.notices.length ≤ 32

/-- The ranges of the clock, the receive side, the incarnation and the interval histories. -/
structure Base.Fits (v : Base) : Prop where
  clock : v.clock ≤ clockMax
  frac : v.frac < 32768
  window : v.window.length ≤ 16
  goodRun : v.goodRun ≤ 16
  incarnation : v.incarnation ≤ 255
  history : ∀ p ∈ v.peers, p.history.length ≤ v.cfg.window

/-- The invariant: the capacities hold, and no stack has more records than the configured depth limit (R112). -/
structure State.Inv (s : State) : Prop where
  base : s.base.Fits
  sch : s.sch.Fits
  depths : ∀ k, (s.sch.stacked.get k).length ≤ s.base.cfg.depth

/-- The fields of a booking record that no block but the requests and the guide may change (1.2, R13, R51). -/
def Booking.fixed (b : Booking) :
    (Nat × BookingId × BClass × Nat × Nat) × (Option Nat × Option LinkId × Option Nat) ×
      (Nat × Nat × Nat × Nat × Nat) × (Bool × Nat) :=
  ((b.handle, b.id, b.cls, b.service, b.mux), (b.event, b.link, b.episode),
    (b.start, b.finish, b.pre, b.post, b.priority), (b.follow, b.order))

/-- The fields of a link record that are fixed for its life (R43). -/
def Link.fixed (l : Link) : (Nat × LinkId × Nat × Option Nat) × (Nat × Nat × Nat × Bool × Bool) :=
  ((l.slot, l.id, l.series, l.scope), (l.priority, l.pre, l.post, l.follow, l.firstRun))

/-- What an event of the scheduling blocks leaves as it was, and within what it keeps the rest: notices and pending
outcomes only join the tail (R17, R185); the counters, the power budget and the marks heard stay; no record is made, and
each record that is left keeps its fixed fields; an ENDED record keeps all of them and stays in the table while outcomes
are pending (R8, R17); the capacities hold. -/
structure Sched.Evolves (s t : Sched) : Prop where
  notices : s.notices <+: t.notices
  pendingOutcomes : s.pendingOutcomes <+: t.pendingOutcomes
  orderCtr : t.orderCtr = s.orderCtr
  serialCtr : t.serialCtr = s.serialCtr
  linkCtr : t.linkCtr = s.linkCtr
  budget : t.budget = s.budget
  marks : t.marks = s.marks
  links : t.links.map Link.fixed = s.links.map Link.fixed
  bookings : ∀ b ∈ t.bookings, ∃ a ∈ s.bookings, b.fixed = a.fixed
  ended : s.pendingOutcomes ≠ [] → ∀ h b, s.bk h = some b → b.state = .ended → t.bk h = some b
  fits : s.Fits → t.Fits

/-- The booking ids in use are distinct, and no hosted entry names this station as its origin (R4, R190). -/
structure State.Ids (s : State) : Prop where
  distinct : (s.sch.bookings.map Booking.id).Pairwise (· ≠ ·)
  hosted : ∀ b ∈ s.sch.bookings, b.cls = .hosted → b.id.origin ≠ s.base.cfg.station

/-! ## How a command is answered -/

/-- The port takes a request: RESETN is released and the port is IDLE (R182, R195). -/
abbrev State.Takes (s : State) : Prop := s.resetLow = false ∧ s.port.state = .idle

/-- A request is carried out from s and leaves t: its response waits in the port, which is READY, MISO carried the port
status and then zeros, and the queue, RESETN and the counter of free values are as they were (R182 to R184). -/
structure Answered (i : Instr) (s t : State) (code : Code) (result : List Byte) : Prop where
  run : exec i s = .next t
  port : t.port =
    { state := .ready, busy := s.port.busy, response := some ⟨i.code.getD 0, code, result⟩,
      miso := s.port.status :: List.replicate (2 + fieldLength (i.code.getD 0)) 0 }
  resetLow : t.resetLow = s.resetLow
  free : t.free = s.free
  pending : t.pending = s.pending

/-- A request is refused with a code and an empty result, and nothing outside the port changes (R183, R184). -/
def Refused (i : Instr) (s : State) (code : Code) : Prop :=
  ∃ t, Answered i s t code [] ∧ t.base = s.base ∧ t.sch = s.sch

/-- A request is carried out with an OK that changes nothing outside the port. -/
def Told (i : Instr) (s : State) (result : List Byte) : Prop :=
  ∃ t, Answered i s t .ok result ∧ t.base = s.base ∧ t.sch = s.sch

/-- An event that is no request is taken from s and leaves t: the port, the queue, RESETN and the counter of free values
are as they were. -/
structure Happened (i : Instr) (s t : State) : Prop where
  run : exec i s = .next t
  port : t.port = s.port
  resetLow : t.resetLow = s.resetLow
  free : t.free = s.free
  pending : t.pending = s.pending

/-! ## What a booking's end reports -/

/-- The OUTCOME notice of a booking that ends at a time with an outcome and a reason (R16, R18, R41). -/
def Booking.endedNotice (time : Nat) (o : BOutcome × Reason) (b : Booking) : Notice :=
  .outcome b.handle b.id b.cls b.link b.service b.start b.finish o.1 o.2 (closeOpen time b.segs)

/-- A notice that the end of the booking at a handle offered on s stands in t: it has entered the Notice Queue when that
had room and nothing was pending, and else the handle stands in the pending outcomes and its ENDED record, with the
outcome, the reason and the segments that the notice will carry, in the table (R16, R17, R18). -/
def Sched.Reported (s t : Sched) (h : Nat) (n : Notice) : Prop :=
  if s.pendingOutcomes = [] ∧ s.notices.length < 32 then n ∈ t.notices
  else
    h ∈ t.pendingOutcomes ∧
      ∃ c, t.bk h = some c ∧ c.state = .ended ∧ c.plan = .absent ∧ c.outcome.isSome = true ∧ c.outcomeNotice = n

/-- The tally record of a hosted booking that ends at a time with an outcome and a reason has joined the tail of the tally
list, and its TALLY the tail of the transmit queue where it may go at once: its origin is PRESENT, the station JOINED or
LEAVING, and the queue takes it (R172). The TALLY carries the base day tag and the segments in short form, each rounded
outward to whole minutes (R29). -/
def Sched.Tallied (v : Base) (s t : Sched) (time : Nat) (o : BOutcome × Reason) (b : Booking) : Prop :=
  let segs := closeOpen time b.segs
  let rank := 2 + 2 * b.priority
  let day := v.clock / 86400
  let short : Nat → Nat := fun u => if u + 86400 < day * 86400 then 0 else min 65535 ((u + 86400 - day * 86400) / 60)
  let record (offered : Bool) : TallyRec := ⟨b.id, o.1, o.2, rank, segs, offered, s.tallyCtr⟩
  let tally : Msg :=
    .tally ⟨b.id, o.1.code, o.2.code, day % 256,
      segs.map fun g => (short (g.frm / 60 * 60), short ((g.til.getD g.frm + 59) / 60 * 60))⟩ s.tallyCtr
  if v.isPresent b.id.origin = true ∧ (v.station = .joined ∨ v.station = .leaving) ∧ s.txq.length < 12 then
    t.tallies = s.tallies ++ [record true] ∧
      t.txq = s.txq ++ [⟨v.cfg.household, v.cfg.station, rank, tally, none, false⟩]
  else t.tallies = s.tallies ++ [record false] ∧ t.txq = s.txq

/-! ## Bytes and due instants -/

/-- A number in one byte (R183). -/
def field1 (n : Nat) : List Byte := [BitVec.ofNat 8 n]

/-- A number in two bytes, most significant first (R183). -/
def field2 (n : Nat) : List Byte := [BitVec.ofNat 8 (n / 256), BitVec.ofNat 8 n]

/-- A number in four bytes, most significant first (R183). -/
def field4 (n : Nat) : List Byte :=
  [BitVec.ofNat 8 (n / 16777216), BitVec.ofNat 8 (n / 65536), BitVec.ofNat 8 (n / 256), BitVec.ofNat 8 n]

/-- The due instant of a timed event of bookings, tuners, engine and holds: of a trigger, while one of its kind is armed
for the handle (R32); of a timer, while it runs (R70, R72, R161, R163, R164, R168, R175); none otherwise. -/
def Instr.due (s : State) (i : Instr) : Option Nat :=
  let armed (h : Nat) (k : TrigKind) : Option Nat :=
    (s.sch.trigger h).bind fun x => if x.kind = k then some (x.time * 4096000) else none
  match i with
  | .prepare h => armed h .prepare
  | .start h => armed h .start
  | .grace h => armed h .grace
  | .stop h => armed h .stop
  | .overrun h => armed h .overrun
  | .tuneTimerExpiry n =>
    let r := if n = 0 then s.sch.tuners.a else s.sch.tuners.b
    if n ≤ 1 ∧ (r.state = .tuning ∨ r.state = .unknown) then
      r.tuneTimer.bind fun p => if p.2 = r.directive.serial then some p.1 else none
    else none
  | .recheckTimerExpiry n =>
    let r := if n = 0 then s.sch.tuners.a else s.sch.tuners.b
    if n ≤ 1 ∧ r.state = .failed then r.recheck else none
  | .seekReadyTime h => (s.sch.seekQueue.find? fun q => q.handle == h).bind (·.ready)
  | .bidWindowEnd => match s.sch.engine with | .collecting _ w _ => w | _ => none
  | .takeTimerExpiry => match s.sch.engine with | .awaiting _ _ w _ => w | _ => none
  | .confirmDeadlineExpiry h => (s.sch.bk h).bind (·.confirm)
  | .holdExpiry j => (s.sch.holds.find? fun x => x.id == j).map (·.expiry)
  | .lapsedRecordDiscard j =>
    (s.sch.lapsed.find? fun x => x.id == j).map fun x => (x.details.spanStart - s.base.cfg.tuneLead) * 4096000
  | _ => none

/-! ## Conditions under which a statement gives a command's whole effect -/

/-- Nothing waits to be placed or resumed, and the seek is idle. -/
abbrev Sched.AtRest (s : Sched) : Prop :=
  s.unplaced = [] ∧ s.stacked = ⟨[], []⟩ ∧ s.seekQueue = [] ∧ s.engine = .idle

/-- Nothing is planned, suspended or unplaced. -/
abbrev Sched.Bare (s : Sched) : Prop := s.plans = ⟨[], []⟩ ∧ s.stacked = ⟨[], []⟩ ∧ s.unplaced = []

/-- The directives in force say what stands, so that no directive is due (R65). -/
abbrev Sched.Settled (s : Sched) : Prop := s.directiveStale .A = false ∧ s.directiveStale .B = false

/-- The Notice Queue takes n more notices (R185). -/
abbrev Sched.Room (s : Sched) (n : Nat) : Prop := s.notices.length + n ≤ 32 ∧ s.pendingOutcomes = []

/-- A frame with a head reaches a station that weighs messages: it is of the station's household and of another station,
the station is JOINED, has no attempt of its own in progress, and its RX-FAULT flag is clear (R136). -/
abbrev State.Hears (s : State) (h : FrameHead) : Prop :=
  s.resetLow = false ∧ h.household = s.base.cfg.household ∧ h.sender ≠ s.base.cfg.station ∧ s.base.station = .joined ∧
  s.sch.attempt = none ∧ s.base.rxFault = false

/-- The base after a good frame has been counted (R137); the frame has ended the quiet of the line (R125). -/
def Base.heard (v : Base) : Base := { v with idleBits := 0 }.countFrame true

end Sys2Proof.Machine
end

