-- ==== Sys2Proof/WellFormed.lean ====
section
/-! DEFINITION. Which commands can be sent at all: every operand fits the width that its record or frame gives it (R183,
R126, R129), and the port events are those that R182 and R184 call so. A value that fits its width and lies outside its
RANGE is well-formed: the part refuses it (R183) or discards it (R136). -/

namespace Sys2Proof

/-- n fits in w bytes. -/
def fits (w n : Nat) : Bool := n < 256 ^ w

/-- An optional field: its value, when present, fits in w bytes. -/
def fitsOpt (w : Nat) (n : Option Nat) : Bool := n.all (fits w)

/-- A booking id or link id takes 3 bytes: origin 1, serial 2 (R183). -/
def BookingId.fits (i : BookingId) : Bool := Sys2Proof.fits 1 i.origin && Sys2Proof.fits 2 i.serial

/-- A link id takes 3 bytes (R183). -/
def LinkId.fits (i : LinkId) : Bool := Sys2Proof.fits 1 i.origin && Sys2Proof.fits 2 i.serial

/-- The widths of R190's table. -/
def ConfigFields.wellFormed (c : ConfigFields) : Bool :=
  fits 1 c.station && fits 2 c.household && fits 1 c.fitted && fits 1 c.rollPeriod && fits 1 c.window &&
  fits 1 c.debounce && fits 1 c.skew && c.clash.length == 16 && c.clash.all (fits 1) && fits 1 c.livePolicy &&
  fits 1 c.depth && fits 2 c.bidWindow && fits 2 c.takeTimeout && fits 1 c.seekLimit && fits 1 c.tuneLead &&
  fits 1 c.tuneTimeout && fits 2 c.recheck && fits 1 c.grace && fits 1 c.overrun

/-- The widths of BOOK's fields (R9, R183). -/
def BookFields.wellFormed (f : BookFields) : Bool :=
  fits 2 f.service && fits 2 f.multiplex && fitsOpt 2 f.event && fits 4 f.start && fits 4 f.finish &&
  fits 1 f.pre && fits 1 f.post && fits 1 f.priority && fits 1 f.follow

/-- The widths of AMEND's fields (R12, R183). -/
def AmendFields.wellFormed (f : AmendFields) : Bool :=
  fitsOpt 1 f.priority && fitsOpt 1 f.pre && fitsOpt 1 f.post && fitsOpt 1 f.follow && fitsOpt 4 f.start &&
  fitsOpt 4 f.finish

/-- The widths of LINK's fields (R46, R183). A count takes 1 byte. -/
def LinkFields.wellFormed (f : LinkFields) : Bool :=
  fits 4 f.series &&
  (match f.scope with | .any => true | .service n => fits 2 n | .other n => 2 ≤ n && fits 1 n) &&
  fits 1 f.priority && fits 1 f.pre && fits 1 f.post && fits 1 f.follow && fits 1 f.firstRun &&
  (match f.count with | .unbounded => true | .number n => fits 1 n | .other n => 2 ≤ n && fits 1 n)

/-- The widths of GUIDE-EVENT's fields (R50, R183). A duration in minutes takes 2 bytes. -/
def GuideFields.wellFormed (f : GuideFields) : Bool :=
  fits 2 f.service && fits 2 f.multiplex && fits 2 f.event && fits 4 f.start && fits 2 f.duration &&
  fitsOpt 4 f.series && fitsOpt 4 f.episode && fits 1 f.repeated

/-- The widths of the envelope: 16 bits of household, 5 of rank, and a sender 1..8 (R126). -/
def FrameHead.wellFormed (h : FrameHead) : Bool :=
  fits 2 h.household && h.rank < 32 && 1 ≤ h.sender && h.sender ≤ 8

/-- The widths of ROLL's payload, which is 17 or 23 bytes (R129). -/
def RollFields.wellFormed (f : RollFields) : Bool :=
  fits 1 f.incarnation && fits 1 f.sequence && fits 1 f.flags && fits 1 f.period && fits 4 f.clock && fits 2 f.day &&
  fits 1 f.usable && (f.tuners.length == 1 || f.tuners.length == 2) &&
  f.tuners.all fun t => t.state < 128 && fitsOpt 2 t.mux && fits 2 t.busy && fits 1 t.top

/-- The widths of SEEK's payload (R129). -/
def SeekFields.wellFormed (f : SeekFields) : Bool :=
  fits 1 f.tag && f.id.fits && fits 1 f.number && fits 2 f.service && fits 2 f.multiplex && fits 2 f.event &&
  fits 2 f.spanStart && fits 2 f.spanEnd && fits 1 f.pre && fits 1 f.post && fits 1 f.rank && fits 1 f.flags &&
  fits 2 f.window

/-- The widths of a list of segments (R129). -/
def segmentsWellFormed (most : Nat) (l : List (Nat × Nat)) : Bool :=
  l.length ≤ most && l.all fun p => fits 2 p.1 && fits 2 p.2

/-- Which commands can be sent. -/
def Instr.wellFormed : Instr → Bool
  | .coldReset | .join | .leave | .restart | .releaseLive | .fetchNotice | .epochDayChange => true
  | .configure c => c.wellFormed
  | .setClock t => fits 4 t
  | .book f => f.wellFormed
  | .amend h x f => fits 1 h && x.all BookingId.fits && f.wellFormed
  | .cancel h x | .readBooking h x => fits 1 h && x.all BookingId.fits
  | .nextBooking x f => x.all (fun x => fits 1 x.handle && x.expect.all BookingId.fits) && fits 1 f
  | .link f => f.wellFormed
  | .unlink i => i.fits
  | .readLink (.byId i) => i.fits
  | .readLink (.fromSlot n) => fits 3 n
  | .readLink (.other n) => 2 ≤ n && fits 1 n
  | .guideEvent f => f.wellFormed
  | .running s e x => fits 2 s && fits 2 e && fits 1 x
  | .holdLive m s f => fits 2 m && fits 2 s && fits 1 f
  | .powerBudget n | .readDirective n | .readPeer n | .readStation n => fits 1 n
  | .tunerReport t n x => fits 1 t && fits 2 n && fits 1 x
  | .resolve h x d => fits 1 h && x.all BookingId.fits && fits 1 d
  | .badFormRequest b => match b with | [] => false | c :: _ => c != 0
  | .busyRequest b => b != 0
  | .collection _ => true
  | .prepare h | .start h | .grace h | .stop h | .overrun h | .seekReadyTime h | .confirmDeadlineExpiry h => h < 128
  | .tuneTimerExpiry t | .recheckTimerExpiry t => t < 2
  | .rollTimerExpiry | .joinTimerExpiry | .leaveTimerExpiry | .bidWindowEnd | .takeTimerExpiry => true
  | .intervalDeadlineExpiry p => 1 ≤ p && p ≤ 8
  | .queuedBidRemoved i | .holdExpiry i | .lapsedRecordDiscard i => i.fits
  | .marksHeardExpiry a b p => fits 4 a && fits 4 b && 1 ≤ p && p ≤ 8
  | .attemptStart | .messageSent | .attemptFailed _ | .badFrameReceived _ | .resetnHeldLow => true
  | .rollArrival h f => h.wellFormed && f.wellFormed
  | .seekArrival h f => h.wellFormed && f.wellFormed
  | .bidArrival h f => h.wellFormed && f.id.fits && fits 1 f.number && fits 1 f.cost && fits 1 f.tuner && fits 1 f.displaced
  | .awardArrival h f => h.wellFormed && f.id.fits && fits 1 f.number && fits 1 f.awardee && fits 1 f.tuner
  | .takeArrival h i n => h.wellFormed && i.fits && fits 1 n
  | .declineArrival h i n r => h.wellFormed && i.fits && fits 1 n && fits 1 r
  | .withdrawArrival h i a => h.wellFormed && i.fits && fits 1 a
  | .returnArrival h f => h.wellFormed && f.id.fits && fits 1 f.reason && fits 1 f.tag && segmentsWellFormed 2 f.segments
  | .tallyArrival h f =>
    h.wellFormed && f.id.fits && fits 1 f.outcome && fits 1 f.reason && fits 1 f.tag && segmentsWellFormed 4 f.segments
  | .markArrival h f =>
    h.wellFormed && fits 1 f.tag && fits 4 f.series && fits 4 f.episode && fits 1 f.rank && fits 1 f.started && fits 2 f.start
  | .malformedFrame hh c => fits 2 hh && c < 16

end Sys2Proof
end

