-- ==== Sys2Proof/Certificates/Slice0/Obligations.lean ====
section
/-! DEFINITION. The statements about the model. Each docstring says what its statement states, with the rules it rests on or the
log entries whose choices it speaks of. -/

open Sys2Proof Sys2Proof.Machine

/-! ## The machine -/

/-- A step carries out the command at the front of the queue, on the state with the queue's rest. -/
def Obligations.StepTakesTheFront : Prop :=
  ∀ (c : Instr) (rest : List Instr) (s : State), s.pending = c :: rest → step s = exec c { s with pending := rest }

/-- The model's choice (log entries 1, 7, 18, 21): on an empty queue a step counts one period of REFCLK. 32,768 of them
make a second (R22), the count stops at its greatest value, and the line is read recessive for three more bit times, but
for none while an attempt of this station stands (R125). While RESETN is low nothing counts. EPOCH_DAY_CHANGE (the model's
choice, log entry 2: the command lets time pass up to its instant): the clock counts on to the first second of the next
epoch day, so that the epoch day is one more and the base day tag one more modulo 256, and the scheduling blocks are as
they were. -/
def Obligations.TheClockCounts : Prop :=
  (∀ s : State, s.pending = [] → s.base.frac < 32768 →
    if s.resetLow then step s = .next s
    else
      ∃ v, step s = .next { s with base := v } ∧
        v = { s.base with
              clock := v.clock, frac := v.frac
              idleBits := if s.sch.attempt = none then min 10 (s.base.idleBits + 3) else s.base.idleBits } ∧
        (s.base.frac + 1 < 32768 → v.clock = s.base.clock ∧ v.frac = s.base.frac + 1) ∧
        (s.base.frac + 1 = 32768 → s.base.clock < 4294967295 → v.clock = s.base.clock + 1 ∧ v.frac = 0) ∧
        (s.base.frac + 1 = 32768 → 4294967295 ≤ s.base.clock → v.clock = s.base.clock ∧ v.frac = s.base.frac)) ∧
  (∀ s : State, s.resetLow = false → s.base.frac < 32768 → (s.base.clock / 86400 + 1) * 86400 ≤ 4294967295 →
    ∃ t, Happened .epochDayChange s t ∧ t.sch = s.sch ∧ t.base.clock = (s.base.clock / 86400 + 1) * 86400 ∧
      t.base.frac = 0 ∧ t.base.day = s.base.day + 1 ∧ t.base.tag = (s.base.tag + 1) % 256 ∧
      t.base = { s.base with clock := t.base.clock, frac := t.base.frac, idleBits := t.base.idleBits })

/-- Whatever the command and whatever the state, the block goes on: it answers a next state, with the waiting commands as
they were. -/
def Obligations.EveryCommandAnswersNext : Prop :=
  ∀ (c : Instr) (s : State), ∃ t, exec c s = .next t ∧ t.pending = s.pending

/-- COLD_RESET leaves the state right after reset, whatever the state, but for the queue and the counter of free values
(R195). RESETN held low stops the station's drive of the link, leaves ATTN high and MISO undriven, and keeps the rest. The
model's choice (log entry 7): while RESETN is held low no command but the two resets has an effect. -/
def Obligations.Resets : Prop :=
  (∀ s : State,
    exec .coldReset s = .next { State.reset with free := s.free, pending := s.pending } ∧
    ∃ t, exec .resetnHeldLow s = .next t ∧
      t = { s with resetLow := true, sch := { s.sch with attempt := none }, port := { s.port with miso := [] } } ∧
      t.attnLow = false ∧ t.transmitting = false) ∧
  (∀ (c : Instr) (s : State), s.resetLow = true → c ≠ .coldReset → c ≠ .resetnHeldLow → exec c s = .next s)

/-- What the spec gives for the state right after RESETN is released: every block at its cold-reset value, the line taken
as busy until ten recessive bit times have been read (R125), the entries of the clash policy vector REFER (true) for
incumbents of class MANUAL and AUTO for the others (R21, R22, R42, R61, R85, R108, R122, R140, R158,
R181, R184, R185, R190, R195). -/
def Obligations.ResetState : Prop :=
  let s := State.reset
  (s.base.clock = 0 ∧ s.base.timed = false ∧ s.base.station = .detached ∧ s.base.incarnation = 0) ∧
  (s.base.cfg.station = 1 ∧ s.base.cfg.household = 0 ∧ s.base.cfg.fitted = 2 ∧ s.base.cfg.rollPeriod = 5 ∧
    s.base.cfg.window = 8 ∧ s.base.cfg.debounce = true ∧ s.base.cfg.skew = 10 ∧ s.base.cfg.liveRefer = true ∧
    s.base.cfg.depth = 2 ∧ s.base.cfg.bidWindow = 1000 ∧ s.base.cfg.takeTimeout = 2000 ∧ s.base.cfg.seekLimit = 3 ∧
    s.base.cfg.tuneLead = 30 ∧ s.base.cfg.tuneTimeout = 8 ∧ s.base.cfg.recheck = 120 ∧ s.base.cfg.grace = 15 ∧
    s.base.cfg.overrun = 60 ∧ s.base.cfg.clash = List.replicate 4 true ++ List.replicate 12 false) ∧
  (s.base.joinTimer = none ∧ s.base.leaveTimer = none ∧ s.base.rollTimer = none) ∧
  (s.base.window = [] ∧ s.base.goodRun = 0 ∧ s.base.rxFault = false ∧ s.base.lastSent = 255 ∧ s.base.idleBits = 0) ∧
  (s.base.peers.map Peer.station = [2, 3, 4, 5, 6, 7, 8] ∧
    ∀ p ∈ s.base.peers, p.presence = .absent ∧ p.incarnation = none ∧ p.deadline = none) ∧
  (s.sch.bookings = [] ∧ s.sch.pendingOutcomes = [] ∧ s.sch.orderCtr = 1 ∧ s.sch.serialCtr = 1 ∧ s.sch.triggers = [] ∧
    s.sch.links = [] ∧ s.sch.linkCtr = 1) ∧
  (∀ t, (s.sch.tuners.get t).state = .idle ∧ (s.sch.tuners.get t).captures = [] ∧ (s.sch.tuners.get t).live = none ∧
    (s.sch.tuners.get t).directive = ⟨0, none, none, []⟩ ∧ (s.sch.tuners.get t).unread = false ∧
    (s.sch.tuners.get t).tuneTimer = none ∧ (s.sch.tuners.get t).recheck = none ∧ s.sch.usable t = true) ∧
  (s.sch.budget = 2 ∧ s.sch.plans = ⟨[], []⟩ ∧ s.sch.unplaced = [] ∧ s.sch.referrals = [] ∧ s.sch.stacked = ⟨[], []⟩) ∧
  (s.sch.txq = [] ∧ s.sch.waitingRoll = none ∧ s.sch.attempt = none ∧ s.sch.seekQueue = [] ∧ s.sch.engine = .idle ∧ s.sch.holds = [] ∧
    s.sch.lapsed = [] ∧ s.sch.tallies = [] ∧ s.sch.marks = [] ∧ s.sch.notices = [] ∧ s.sch.overflow = false) ∧
  (s.port.state = .idle ∧ s.port.busy = false ∧ s.port.response = none ∧ s.attnLow = false ∧ s.transmitting = false)

/-- The invariants hold right after reset. -/
def Obligations.InvariantsAtReset : Prop :=
  State.reset.Inv ∧ State.reset.Ids

/-- Every step keeps these capacities: 128 bookings in order of handle, 16 of them HOSTED, 4 segments a booking; one trigger
a handle, so 128; 32 links in order of slot, 48 episodes a link, none twice (R45), and no more left of a link's count than
it was given (R44); on a stack as many records as the configured depth limit (R112); 4 captures a tuner; a budget of 2; 12
messages in the transmit queue; 16 bookings in the seek queue; 4 holds and 4 lapsed records; 8 tally records; 64 marks
heard; 32 notices; 16 results in the receive-fault window and in its count of good ones; the interval histories of the
configured length; the ranges of the clock and of the incarnation. -/
def Obligations.EveryStepKeepsTheCapacities : Prop :=
  ∀ s t : State, s.Inv → step s = .next t → t.Inv

/-- Every step keeps the booking ids in use distinct, and hosted entries those of other stations. -/
def Obligations.EveryStepKeepsBookingIdsDistinct : Prop :=
  ∀ s t : State, s.Inv → s.Ids → step s = .next t → t.Ids

/-! ## The box port -/

/-- A request transaction that finds a request held, whether it is a request of the table, a badly formed one or any other
by its first byte, sets the busy mark and changes nothing else; MISO carries the port status and then zeros. The model's
choice (log entry 6): a request transaction named as one that finds the port held does nothing in IDLE, and neither does
one whose first byte is 0, which is a collection. -/
def Obligations.RequestWhileHeldIsRefusedBusy : Prop :=
  (∀ (i : Instr) (s : State), s.resetLow = false → s.port.state ≠ .idle →
    (i.code.isSome ∨ (∃ c rest, i = .badFormRequest (c :: rest) ∧ c ≠ 0) ∨ ∃ c, i = .busyRequest c ∧ c ≠ 0) →
    ∃ n, exec i s = .next
      { s with port := { s.port with busy := true, miso := s.port.status :: List.replicate n 0 } } ∧
    s.port.status = BitVec.ofNat 8
      ((match s.port.state with | .idle => 0 | .executing => 1 | .ready => 2) + if s.port.busy then 8 else 0)) ∧
  (∀ (c : Byte) (s : State), s.port.state = .idle ∨ c = 0 → exec (.busyRequest c) s = .next s)

/-- Every request taken is answered: the port goes READY with one response. One that is not answered OK changes nothing
outside the port, and its result is empty but for CONFLICT. -/
def Obligations.EveryRequestTakenIsAnswered : Prop :=
  ∀ (i : Instr) (s : State), i.code.isSome → s.Takes →
    ∃ t code result, Answered i s t code result ∧
      (code ≠ .ok → t.base = s.base ∧ t.sch = s.sch ∧ (code = .conflict ∨ result = []))

/-- A record that fails the form check is answered BAD-FORM with the first byte received as its request code, and changes
nothing outside the port. It fails when it is cut short, when its code is above 24, when its length is not that of the
request's fields, when a presence byte is neither 0 nor 1, or when the CRC does not match. A record that carries a
request of the table, its fields in the order and the widths of its owning rule, each optional field after a presence
byte and each alternative after its selector, is that request, whatever bytes follow it (the model's choice, log entry 6,
is only that the command that names bad bytes may carry good ones): it leaves what the request leaves, MISO having carried
the port status and zeros for every byte clocked. -/
def Obligations.BadFormIsAnswered : Prop :=
  (∀ (i : Instr) (n : Nat) (extra : List Byte) (s : State), s.Takes → i.wellFormed = true → i.code = some n →
    let l := requestRecord n (Instr.fieldBytes i)
    l.length = 3 + fieldLength n ∧
    ∃ t, exec i s = .next t ∧ exec (.badFormRequest (l ++ extra)) s = .next
      { t with port := { t.port with
          miso := s.port.status :: List.replicate (2 + fieldLength n + extra.length) 0 } }) ∧
  ∀ (c : Byte) (rest : List Byte) (s : State), s.Takes → c ≠ 0 →
    (match rest with
      | [] => True
      | len :: l =>
        24 < c.toNat ∨ 64 < len.toNat ∨ len.toNat ≠ fieldLength c.toNat ∨ l.length < len.toNat + 1 ∨
        (∃ k ∈ presenceAt c.toNat, 1 < (l.getD k 0).toNat) ∨
        l.getD len.toNat 0 ≠ crc8 (c :: len :: l.take len.toNat)) →
    exec (.badFormRequest (c :: rest)) s = .next
      { s with
        port :=
          { state := .ready, busy := s.port.busy, response := some ⟨c.toNat, .badForm, []⟩,
            miso := s.port.status :: List.replicate rest.length 0 } }

/-- A collection clocks out the port status and then, in READY, the response record: request code, refusal code, result
length, result, CRC. One that reaches the CRC byte leaves the port IDLE with the busy mark clear; one cut short leaves the
response in place. In IDLE and EXECUTING zeros follow. What MISO carries past the record is left open (log entry 17): the
statement holds for every value of it. That a result longer than 255 bytes is sent whole, its length modulo 256 before it,
is the model's choice (log entry 41). -/
def Obligations.CollectionClocksOutTheResponse : Prop :=
  ∀ (n : Nat) (s : State), s.resetLow = false →
    (s.port.state ≠ .ready → exec (.collection (n + 1)) s = .next
      { s with port := { s.port with miso := s.port.status :: List.replicate n 0 } }) ∧
    ∀ r, s.port.state = .ready → s.port.response = some r →
      r.record =
        (let l := [BitVec.ofNat 8 r.request, BitVec.ofNat 8 r.code.code, BitVec.ofNat 8 r.result.length] ++ r.result
         l ++ [crc8 l]) ∧
      (n < r.record.length → exec (.collection (n + 1)) s = .next
        { s with port := { s.port with miso := s.port.status :: r.record.take n } }) ∧
      (r.record.length ≤ n → ∃ t tail, exec (.collection (n + 1)) s = .next t ∧
        t.port =
          { state := .idle, busy := false, response := none,
            miso := s.port.status :: (r.record ++ tail) } ∧
        tail.length = n - r.record.length ∧ t.base = s.base ∧ t.sch = s.sch ∧ t.resetLow = s.resetLow ∧
        t.pending = s.pending)

/-- FETCH_NOTICE removes the oldest notice and returns it with the overflow marker as it stood and the number left; the
marker is then clear. The oldest pending outcome takes the room that a full queue gets, and its entry is freed (R17, R186).
That the byte of the overflow marker is 1 for set and 0 for clear is the model's choice (log entry 19). The attention line
is driven low exactly while a notice waits or the unread mark of a fitted tuner is set (R187), and is left high while RESETN
is low. -/
def Obligations.FetchNoticeAndTheAttentionLine : Prop :=
  (∀ s : State, s.Takes →
    (s.sch.notices = [] → Refused .fetchNotice s .noSuch) ∧
    ∀ n rest, s.sch.notices = n :: rest → rest.length < 32 →
      (s.sch.pendingOutcomes = [] → ∃ t, Answered .fetchNotice s t .ok
          (BitVec.ofNat 8 n.kind :: n.fields ++ [BitVec.ofNat 8 s.sch.overflow.toNat, BitVec.ofNat 8 rest.length]) ∧
        t.base = s.base ∧ t.sch = { s.sch with notices := rest, overflow := false }) ∧
      ∀ h hs b, s.sch.pendingOutcomes = h :: hs → s.sch.bk h = some b → ∃ t, Answered .fetchNotice s t .ok
          (BitVec.ofNat 8 n.kind :: n.fields ++ [BitVec.ofNat 8 s.sch.overflow.toNat, BitVec.ofNat 8 (rest.length + 1)]) ∧
        t.base = s.base ∧
        t.sch =
          { s.sch with
            notices := rest ++ [b.outcomeNotice], overflow := false, pendingOutcomes := hs
            bookings := s.sch.bookings.filter fun c => c.handle != h }) ∧
  (∀ s : State, s.base.cfg.fitted = 1 ∨ s.base.cfg.fitted = 2 →
    (s.attnLow = true ↔ s.resetLow = false ∧
      (s.sch.notices ≠ [] ∨ s.sch.tuners.a.unread = true ∨ (s.base.cfg.fitted = 2 ∧ s.sch.tuners.b.unread = true))))

/-! ## Requests that read -/

/-- AMEND, CANCEL, READ_BOOKING and RESOLVE name an entry by handle, and perhaps by its booking id: a handle above 127 is
refused BAD-VALUE, and one that is not in use, or whose entry has another booking id, NO-SUCH. READ_BOOKING returns the 87
bytes of the record by the layout of R19, most significant byte first, and changes nothing; a field that is absent reads 0,
or 255 for the running field, the outcome, the reason and the tuner of a segment recorded elsewhere, and the segments that
are missing read 0. The confirm deadline is in whole seconds, a begun one counted (the model's choice, log entry 19).
NEXT_BOOKING returns the lowest handle in use above the starting handle, or from 0 on, whose class the filter admits, with
its booking id, class and state; it is refused NO-SUCH when there is none, or when the entry at the starting handle is not
in use with the booking id that the request expects of it (R2; that the expected id stands with the starting handle alone
is log entry 36's), and BAD-VALUE for a handle above 127 or a filter outside the three, before that. The table lists its
entries by handle. -/
def Obligations.ReadingABooking : Prop :=
  (∀ (h : Nat) (x : Option BookingId) (i : Instr) (s : State), s.Takes →
    ((∃ f, i = .amend h x f) ∨ i = .cancel h x ∨ i = .readBooking h x ∨ ∃ d, i = .resolve h x d) →
    (127 < h → Refused i s .badValue) ∧
    (h ≤ 127 → (∀ b ∈ s.sch.bookings, b.handle ≠ h) → Refused i s .noSuch) ∧
    (h ≤ 127 → ∀ b, s.sch.bk h = some b → (∃ j, x = some j ∧ j ≠ b.id) → Refused i s .noSuch)) ∧
  (∀ (h : Nat) (x : Option BookingId) (b : Booking) (s : State), s.Takes → h ≤ 127 → s.sch.bk h = some b →
    x = none ∨ x = some b.id → b.segs.length ≤ 4 →
    let segment (g : Segment) : List Byte :=
      field1 g.station ++ field1 ((g.tuner.map fun k => if k = .A then 0 else 1).getD 255) ++ field4 g.frm ++
      field4 (g.til.getD 0)
    let plan : List Byte :=
      match b.plan with
      | .absent => [0, 0]
      | .tuner k => [1, if k = .A then 0 else 1]
      | .lent n => 2 :: field1 n
      | .covered n => 3 :: field1 n
    let record :=
      field1 b.handle ++ field1 b.cls.code ++ field1 b.state.code ++
      field1 (b.event.isSome.toNat + 2 * b.link.isSome.toNat + 4 * b.episode.isSome.toNat + 8 * b.follow.toNat +
        16 * b.peerLost.toNat + 32 * b.confirm.isSome.toNat + 64 * b.outcome.isSome.toNat) ++
      field1 b.id.origin ++ field2 b.id.serial ++ field2 b.service ++ field2 b.mux ++ field2 (b.event.getD 0) ++
      field1 ((b.link.map (·.origin)).getD 0) ++ field2 ((b.link.map (·.serial)).getD 0) ++ field4 (b.episode.getD 0) ++
      field4 b.start ++ field4 b.finish ++ field1 b.pre ++ field1 b.post ++ field1 b.priority ++
      field1 ((b.running.map Running.code).getD 255) ++ plan ++ field4 b.order ++ field1 b.attempts ++
      field1 ((b.outcome.map fun o => o.1.code).getD 255) ++ field1 ((b.outcome.map fun o => o.2.code).getD 255) ++
      field4 ((b.confirm.map fun u => (u + 4095999) / 4096000).getD 0) ++ field1 b.segs.length ++
      b.segs.flatMap segment ++ List.replicate (40 - 10 * b.segs.length) 0 ++ field1 b.rank
    record.length = 87 ∧ Told (.readBooking h x) s record) ∧
  (∀ (start : Option StartAt) (filter : Nat) (s : State), s.Takes →
    (s.sch.bookings.map Booking.handle).Pairwise (· < ·) →
    let admits : Booking → Prop := fun b =>
      (∀ x ∈ start, x.handle < b.handle) ∧
        (filter = 0 ∨ (filter = 1 ∧ b.cls ≠ .hosted) ∨ (filter = 2 ∧ b.cls = .hosted))
    let asExpected : Prop := ∀ x ∈ start, ∀ j ∈ x.expect, ∃ b ∈ s.sch.bookings, b.handle = x.handle ∧ b.id = j
    ((∃ x ∈ start, 127 < x.handle) ∨ 2 < filter → Refused (.nextBooking start filter) s .badValue) ∧
    ((∀ x ∈ start, x.handle ≤ 127) → filter ≤ 2 →
      (¬asExpected ∨ (∀ b ∈ s.sch.bookings, ¬admits b) → Refused (.nextBooking start filter) s .noSuch) ∧
      (asExpected → ∀ b ∈ s.sch.bookings, admits b → (∀ c ∈ s.sch.bookings, admits c → b.handle ≤ c.handle) →
        Told (.nextBooking start filter) s
          [BitVec.ofNat 8 b.handle, BitVec.ofNat 8 b.id.origin, BitVec.ofNat 8 (b.id.serial / 256),
            BitVec.ofNat 8 b.id.serial, BitVec.ofNat 8 b.cls.code, BitVec.ofNat 8 b.state.code])))

/-- READ_DIRECTIVE returns the 35 bytes of the directive, with the unread mark as it stood and a slot of 6 bytes for each of
the four captures (the service, the handle and its booking id, zeros where there is none), and clears the unread mark;
nothing else changes. A tuner index above 1 is refused BAD-VALUE and a tuner that is not fitted NO-SUCH (R67). -/
def Obligations.ReadDirectiveClearsTheUnreadMark : Prop :=
  ∀ (n : Nat) (s : State), s.Takes →
    (1 < n → Refused (.readDirective n) s .badValue) ∧
    (n ≤ 1 → s.base.cfg.fitted ≤ n → Refused (.readDirective n) s .noSuch) ∧
    (n ≤ 1 → n < s.base.cfg.fitted →
      let k : Tuner := if n = 0 then .A else .B
      let r := s.sch.tuners.get k
      let d := r.directive
      d.captures.length ≤ 4 →
      let slot (c : Capture) : List Byte :=
        let id := ((s.sch.bk c.handle).map (·.id)).getD ⟨0, 0⟩
        field2 c.service ++ field1 c.handle ++ field1 id.origin ++ field2 id.serial
      let record :=
        field1 n ++ field2 d.serial ++ field1 (d.mux.isSome.toNat + 2 * d.live.isSome.toNat + 4 * r.unread.toNat) ++
        field2 (d.mux.getD 0) ++ field2 (d.live.getD 0) ++ field1 r.state.code ++
        field1 (r.captures.length + r.live.isSome.toNat) ++ field1 d.captures.length ++ d.captures.flatMap slot ++
        List.replicate (24 - 6 * d.captures.length) 0
      record.length = 35 ∧
      ∃ t, Answered (.readDirective n) s t .ok record ∧
        t.base = s.base ∧ t.sch = { s.sch with tuners := s.sch.tuners.set k { r with unread := false } })

/-- READ_PEER returns the record of a peer and what stands with it, and changes nothing: every field of R188 in its order.
A number outside 1..8 is refused BAD-VALUE, and one that has no record, the station's own, NO-SUCH. READ_STATION returns
the status, every field of R189 by its group, the groups in their order, or the configuration record (R190) with its lock,
and changes nothing; a part outside the two is refused BAD-VALUE. The encodings that R183 and R184 leave to inference are
the model's (log entry 19): a presence byte before what may be absent, a selector before a deadline that may be stopped
and a busy-until that may be open, the flags and marks in one byte, the first condition that keeps a peer from being
eligible, a byte each for the AWARD and the bid list, and the codes of the enumerated fields. So is the roll period of an
ABSENT record, a byte of 0 with no presence byte (log entry 26). -/
def Obligations.ReadPeerAndReadStation : Prop :=
  (∀ (n : Nat) (s : State), s.Takes →
    (n = 0 ∨ 8 < n → Refused (.readPeer n) s .badValue) ∧
    (1 ≤ n → n ≤ 8 → (∀ p ∈ s.base.peers, p.station ≠ n) → Refused (.readPeer n) s .noSuch) ∧
    (1 ≤ n → n ≤ 8 → ∀ p, s.base.peer n = some p →
      let flag (b : Bool) : List Byte := field1 b.toNat
      let maybe (f : Nat → List Byte) (x : Option Nat) : List Byte := flag x.isSome ++ f (x.getD 0)
      let orWord (x : Option Nat) : List Byte := flag x.isNone ++ field4 (x.getD 0)
      let view (x : Option View) : List Byte :=
        match x with
        | none => [0, 0, 0]
        | some w =>
          1 :: field1 w.usable ++ field1 w.tuners.length ++ w.tuners.flatMap fun k =>
            field1 k.state ++ maybe field2 k.mux ++ orWord k.busy ++ field1 k.top
      let bar : Option Nat :=
        if p.presence ≠ .present then some 0 else if p.flags.untimed then some 1 else if p.flags.rxFault then some 2
        else if p.flags.joining then some 3 else if p.flags.leaving then some 4 else none
      let count (k : Nat) : List Byte := field1 k
      let exchange : List Byte :=
        match s.sch.engine with
        | .idle => [0, 0]
        | .collecting _ _ bids => 0 :: flag (bids.any fun y => y.station == n)
        | .awaiting _ st _ bids => flag (st == n) ++ flag (bids.any fun y => y.station == n)
      Told (.readPeer n) s
        (field1 p.presence.code ++ maybe field1 p.incarnation ++ maybe field1 p.lastSeq ++ field1 (p.period.getD 0) ++
          maybe field2 p.day ++ maybe field2 p.prevDay ++
          field1 (p.flags.untimed.toNat + 2 * p.flags.rxFault.toNat + 4 * p.flags.leaving.toNat +
            8 * p.flags.joining.toNat) ++
          field1 p.history.length ++ p.history.flatMap (fun r => field1 r.code) ++ field1 p.good ++ field1 p.missing ++
          orWord (p.deadline.map fun u => (u + 4095999) / 4096000) ++ view p.view ++ view p.candidate ++
          flag bar.isNone ++ maybe field1 bar ++
          count (s.sch.bookings.filter fun b => b.plan == .lent n).length ++
          count (s.sch.bookings.filter fun b => b.plan == .lent n && b.peerLost).length ++
          count (s.sch.bookings.filter fun b => b.plan == .covered n).length ++
          count (s.sch.bookings.filter fun b => b.hosted && b.id.origin == n).length ++
          count (s.sch.tallies.filter fun r => r.id.origin == n).length ++
          count (s.sch.holds.filter fun x => x.id.origin == n).length ++
          count (s.sch.lapsed.filter fun x => x.id.origin == n).length ++ exchange))) ∧
  (∀ s : State, s.Takes →
    let v := s.base
    let flag (b : Bool) : List Byte := field1 b.toNat
    let tuner (k : Tuner) : List Byte :=
      let r := s.sch.tuners.get k
      let top : List Byte :=
        match s.sch.stacked.get k with
        | [] => [0, 0, 0]
        | x :: _ => 1 :: field1 x.reason.code ++ flag x.causeEnded
      field1 r.state.code ++ flag r.directive.mux.isSome ++ field2 (r.directive.mux.getD 0) ++
      field1 (r.marks.fitted.toNat + 2 * r.marks.signal.toNat + 4 * r.marks.budget.toNat) ++ flag (s.sch.usable k) ++
      field1 (r.captures.length + r.live.isSome.toNat) ++ flag r.live.isSome ++ field2 ((r.live.map (·.mux)).getD 0) ++
      field2 ((r.live.map (·.service)).getD 0) ++ field2 r.directive.serial ++ flag r.unread ++
      field1 (s.sch.stacked.get k).length ++ top
    let fitted : List Tuner := if v.cfg.fitted = 1 then [.A] else [.A, .B]
    let engine : List Byte :=
      match s.sch.engine with
      | .idle => [0, 0, 0]
      | .collecting h _ _ => 1 :: 1 :: field1 h
      | .awaiting h _ _ _ => 2 :: 1 :: field1 h
    Told (.readStation 0) s
      (field1 v.cfg.station ++ field2 v.cfg.household ++ field1 v.station.code ++ field1 v.incarnation ++ flag (!v.timed) ++
        (field4 v.clock ++ field2 (v.clock / 86400) ++ field1 (v.clock / 86400 % 256)) ++
        (flag v.rxFault ++ field1 (v.window.filter fun good => !good).length ++ field1 v.goodRun ++
          field1 s.sch.txq.length ++ field1 v.lastSent) ++
        (field1 fitted.length ++ fitted.flatMap tuner) ++
        (field1 s.sch.budget ++ field1 ((s.sch.usable .A).toNat + (s.sch.usable .B).toNat)) ++
        (field1 s.sch.bookings.length ++ field1 (s.sch.bookings.filter fun b => b.cls == .hosted).length ++
          field1 s.sch.pendingOutcomes.length ++ field1 s.sch.unplaced.length ++ field1 s.sch.referrals.length ++
          field1 s.sch.plans.a.length ++ field1 s.sch.plans.b.length) ++
        field1 s.sch.links.length ++
        (engine ++ field1 s.sch.seekQueue.length ++ field1 s.sch.holds.length ++ field1 s.sch.lapsed.length ++
          field1 s.sch.tallies.length ++ field1 s.sch.marks.length) ++
        (field1 s.sch.notices.length ++ flag s.sch.overflow)) ∧
    Told (.readStation 1) s
      (field1 v.cfg.station ++ field2 v.cfg.household ++ field1 v.cfg.fitted ++ field1 v.cfg.rollPeriod ++
        field1 v.cfg.window ++ flag (!v.cfg.debounce) ++ field1 v.cfg.skew ++ v.cfg.clash.flatMap flag ++
        flag v.cfg.liveRefer ++ field1 v.cfg.depth ++ field2 v.cfg.bidWindow ++ field2 v.cfg.takeTimeout ++
        field1 v.cfg.seekLimit ++ field1 v.cfg.tuneLead ++ field1 v.cfg.tuneTimeout ++ field2 v.cfg.recheck ++
        field1 v.cfg.grace ++ field1 v.cfg.overrun ++
        [if v.station = .joining ∨ v.station = .joined ∨ v.station = .leaving then 1 else 0]) ∧
    ∀ part, 1 < part → Refused (.readStation part) s .badValue)

/-! ## Bookings -/

/-- BOOK is checked in order, and the first check that fails gives the refusal (R9, R10): the start is rounded down and
the end up to the whole minute. That a follow byte above 1, which R10 does not list, is weighed with its check 2, after
UNTIMED and before LATE, is the model's choice (log entry 34). -/
def Obligations.BookIsCheckedInOrder : Prop :=
  ∀ (f : BookFields) (s : State), s.Takes →
    let start := f.start / 60 * 60
    let finish := (f.finish + 59) / 60 * 60
    let badValue := 1 < f.follow ∨ 30 < f.pre ∨ 30 < f.post ∨ finish ≤ start ∨ start + 24 * 3600 < finish ∨
      (f.follow = 1 ∧ f.event = none)
    let late := finish ≤ s.base.clock
    let tooFar := s.base.clock + 44640 * 60 < start
    let twice := ∃ e, f.event = some e ∧
      ∃ b ∈ s.sch.bookings, b.cls ≠ .hosted ∧ b.state ≠ .ended ∧ b.service = f.service ∧ b.event = some e
    (s.base.timed = false → Refused (.book f) s .badState) ∧
    (s.base.timed = true → badValue → Refused (.book f) s .badValue) ∧
    (s.base.timed = true → ¬badValue → late → Refused (.book f) s .late) ∧
    (s.base.timed = true → ¬badValue → ¬late → tooFar → Refused (.book f) s .tooFar) ∧
    (s.base.timed = true → ¬badValue → ¬late → ¬tooFar → twice → Refused (.book f) s .duplicate) ∧
    (s.base.timed = true → ¬badValue → ¬late → ¬tooFar → ¬twice → 128 ≤ s.sch.bookings.length →
      Refused (.book f) s .noRoom) ∧
    (s.base.timed = true → ¬badValue → ¬late → ¬tooFar → ¬twice → s.sch.bookings.length < 128 →
      ∃ t l, Answered (.book f) s t .ok l)

/-- A BOOK that passes the checks makes a record with the lowest free handle, the next order number and a booking id of
this station whose serial no local entry has; both counters go on. Where a usable tuner is free and nothing else is
planned, the record is PLANNED on the lower such tuner and its PREPARE trigger is armed, and nothing else changes. In
general steps 1 to 3 choose so (R88, R90, R91): a tuner can take the booking when at every instant of its tuned interval
what overlaps it is on its multiplex, at most 3 of them bookings; the lower usable tuner that can, and is shared, at cost
0; else the lower that can, at cost 1; else, at cost 2, the tuner whose incumbents all yield and of whose incumbents the
best rank is the worse, the lower of equals, with that rank. A tuner that a failed check took the booking from is not
weighed (R100). Where none is usable, a booking that may seek is SEEKING, its first SEEK offered (R93, R161); one that may
not, and whose one incumbent does not yield by the clash policy vector alone, is REFERRED, with a REFERRAL notice that
names the tuner and the incumbent (R94). -/
def Obligations.BookPlansAFreeTuner : Prop :=
  (∀ (f : BookFields) (k : Tuner) (s : State), s.Takes → s.Inv → s.sch.Bare → s.sch.Settled → s.sch.holds = [] →
    s.sch.tuners.a.live = none → s.sch.tuners.b.live = none →
    s.sch.usable k = true → (k = .B → s.sch.usable .A = false) → s.bookRefusal f = none →
    let start := f.start / 60 * 60
    let finish := (f.finish + 59) / 60 * 60
    s.base.clock < start - 60 * f.pre - s.base.cfg.tuneLead →
    ∃ t b, Answered (.book f) s t .ok
        [BitVec.ofNat 8 b.handle, BitVec.ofNat 8 s.base.cfg.station, BitVec.ofNat 8 (b.id.serial / 256),
          BitVec.ofNat 8 b.id.serial, 1, 1, BitVec.ofNat 8 k.index] ∧
      (b.handle < 128 ∧ (∀ c ∈ s.sch.bookings, c.handle ≠ b.handle) ∧
        ∀ h < b.handle, ∃ c ∈ s.sch.bookings, c.handle = h) ∧
      (b.id.origin = s.base.cfg.station ∧ ∀ c ∈ s.sch.bookings, c.cls ≠ .hosted → c.id.serial ≠ b.id.serial) ∧
      b = { handle := b.handle, id := b.id, cls := if f.event = none then .manual else .event, service := f.service,
            mux := f.multiplex, event := f.event, link := none, episode := none, start := start, finish := finish,
            pre := f.pre, post := f.post, priority := min 7 f.priority, follow := f.follow == 1,
            running := if f.follow = 1 then some .unknown else none, state := .planned, plan := .tuner k,
            order := s.sch.orderCtr, attempts := 0, segs := [], outcome := none, confirm := none, peerLost := false,
            endedAt := none, prepSeq := 0 } ∧
      t.base = s.base ∧
      t.sch =
        { s.sch with
          bookings := insertBooking b s.sch.bookings
          orderCtr := if s.sch.orderCtr < 4294967295 then s.sch.orderCtr + 1 else 1
          serialCtr := if b.id.serial < 65535 then b.id.serial + 1 else 1
          plans := s.sch.plans.set k [⟨b.handle, false⟩]
          triggers := insertTrigger ⟨b.handle, .prepare, start - 60 * f.pre - s.base.cfg.tuneLead⟩
            (s.sch.triggers.filter fun x => x.handle != b.handle) }) ∧
  (∀ (v : Base) (s : Sched) (auto : Bool) (avoid : Option Tuner) (b : Booking) (w : Want), b.want v = some w →
    let meets (k : Tuner) : List Occ := (s.occs v k).filter fun o => o.overlaps w
    let counted (k : Tuner) (u : Nat) : Nat := ((meets k).filter fun o => o.counts && o.standsAt u).length
    let takes (k : Tuner) : Prop := s.usable k = true ∧ avoid ≠ some k ∧ (∀ o ∈ meets k, o.mux = w.mux) ∧
      ∀ u, w.lo ≤ u → u < w.hi → counted k u ≤ 3
    let others (k : Tuner) : List Occ := (meets k).filter fun o => o.mux != w.mux
    let yields (k : Tuner) (rank : Nat) : Prop := s.usable k = true ∧ avoid ≠ some k ∧ others k ≠ [] ∧
      (∀ o ∈ others k, ∃ c, o.who = .booking c ∧ (auto = true ∨ v.auto c.cls w.cls = true) ∧ w.rank < o.rank ∧
        rank ≤ o.rank) ∧ rank ≤ 31 ∧ (rank = 31 ∨ ∃ o ∈ others k, o.rank = rank) ∧
      ∀ u, w.lo ≤ u → u < w.hi →
        ((meets k).filter fun o => o.mux == w.mux && o.counts && o.standsAt u).length ≤ 3
    (∀ k, takes k → meets k ≠ [] → (k = .B → ¬(takes .A ∧ meets .A ≠ [])) →
      s.choose v auto none avoid b = some (0, k, 31)) ∧
    (∀ k, takes k → (∀ j, takes j → meets j = []) → (k = .B → ¬takes .A) →
      s.choose v auto none avoid b = some (1, k, 31)) ∧
    ((∀ j, ¬takes j) →
      (∀ k rank, yields k rank → (∀ r, yields k.other r → r < rank ∨ (r = rank ∧ k = .A)) →
        s.choose v auto none avoid b = some (2, k, rank)) ∧
      ((∀ j r, ¬yields j r) → s.choose v auto none avoid b = none))) ∧
  (∀ (f : BookFields) (s : State), s.Takes → s.Inv → s.sch.Bare → s.sch.Settled → s.sch.seekQueue = [] →
    s.sch.engine = .idle → s.sch.txq.length < 12 → s.sch.usable .A = false → s.sch.usable .B = false →
    s.bookRefusal f = none → 1 ≤ s.base.cfg.seekLimit →
    let start := f.start / 60 * 60
    let finish := (f.finish + 59) / 60 * 60
    let made (h : Nat) (i : BookingId) : Booking :=
      { handle := h, id := i, cls := if f.event = none then .manual else .event, service := f.service, mux := f.multiplex,
        event := f.event, link := none, episode := none, start := start, finish := finish, pre := f.pre, post := f.post,
        priority := min 7 f.priority, follow := f.follow == 1, running := if f.follow = 1 then some .unknown else none,
        state := .seeking, plan := .absent, order := s.sch.orderCtr, attempts := 1, segs := [], outcome := none,
        confirm := none, peerLost := false, endedAt := none, prepSeq := 0 }
    s.base.clock < start - 60 * f.pre - s.base.cfg.tuneLead →
    (∀ h i, s.base.maySeek (made h i) = true) →
    ∃ t b m, Answered (.book f) s t .ok
        (field1 b.handle ++ field1 s.base.cfg.station ++ field2 b.id.serial ++ [2, 0, 0]) ∧
      b = made b.handle b.id ∧ t.base = s.base ∧ t.sch.bookings = insertBooking b s.sch.bookings ∧
      t.sch.seekQueue = [⟨b.handle, none⟩] ∧ t.sch.engine = .collecting b.handle none [] ∧
      t.sch.txq = s.sch.txq ++ [⟨s.base.cfg.household, s.base.cfg.station, b.rank, .seek m, none, false⟩] ∧
      m.id = b.id ∧ m.number = 1 ∧ t.sch.notices = s.sch.notices ∧
      t.sch.triggers = insertTrigger ⟨b.handle, .prepare, start - 60 * f.pre - s.base.cfg.tuneLead⟩
        (s.sch.triggers.filter fun x => x.handle != b.handle)) ∧
  ∀ (f : BookFields) (k : Tuner) (g : Nat) (c : Booking) (m : Bool) (s : State), s.Takes → s.Inv → s.sch.Settled →
    s.bookRefusal f = none → s.base.station ≠ .joined → s.sch.holds = [] → s.sch.Room 1 →
    s.sch.usable k = true → s.sch.usable k.other = false → (s.sch.tuners.get k).live = none →
    s.sch.plans.get k = [⟨g, m⟩] → s.sch.plans.get k.other = [] → s.sch.stacked = ⟨[], []⟩ → s.sch.bk g = some c →
    s.sch.unplaced = [] →
    let start := f.start / 60 * 60
    let finish := (f.finish + 59) / 60 * 60
    let cls : BClass := if f.event = none then .manual else .event
    let lead := start - 60 * f.pre - s.base.cfg.tuneLead
    let stop := finish + 60 * if f.follow = 1 then min f.post s.base.cfg.overrun else f.post
    s.base.clock < lead → c.mux ≠ f.multiplex → 2 + 2 * min 7 f.priority < c.rank → s.base.auto c.cls cls = false →
    (∃ lo hi, c.tuned s.base = some (lo, hi) ∧ lo < stop ∧ lead < hi) →
    ∃ t b, Answered (.book f) s t .ok
        (field1 b.handle ++ field1 s.base.cfg.station ++ field2 b.id.serial ++ [5, 0, 0]) ∧
      b.state = .referred ∧ b.plan = .absent ∧ b.cls = cls ∧ b.start = start ∧ b.finish = finish ∧ t.base = s.base ∧
      t.sch.bookings = insertBooking b s.sch.bookings ∧ t.sch.plans = s.sch.plans ∧
      t.sch.referrals = s.sch.referrals ++ [⟨b.handle, k, [g], lead, .placement⟩] ∧
      t.sch.notices = s.sch.notices ++
        [.referral b.handle b.id cls f.service start finish k .placement lead [(g, c.id, c.cls, c.rank)]]

/-- AMEND is refused by the first check that fails (R12, R13): BAD-STATE for a hosted entry, and for fields that the state
does not admit; BAD-VALUE; LATE; TOO-FAR. Two things are the model's choice: a follow byte above 1 is weighed with check 3
of R12 (log entry 34), and a booking that holds a segment goes by the row of its state as any other does (log entry 46).
An AMEND that R13 has placed again has no effect clause here but that it is taken. An AMEND of priority and post-roll on a
booking under way, or on a COVERED one, writes them, the priority clamped at 7; the booking keeps its state and its tuner.
A changed post-roll re-arms its trigger, here one that is not due; with the post-roll as it was its trigger stays as it
stands, due or not (R32). Nothing else changes. -/
def Obligations.Amend : Prop :=
  (∀ (h : Nat) (x : Option BookingId) (f : AmendFields) (b : Booking) (s : State), s.Takes → h ≤ 127 →
    s.sch.bk h = some b → x = none ∨ x = some b.id →
    let start := (f.start.map fun t => t / 60 * 60).getD b.start
    let finish := (f.finish.map fun t => (t + 59) / 60 * 60).getD b.finish
    let only := f.pre = none ∧ f.follow = none ∧ f.start = none ∧ f.finish = none
    let badState := b.cls = .hosted ∨ b.state = .ended ∨
      (b.state = .lent ∧ b.start - 60 * b.pre - s.base.cfg.tuneLead ≤ s.base.clock) ∨
      ((b.state = .preparing ∨ b.state = .recording ∨ b.state = .paused ∨ b.state = .suspended) ∧ ¬only)
    let badValue := ((f.start ≠ none ∨ f.finish ≠ none) ∧ b.cls ≠ .manual) ∨ (∃ y ∈ f.follow, 1 < y) ∨
      (f.follow = some 1 ∧ b.cls = .manual) ∨ 30 < f.pre.getD b.pre ∨ 30 < f.post.getD b.post ∨ finish ≤ start ∨
      start + 86400 < finish
    let late := (f.start ≠ none ∨ f.finish ≠ none) ∧ finish ≤ s.base.clock
    let tooFar := f.start ≠ none ∧ s.base.clock + 44640 * 60 < start
    (badState → Refused (.amend h x f) s .badState) ∧
    (¬badState → badValue → Refused (.amend h x f) s .badValue) ∧
    (¬badState → ¬badValue → late → Refused (.amend h x f) s .late) ∧
    (¬badState → ¬badValue → ¬late → tooFar → Refused (.amend h x f) s .tooFar) ∧
    (¬badState → ¬badValue → ¬late → ¬tooFar → ∃ t l, Answered (.amend h x f) s t .ok [l])) ∧
  (∀ (h : Nat) (x : Option BookingId) (f : AmendFields) (b : Booking) (s : State), s.Takes → h ≤ 127 → s.sch.bk h = some b → x = none ∨ x = some b.id → s.sch.Settled → b.cls ≠ .hosted →
    b.state = .preparing ∨ b.state = .recording ∨ b.state = .paused ∨ b.state = .suspended ∨ b.state = .covered →
    f.pre = none → f.follow = none → f.start = none → f.finish = none → (∀ y ∈ f.post, y ≤ 30) →
    b.pre ≤ 30 → b.post ≤ 30 → b.start < b.finish → b.finish ≤ b.start + 86400 → b.follow = true ∨ b.running = none →
    b.follow = true ∨ b.endedAt = none →
    let c := { b with priority := min 7 (f.priority.getD b.priority), post := f.post.getD b.post }
    let leaves (triggers : List Trigger) : Prop :=
      ∃ t, Answered (.amend h x f) s t .ok [BitVec.ofNat 8 b.state.code] ∧ t.base = s.base ∧ t.sch.bk h = some c ∧
        t.sch = { s.sch with bookings := t.sch.bookings, triggers := triggers } ∧ ∀ g, g ≠ h → t.sch.bk g = s.sch.bk g
    (c.post = b.post → leaves s.sch.triggers) ∧
    ∀ k d, c.post ≠ b.post → c.armed s.base = some (k, d) → s.base.clock < d →
      leaves (insertTrigger ⟨h, k, d⟩ (s.sch.triggers.filter fun y => y.handle != h)))

/-- CANCEL is refused BAD-STATE for a hosted or an ENDED entry. In every other case the booking ends CANCELLED with reason
CANCELLED, its segments closed, and its OUTCOME is reported. -/
def Obligations.CancelEndsTheBooking : Prop :=
  ∀ (h : Nat) (x : Option BookingId) (b : Booking) (s : State), s.Takes → h ≤ 127 → s.sch.bk h = some b →
    x = none ∨ x = some b.id →
    (b.cls = .hosted ∨ b.state = .ended → Refused (.cancel h x) s .badState) ∧
    (b.cls ≠ .hosted → b.state ≠ .ended →
      ∃ t, Answered (.cancel h x) s t .ok [] ∧ t.base = s.base ∧ s.sch.Evolves t.sch ∧
        s.sch.Reported t.sch h (b.endedNotice s.base.clock (.cancelled, .cancelled)))

/-- RESOLVE is refused BAD-VALUE for a decision outside ADMIT, DECLINE and CANCEL, and BAD-STATE when the booking is not
REFERRED. CANCEL ends the booking as CANCEL does. A referral answered ADMIT or DECLINE where no tuner is usable and the
booking may not seek: the referral is gone, the booking is WAITING in the unplaced list, and the UNPLACED notice names the
step (R95, R103). -/
def Obligations.Resolve : Prop :=
  (∀ (h : Nat) (x : Option BookingId) (d : Nat) (b : Booking) (s : State), s.Takes → h ≤ 127 → s.sch.bk h = some b →
    x = none ∨ x = some b.id →
    (2 < d → Refused (.resolve h x d) s .badValue) ∧
    (d ≤ 2 → b.state ≠ .referred → Refused (.resolve h x d) s .badState) ∧
    (d ≤ 2 → b.state = .referred →
      ∃ t l, Answered (.resolve h x d) s t .ok l ∧ t.base = s.base ∧ s.sch.Evolves t.sch ∧
        (d = 2 → b.cls ≠ .hosted → s.sch.Reported t.sch h (b.endedNotice s.base.clock (.cancelled, .cancelled))))) ∧
  (∀ (h : Nat) (x : Option BookingId) (d : Nat) (b : Booking) (k : TrigKind) (u : Nat) (s : State), s.Takes → h ≤ 127 →
    s.sch.bk h = some b → x = none ∨ x = some b.id → d ≤ 1 → b.state = .referred → b.cls ≠ .hosted → s.sch.Bare →
    s.sch.Settled → s.sch.usable .A = false → s.sch.usable .B = false → s.base.station ≠ .joined → s.sch.Room 1 →
    b.attempts < s.base.cfg.seekLimit →
    let c := { b with state := .waiting, plan := .absent, confirm := none, peerLost := false }
    c.armed s.base = some (k, u) → s.base.clock < u →
    ∃ t, Answered (.resolve h x d) s t .ok (0 :: if d = 0 then [0, 0] else []) ∧ t.base = s.base ∧
      t.sch.bk h = some c ∧ (∀ g, g ≠ h → t.sch.bk g = s.sch.bk g) ∧
      t.sch =
        { s.sch with
          bookings := t.sch.bookings
          unplaced := [h]
          referrals := s.sch.referrals.filter fun r => r.handle != h
          triggers := insertTrigger ⟨h, k, u⟩ (s.sch.triggers.filter fun y => y.handle != h)
          notices := s.sch.notices ++
            [.unplaced h b.id b.cls b.service b.start b.finish (if d = 0 then .noTuner else .declined)] })

/-! ## Series links and the guide -/

/-- LINK is checked in order (R46). That a scope or a count selector outside its alternatives, a count of 0, and a follow or a
first-run-only above 1 are weighed with check 2, after UNTIMED and before DUPLICATE, is the model's choice (log entry 34).
One that passes makes a link in the lowest free slot, with a link id of this station
whose serial no link in use and no booking's series link has (R43); it has booked nothing yet. -/
def Obligations.LinkMakesALink : Prop :=
  ∀ (f : LinkFields) (s : State), s.Takes → s.Inv →
    let badValue := (∃ n, f.scope = .other n) ∨ (∃ n, f.count = .other n) ∨
      (∃ n, f.count = .number n ∧ (n = 0 ∨ 255 < n)) ∨ 1 < f.follow ∨ 1 < f.firstRun ∨ 30 < f.pre ∨ 30 < f.post
    let scope : Option Nat := match f.scope with | .service n => some n | _ => none
    let twice := ∃ l ∈ s.sch.links, l.series = f.series ∧ l.scope = scope
    (s.base.timed = false → Refused (.link f) s .badState) ∧
    (s.base.timed = true → badValue → Refused (.link f) s .badValue) ∧
    (s.base.timed = true → ¬badValue → twice → Refused (.link f) s .duplicate) ∧
    (s.base.timed = true → ¬badValue → ¬twice → s.sch.links.length = 32 → Refused (.link f) s .noRoom) ∧
    (s.base.timed = true → ¬badValue → ¬twice → s.sch.links.length < 32 →
      ∃ t l, Answered (.link f) s t .ok
          [BitVec.ofNat 8 s.base.cfg.station, BitVec.ofNat 8 (l.id.serial / 256), BitVec.ofNat 8 l.id.serial,
            BitVec.ofNat 8 l.slot] ∧
        (l.slot < 32 ∧ (∀ m ∈ s.sch.links, m.slot ≠ l.slot) ∧ ∀ n < l.slot, ∃ m ∈ s.sch.links, m.slot = n) ∧
        (l.id.origin = s.base.cfg.station ∧ (∀ m ∈ s.sch.links, m.id.serial ≠ l.id.serial) ∧
          ∀ b ∈ s.sch.bookings, b.link ≠ some l.id) ∧
        l = { slot := l.slot, id := l.id, series := f.series, scope := scope, priority := min 7 f.priority, pre := f.pre,
              post := f.post, follow := f.follow == 1, firstRun := f.firstRun == 1,
              count := match f.count with | .number n => some ⟨n, n⟩ | _ => none,
              exhausted := false, backlog := false, episodes := [] } ∧
        t.base = s.base ∧
        t.sch =
          { s.sch with
            links := insertLink l s.sch.links
            linkCtr := if l.id.serial < 65535 then l.id.serial + 1 else 1 })

/-- UNLINK of an id that no link has is refused NO-SUCH. Otherwise the link goes: with no booking of it left nothing else
changes; its one booking, when it has not started, ends CANCELLED and is counted first, and when it is under way it is
left to its end and counted second. READ_LINK returns the link of an id, or the link of the lowest slot in use from a
starting slot on, every field of it and the number of its bookings that have not ended, and changes nothing. It is refused
NO-SUCH when there is none, and BAD-VALUE for a starting slot above 31. That the byte of the backlog mark is 1 for set and 0
for clear is the model's choice (log entry 19). -/
def Obligations.UnlinkAndReadLink : Prop :=
  (∀ (i : LinkId) (s : State), s.Takes →
    ((∀ l ∈ s.sch.links, l.id ≠ i) → Refused (.unlink i) s .noSuch) ∧
    ∀ l ∈ s.sch.links, l.id = i →
      (s.sch.ofLink i = [] → ∃ t, Answered (.unlink i) s t .ok [0, 0] ∧ t.base = s.base ∧
        t.sch = { s.sch with links := s.sch.links.filter fun m => m.id != i }) ∧
      ∀ h b, s.sch.ofLink i = [h] → s.sch.bk h = some b → b.link = some i → b.state ≠ .ended → b.cls ≠ .hosted →
        if b.state = .preparing ∨ b.state = .recording ∨ b.state = .paused ∨ b.state = .suspended then
          ∃ t, Answered (.unlink i) s t .ok [0, 1] ∧ t.base = s.base ∧
            t.sch = { s.sch with links := s.sch.links.filter fun m => m.id != i }
        else
          ∃ t, Answered (.unlink i) s t .ok [1, 0] ∧ t.base = s.base ∧
            t.sch.links.map Link.fixed = (s.sch.links.filter fun m => m.id != i).map Link.fixed ∧
            s.sch.Reported t.sch h (b.endedNotice s.base.clock (.cancelled, .cancelled))) ∧
  (∀ (s : State), s.Takes → s.Inv →
    let bytes : Link → List Byte := fun l =>
      [BitVec.ofNat 8 l.slot, BitVec.ofNat 8 l.id.origin, BitVec.ofNat 8 (l.id.serial / 256), BitVec.ofNat 8 l.id.serial,
        BitVec.ofNat 8 (l.series / 16777216), BitVec.ofNat 8 (l.series / 65536), BitVec.ofNat 8 (l.series / 256),
        BitVec.ofNat 8 l.series, BitVec.ofNat 8 l.scope.isSome.toNat, BitVec.ofNat 8 ((l.scope.getD 0) / 256),
        BitVec.ofNat 8 (l.scope.getD 0), BitVec.ofNat 8 l.priority, BitVec.ofNat 8 l.pre, BitVec.ofNat 8 l.post,
        BitVec.ofNat 8 l.follow.toNat, BitVec.ofNat 8 l.firstRun.toNat, BitVec.ofNat 8 l.count.isSome.toNat,
        BitVec.ofNat 8 ((l.count.map (·.remaining)).getD 0), BitVec.ofNat 8 ((l.count.map (·.initial)).getD 0),
        BitVec.ofNat 8 l.exhausted.toNat, BitVec.ofNat 8 l.backlog.toNat, BitVec.ofNat 8 l.episodes.length] ++
      l.episodes.flatMap (bytesOf 4) ++
      [BitVec.ofNat 8 (s.sch.bookings.filter fun b => b.link == some l.id && b.state != .ended).length]
    (∀ i, (∀ l ∈ s.sch.links, l.id ≠ i) → Refused (.readLink (.byId i)) s .noSuch) ∧
    (∀ l ∈ s.sch.links, (∀ m ∈ s.sch.links, m.id = l.id → m = l) → Told (.readLink (.byId l.id)) s (bytes l)) ∧
    (∀ n, 31 < n → Refused (.readLink (.fromSlot n)) s .badValue) ∧
    (∀ n ≤ 31, (∀ l ∈ s.sch.links, l.slot < n) → Refused (.readLink (.fromSlot n)) s .noSuch) ∧
    (∀ n ≤ 31, ∀ l ∈ s.sch.links, n ≤ l.slot → (∀ m ∈ s.sch.links, n ≤ m.slot → l.slot ≤ m.slot) →
      Told (.readLink (.fromSlot n)) s (bytes l)) ∧
    ∀ n, Refused (.readLink (.other n)) s .badValue)

/-- GUIDE_EVENT is refused BAD-STATE on an UNTIMED clock and BAD-VALUE for a duration above 1,440 minutes or a repeat flag
that is neither yes nor no; that the clock is weighed before the duration and the repeat flag is the model's choice of order
(log entry 34). One that reaches no booking and matches no link changes nothing. A guide event that matches
the one link while the Booking Table is full makes no booking: the link's backlog mark is set, with a LINK-BACKLOG notice
when it was clear (R58). -/
def Obligations.GuideEventThatMakesNothing : Prop :=
  (∀ (f : GuideFields) (s : State), s.Takes →
    (s.base.timed = false → Refused (.guideEvent f) s .badState) ∧
    (s.base.timed = true → 1440 < f.duration ∨ 1 < f.repeated → Refused (.guideEvent f) s .badValue) ∧
    (s.base.timed = true → f.duration ≤ 1440 → f.repeated ≤ 1 →
      (∀ b ∈ s.sch.bookings, b.cls = .manual ∨ b.cls = .hosted ∨ b.state = .ended ∨ b.service ≠ f.service ∨
        b.event ≠ some f.event) →
      (f.duration = 0 ∨ f.series = none ∨ ∀ l ∈ s.sch.links,
        f.series ≠ some l.series ∨ l.exhausted = true ∨ ∃ n, l.scope = some n ∧ n ≠ f.service) →
      Told (.guideEvent f) s [0, 0, 0, 0])) ∧
  (∀ (f : GuideFields) (l : Link) (s : State), s.Takes → s.base.timed = true → 1 ≤ f.duration → f.duration ≤ 1440 →
    f.repeated ≤ 1 → s.sch.links = [l] → f.series = some l.series → l.scope = none ∨ l.scope = some f.service →
    l.exhausted = false → l.firstRun = false ∨ f.repeated = 0 → (∀ c ∈ f.episode, c ∉ l.episodes) →
    (∀ b ∈ s.sch.bookings, b.service ≠ f.service ∨ b.event ≠ some f.event) → s.sch.bookings.length = 128 →
    s.sch.Room 1 → s.base.clock < f.start / 60 * 60 → f.start / 60 * 60 ≤ s.base.clock + 44640 * 60 →
    ∃ t, Answered (.guideEvent f) s t .ok [0, 0, 0, 1] ∧ t.base = s.base ∧
      t.sch =
        { s.sch with
          links := [{ l with backlog := true }]
          notices := s.sch.notices ++
            if l.backlog then [] else [.linkBacklog l.id l.series f.service f.event (f.start / 60 * 60)] })

/-- A guide event of duration 0 withdraws the one booking that it reaches and that is not under way: it ends CANCELLED
with reason GUIDE-WITHDRAWN (R51, R54). A guide event moves the end of the one booking that it reaches and that is under
way: to the guide's end, held between one minute and 24 hours after the booking's start. Its trigger is re-armed, and
nothing else changes (R51, R52). -/
def Obligations.GuideEventChangesABooking : Prop :=
  (∀ (f : GuideFields) (b : Booking) (s : State), s.Takes → s.base.timed = true → f.duration = 0 → f.repeated ≤ 1 →
    s.sch.bookings.filter (reached f) = [b] → s.sch.bk b.handle = some b → b.segs = [] →
    b.state = .waiting ∨ b.state = .planned ∨ b.state = .seeking ∨ b.state = .referred ∨ b.state = .covered →
    ∃ t, Answered (.guideEvent f) s t .ok [0, 1, 0, 0] ∧ t.base = s.base ∧ s.sch.Evolves t.sch ∧
      s.sch.Reported t.sch b.handle (b.endedNotice s.base.clock (.cancelled, .guideWithdrawn))) ∧
  (∀ (f : GuideFields) (b : Booking) (k : TrigKind) (d : Nat) (s : State), s.Takes → s.base.timed = true →
    1 ≤ f.duration → f.duration ≤ 1440 → f.series = none → f.repeated ≤ 1 → s.sch.bookings.filter (reached f) = [b] →
    s.sch.bk b.handle = some b → s.sch.unplaced = [] → s.sch.Settled →
    b.state = .preparing ∨ b.state = .recording ∨ b.state = .paused ∨ b.state = .suspended →
    let guideEnd := min ((f.start + 60 * f.duration + 59) / 60 * 60) (f.start / 60 * 60 + 86400)
    let finish := max (b.start + 60) (min (b.start + 86400) guideEnd)
    let c := { b with finish := finish }
    finish ≠ b.finish → b.follow = false ∨ s.base.clock < finish + 60 * b.post → c.armed s.base = some (k, d) →
    s.base.clock < d →
    ∃ t, Answered (.guideEvent f) s t .ok [1, 0, 0, 0] ∧ t.base = s.base ∧ t.sch.bk b.handle = some c ∧
      t.sch =
        { s.sch with
          bookings := t.sch.bookings
          triggers := insertTrigger ⟨b.handle, k, d⟩ (s.sch.triggers.filter fun y => y.handle != b.handle) } ∧
      ∀ g, g ≠ b.handle → t.sch.bk g = s.sch.bk g)

/-- A guide event makes an EPISODE booking of the one link, which it matches. It is weighed first with the marks heard of
its series and episode whose station is PRESENT, as an unstarted booking of its priority: started first, then the lower
rank, then the lower station number. Where none beats it, it is placed: PLANNED where a usable tuner is free and nothing
else is planned; and a JOINED station then offers its MARK, without the started flag, when the guide event carries an
episode code. Where the best of them beats it, it is created COVERED by that station: not placed, with no MARK, its STOP
armed at end + post-roll. Either way the link's count falls by 1, the episode code joins its list, and the EPISODE-BOOKED
notice is queued, and LINK-EXHAUSTED after it when the count has reached 0 (R44, R45, R56, R57, R59, R177). -/
def Obligations.GuideEventMakesAnEpisode : Prop :=
  ∀ (f : GuideFields) (l : Link) (s : State), s.Takes → s.Inv → s.base.timed = true →
    1 ≤ f.duration → f.duration ≤ 1440 → f.repeated ≤ 1 → s.sch.links = [l] → f.series = some l.series →
    l.scope = none ∨ l.scope = some f.service → l.exhausted = false → l.firstRun = false ∨ f.repeated = 0 →
    (∀ c ∈ f.episode, c ∉ l.episodes) → (∀ b ∈ s.sch.bookings, b.service ≠ f.service ∨ b.event ≠ some f.event) →
    s.sch.bookings.length < 128 → s.sch.Settled → s.sch.Room 2 →
    let start := f.start / 60 * 60
    let finish := min ((f.start + 60 * f.duration + 59) / 60 * 60) (start + 86400)
    let prepare := start - 60 * l.pre - s.base.cfg.tuneLead
    let rank := 2 + 2 * l.priority
    let weighed (m : MarkHeard) : Prop :=
      m.series = l.series ∧ f.episode = some m.episode ∧ s.base.isPresent m.station = true
    let beats (m : MarkHeard) (started : Bool) (rank station : Nat) : Prop := (m.started = true ∧ started = false) ∨
      (m.started = started ∧ (m.rank < rank ∨ (m.rank = rank ∧ m.station < station)))
    let makes (state : BState) (plan : Plan) (kind : TrigKind) (time : Nat) (plans : Nat → Two (List PlanEntry))
        (txq : List QMsg) : Prop :=
      ∃ t b, Answered (.guideEvent f) s t .ok [0, 0, 1, 0] ∧
        (b.handle < 128 ∧ ∀ c ∈ s.sch.bookings, c.handle ≠ b.handle) ∧
        (b.id.origin = s.base.cfg.station ∧ ∀ c ∈ s.sch.bookings, c.cls ≠ .hosted → c.id.serial ≠ b.id.serial) ∧
        b = { handle := b.handle, id := b.id, cls := .episode, service := f.service, mux := f.multiplex,
              event := some f.event, link := some l.id, episode := f.episode, start := start, finish := finish,
              pre := l.pre, post := l.post, priority := l.priority, follow := l.follow,
              running := if l.follow then some .unknown else none, state := state, plan := plan,
              order := s.sch.orderCtr, attempts := 0, segs := [], outcome := none, confirm := none, peerLost := false,
              endedAt := none, prepSeq := 0 } ∧
        t.base = s.base ∧
        t.sch =
          { s.sch with
            bookings := insertBooking b s.sch.bookings
            orderCtr := if s.sch.orderCtr < 4294967295 then s.sch.orderCtr + 1 else 1
            serialCtr := if b.id.serial < 65535 then b.id.serial + 1 else 1
            plans := plans b.handle
            triggers := insertTrigger ⟨b.handle, kind, time⟩ (s.sch.triggers.filter fun x => x.handle != b.handle)
            links :=
              [{ l with
                  episodes := match f.episode with
                    | none => l.episodes
                    | some c => (if l.episodes.length = 48 then l.episodes.tail else l.episodes) ++ [c]
                  count := l.count.map fun n => { n with remaining := n.remaining - 1 }
                  exhausted := l.count.any fun n => n.remaining ≤ 1
                  backlog := false }]
            txq := txq
            notices := s.sch.notices ++
              .episodeBooked b.handle b.id l.id f.service f.event f.episode start finish state ::
                if l.count.any fun n => n.remaining ≤ 1 then [.linkExhausted l.id l.series] else [] }
    start ≤ s.base.clock + 44640 * 60 →
    (∀ k : Tuner, (∀ m ∈ s.sch.marks, weighed m → ¬beats m false rank s.base.cfg.station) → s.sch.Bare →
      s.sch.holds = [] → s.sch.tuners.a.live = none → s.sch.tuners.b.live = none → s.sch.usable k = true →
      (k = .B → s.sch.usable .A = false) → s.base.clock < prepare →
      (s.base.station = .joined → s.sch.txq.length < 12) →
      makes .planned (.tuner k) .prepare prepare (fun h => s.sch.plans.set k [⟨h, false⟩])
        (s.sch.txq ++
          match s.base.station, f.episode with
          | .joined, some c =>
            [⟨s.base.cfg.household, s.base.cfg.station, rank,
              .mark
                { tag := s.base.clock / 86400 % 256, series := l.series, episode := c, rank := rank, started := 0
                  start :=
                    if start + 86400 < s.base.clock / 86400 * 86400 then 0
                    else min 65535 ((start + 86400 - s.base.clock / 86400 * 86400) / 60) }, none, false⟩]
          | _, _ => [])) ∧
    ∀ m ∈ s.sch.marks, weighed m → beats m false rank s.base.cfg.station →
      (∀ x ∈ s.sch.marks, weighed x → x ≠ m → beats m x.started x.rank x.station) → s.base.clock < finish →
      makes .covered (.covered m.station) .stop (finish + 60 * l.post) (fun _ => s.sch.plans) s.sch.txq

/-! ## The clock and running status -/

/-- SET_CLOCK is refused BAD-VALUE outside 86,400..4,290,000,000. Otherwise the clock takes the value with no fraction and
the station is TIMED, every timer keeps the time it still had to run, moved by the whole seconds of the change (the model's
choice, log entry 24), and the answer carries the kind of the change and the old clock: FIRST on an UNTIMED clock, TRIM for
a change of at most a second, else FORWARD or BACKWARD (R24). FIRST, and TRIM with no trigger passed, change nothing else.
A booking that a FORWARD change carries past its close time ends by its segments at the old clock, with reason CLOCK; one
that is RECORDING and is not so carried closes its segment at the old clock and opens one at the new (R26). A BACKWARD
change re-arms the bookings; an open segment that begins after the clock begins at the clock; a PREPARING booking whose
PREPARE time lies ahead again is PLANNED (R27). For FORWARD and BACKWARD there is one booking; with none, nothing else
changes. -/
def Obligations.SetClock : Prop :=
  ∀ (time : Nat) (s : State), s.Takes →
    (time < 86400 ∨ 4290000000 < time → Refused (.setClock time) s .badValue) ∧
    (86400 ≤ time → time ≤ 4290000000 →
      let old := s.base.clock
      let move : Nat → Nat := fun u => u + time * 4096000 - old * 4096000
      let kind : Nat :=
        if s.base.timed = false then 0 else if old + 2 ≤ time then 2 else if time + 2 ≤ old then 3 else 1
      let tuner (r : TunerRec) : TunerRec :=
        { r with tuneTimer := r.tuneTimer.map fun p => (move p.1, p.2), recheck := r.recheck.map move }
      let moved : Sched :=
        { s.sch with
          tuners := ⟨tuner s.sch.tuners.a, tuner s.sch.tuners.b⟩
          engine := match s.sch.engine with
            | .idle => .idle
            | .collecting h w l => .collecting h (w.map move) l
            | .awaiting h st w l => .awaiting h st (w.map move) l
          seekQueue := s.sch.seekQueue.map fun q => { q with ready := q.ready.map move }
          holds := s.sch.holds.map fun x => { x with bidEnd := move x.bidEnd, expiry := move x.expiry }
          txq := s.sch.txq.map fun q => { q with bidEnd := q.bidEnd.map move }
          bookings := s.sch.bookings.map fun b => { b with confirm := b.confirm.map move } }
      ∃ t, Answered (.setClock time) s t .ok (field1 kind ++ field4 old) ∧
        t.base =
          { s.base with
            clock := time, frac := 0, timed := true
            joinTimer := s.base.joinTimer.map move
            leaveTimer := s.base.leaveTimer.map move
            rollTimer := s.base.rollTimer.map move
            peers := s.base.peers.map fun p => { p with deadline := p.deadline.map move } } ∧
        s.sch.notices <+: t.sch.notices ∧
        (kind = 0 → t.sch = moved) ∧
        (kind = 1 → (∀ x ∈ s.sch.triggers, time < x.time) → t.sch = moved) ∧
        (s.sch.bookings = [] → (∀ x ∈ s.sch.triggers, time < x.time) → t.sch = moved) ∧
        (kind = 2 → ∀ b, s.sch.bookings = [b] → b.cls ≠ .hosted →
          b.state ≠ .ended → b.state ≠ .lent → b.state ≠ .covered →
          b.closeTime t.base ≤ time →
          s.sch.Reported t.sch b.handle (b.endedNotice old
            (Booking.bySegs { b with segs := closeOpen old b.segs } .clock .clock))) ∧
        (kind = 2 → ∀ b k, s.sch.bookings = [b] → b.state = .recording → b.plan = .tuner k → time < b.closeTime t.base →
          b.segs.length < 4 → s.sch.stacked = ⟨[], []⟩ → s.sch.Settled → (∀ x ∈ s.sch.triggers, time < x.time) →
          t.sch =
            { moved with
              bookings :=
                [{ b with
                    confirm := b.confirm.map move
                    segs := closeOpen old b.segs ++ [⟨s.base.cfg.station, some k, time, none⟩] }] }) ∧
        (kind = 3 → ∀ b kd d, s.sch.bookings = [b] →
          let c := { b with
            confirm := b.confirm.map move
            segs := if b.state = .recording then
                b.segs.map fun g => if g.til = none then { g with frm := min g.frm time } else g
              else b.segs }
          c.armed t.base = some (kd, d) → time < d → s.sch.Settled →
          b.state ≠ .preparing ∨ b.segs ≠ [] ∨ b.start - 60 * b.pre - s.base.cfg.tuneLead ≤ time →
          t.sch =
            { moved with
              bookings := [c]
              triggers := insertTrigger ⟨b.handle, kd, d⟩ (s.sch.triggers.filter fun y => y.handle != b.handle) }) ∧
        (kind = 3 → ∀ b k, s.sch.bookings = [b] → b.state = .preparing → b.plan = .tuner k → b.segs = [] →
          s.sch.stacked = ⟨[], []⟩ →
          let d := b.start - 60 * b.pre - s.base.cfg.tuneLead
          time < d →
          t.sch.bookings = [{ b with confirm := b.confirm.map move, state := .planned }] ∧ t.sch.plans = s.sch.plans ∧
          t.sch.triggers = insertTrigger ⟨b.handle, .prepare, d⟩ (s.sch.triggers.filter fun y => y.handle != b.handle)))

/-- RUNNING is refused BAD-VALUE for a status outside the four, and reaches no booking but the follow bookings of the
programme that have not ended; the answer counts them. One that is not on a tuner takes the status, with its ended-at
time, and is re-armed. One that is RECORDING pauses on PAUSED: its segment closes and it leaves its tuner's capture list,
for which a directive is issued (R39, R40, R65). Two that pause on one tuner are parts of one event, which issues one
directive for both (R65). -/
def Obligations.RunningStatus : Prop :=
  ∀ (service event status : Nat) (s : State), s.Takes →
    (3 < status → Refused (.running service event status) s .badValue) ∧
    (status ≤ 3 → (∀ b ∈ s.sch.bookings, b.follow = false ∨ b.state = .ended ∨ b.service ≠ service ∨
      b.event ≠ some event) → Told (.running service event status) s [0]) ∧
    (∀ r b k d, Running.ofStatus status = some r → s.sch.bookings.filter (followsProgramme service event) = [b] →
      s.sch.bk b.handle = some b → s.sch.Settled → s.base.clock < d →
      (let c := { b with
          running := some r
          endedAt := if r = .ended then
            (if b.running = some .ended then b.endedAt else if b.segs = [] then none else some s.base.clock) else none }
       b.state ≠ .preparing → b.state ≠ .recording → b.state ≠ .paused → c.armed s.base = some (k, d) →
        ∃ t, Answered (.running service event status) s t .ok [1] ∧ t.base = s.base ∧ t.sch.bk b.handle = some c ∧
          t.sch =
            { s.sch with
              bookings := t.sch.bookings
              triggers := insertTrigger ⟨b.handle, k, d⟩ (s.sch.triggers.filter fun y => y.handle != b.handle) } ∧
          ∀ g, g ≠ b.handle → t.sch.bk g = s.sch.bk g) ∧
      (let c := { b with
          running := some .paused, endedAt := none, state := .paused, segs := closeOpen s.base.clock b.segs }
       b.state = .recording → r = .paused → c.armed s.base = some (k, d) →
        ∀ u, (⟨b.service, b.handle⟩ : Capture) ∈ (s.sch.tuners.get u).captures →
          (∀ y ∈ (s.sch.tuners.get u.other).captures, y.handle ≠ b.handle) →
          let l := (s.sch.tuners.get u).captures.filter fun y => y.handle != b.handle
          ∃ t, Answered (.running service event status) s t .ok [1] ∧ t.base = s.base ∧ t.sch.bk b.handle = some c ∧
            (t.sch.tuners.get u).captures = l ∧ (t.sch.tuners.get u).directive.captures = l ∧
            (t.sch.tuners.get u).directive.serial = ((s.sch.tuners.get u).directive.serial + 1) % 65536 ∧
            (t.sch.tuners.get u).unread = true ∧ t.sch.tuners.get u.other = s.sch.tuners.get u.other ∧
            t.sch.notices = s.sch.notices ∧ ∀ g, g ≠ b.handle → t.sch.bk g = s.sch.bk g)) ∧
    (∀ b c u, status = 2 → s.sch.bookings.filter (followsProgramme service event) = [b, c] → b.handle ≠ c.handle →
      s.sch.bk b.handle = some b → s.sch.bk c.handle = some c → s.sch.Settled →
      let halted (x : Booking) : Booking :=
        { x with running := some .paused, endedAt := none, state := .paused, segs := closeOpen s.base.clock x.segs }
      (∀ x ∈ [b, c], x.state = .recording ∧ (⟨x.service, x.handle⟩ : Capture) ∈ (s.sch.tuners.get u).captures ∧
        ∃ k d, (halted x).armed s.base = some (k, d) ∧ s.base.clock < d) →
      (∀ y ∈ (s.sch.tuners.get u.other).captures, y.handle ≠ b.handle ∧ y.handle ≠ c.handle) →
      let l := (s.sch.tuners.get u).captures.filter fun y => y.handle != b.handle && y.handle != c.handle
      ∃ t, Answered (.running service event status) s t .ok [2] ∧ t.base = s.base ∧
        t.sch.bk b.handle = some (halted b) ∧ t.sch.bk c.handle = some (halted c) ∧
        (t.sch.tuners.get u).captures = l ∧ (t.sch.tuners.get u).directive.captures = l ∧
        (t.sch.tuners.get u).directive.serial = ((s.sch.tuners.get u).directive.serial + 1) % 65536 ∧
        (t.sch.tuners.get u).unread = true ∧ t.sch.tuners.get u.other = s.sch.tuners.get u.other ∧
        t.sch.notices = s.sch.notices ∧ ∀ g, g ≠ b.handle → g ≠ c.handle → t.sch.bk g = s.sch.bk g)

/-! ## Tuners, live viewing and power -/

/-- TUNER_REPORT is refused BAD-VALUE for a tuner index or a status above 1 and NO-SUCH for a tuner that is not fitted. A
stale report is answered OK with the stale indication and the current serial and changes nothing. A current report of
LOCKED on a tuner that is TUNING or UNKNOWN, with no booking PREPARING on it, makes it LOCKED and stops its tune timer; a
report that finds the tuner IDLE or FAILED, or LOCKED again, changes nothing (R68, R69). The bytes of the answer (1 and the
serial when stale, 0 and the tuner's state when current) are the model's choice (log entry 19), and so is BAD-VALUE before
NO-SUCH (log entry 34). -/
def Obligations.TunerReport : Prop :=
  ∀ (n serial status : Nat) (s : State), s.Takes →
    let i := Instr.tunerReport n serial status
    let k : Tuner := if n = 0 then .A else .B
    let r := s.sch.tuners.get k
    (1 < n ∨ 1 < status → Refused i s .badValue) ∧
    (n ≤ 1 → status ≤ 1 → s.base.cfg.fitted ≤ n → Refused i s .noSuch) ∧
    (n ≤ 1 → status ≤ 1 → n < s.base.cfg.fitted →
      (serial ≠ r.directive.serial →
        Told i s [1, BitVec.ofNat 8 (r.directive.serial / 256), BitVec.ofNat 8 r.directive.serial]) ∧
      (serial = r.directive.serial → s.sch.Settled →
        (status = 0 → r.state = .tuning ∨ r.state = .unknown → (∀ b ∈ s.sch.occupants k, b.state ≠ .preparing) →
          ∃ t, Answered i s t .ok [0, 2] ∧ t.base = s.base ∧
            t.sch = { s.sch with tuners := s.sch.tuners.set k { r with state := .locked, tuneTimer := none } }) ∧
        (r.state = .idle ∨ r.state = .failed ∨ (status = 0 ∧ r.state = .locked) →
          Told i s [0, BitVec.ofNat 8 r.state.code])))

/-- The loss of a tuner, by a current NO-SIGNAL report or by its tune timer, where it serves live viewing and nothing is
planned: the tuner is FAILED with the SIGNAL mark and a recheck timer, the hold is lost, a directive of no multiplex is
issued, and the USABLE notice says so. The other tuner stays as it is (R69, R70, R71, R75, R77). The recheck timer of a
FAILED tuner with no other mark expires where nothing is planned: the tuner is IDLE and usable again, and the USABLE
notice says so (R72, R76, R77). A tuner lost while it serves one local booking pushes it: the booking is SUSPENDED, its
segments closed, in the unplaced list, and a SIGNAL record stands on the tuner's stack; its return ends the cause and pops
the record: the booking is PREPARING on the tuner, which is sent tuning to its multiplex (R75, R76, R109 to R111, R114,
R115). There the other tuner is FAILED and the booking may not seek. Where no timer runs a time-driven command has no
effect (the model's choice, log entry 3); an expiry lets the clock count on to its due instant (log entry 2); the bytes of
the answer are log entry 19's and the place in the order of entry into PREPARING log entry 12's. -/
def Obligations.LossAndReturnOfATuner : Prop :=
  (∀ (n : Nat) (m : Live) (due : Nat) (s : State),
    let k : Tuner := if n = 0 then .A else .B
    let r := s.sch.tuners.get k
    let failed (now : Nat) : TunerRec :=
      { state := .failed, captures := [], live := none, directive := ⟨(r.directive.serial + 1) % 65536, none, none, []⟩,
        unread := true, tuneTimer := none, recheck := some (now + s.base.cfg.recheck * 4096000),
        marks := { r.marks with signal := true } }
    let after (now : Nat) : Sched :=
      { s.sch with
        tuners := s.sch.tuners.set k (failed now)
        notices := s.sch.notices ++ [.usable k false { r.marks with signal := true } .failed true] }
    n ≤ 1 → n < s.base.cfg.fitted → s.base.cfg.fitted ≤ 2 → s.sch.Bare → s.sch.Settled → s.sch.Room 1 →
    s.sch.budget = 2 → s.sch.usable k = true → r.live = some m → r.captures = [] →
    (s.sch.tuners.get k.other).live = none → (s.sch.tuners.get k.other).marks.budget = false →
    (s.Takes → r.state = .tuning ∨ r.state = .unknown ∨ r.state = .locked →
      ∃ t, Answered (.tunerReport n r.directive.serial 1) s t .ok [0, 3] ∧ t.base = s.base ∧
        t.sch = after s.base.now) ∧
    (s.resetLow = false → r.state = .tuning ∨ r.state = .unknown → r.tuneTimer = some (due, r.directive.serial) →
      ∃ t, Happened (.tuneTimerExpiry n) s t ∧ t.base = (s.countTo due).base ∧ t.sch = after t.base.now)) ∧
  (∀ (n due : Nat) (s : State), s.resetLow = false →
    let k : Tuner := if n = 0 then .A else .B
    let r := s.sch.tuners.get k
    (n ≤ 1 → n < s.base.cfg.fitted → s.base.cfg.fitted ≤ 2 → s.sch.Bare → s.sch.Settled → s.sch.Room 1 →
      s.sch.budget = 2 → r.state = .failed → r.recheck = some due → r.live = none → r.marks = ⟨false, true, false⟩ →
      (s.sch.tuners.get k.other).marks.budget = false →
      ∃ t, Happened (.recheckTimerExpiry n) s t ∧ t.base = (s.countTo due).base ∧
        t.sch =
          { s.sch with
            tuners := s.sch.tuners.set k { r with state := .idle, recheck := none, marks := ⟨false, false, false⟩ }
            notices := s.sch.notices ++ [.usable k true ⟨false, false, false⟩ .idle false] }) ∧
    (1 < n ∨ r.state ≠ .failed ∨ r.recheck = none → exec (.recheckTimerExpiry n) s = .next s)) ∧
  (∀ (n h d : Nat) (m : Bool) (kd : TrigKind) (b : Booking) (s : State), s.Takes →
    let k : Tuner := if n = 0 then .A else .B
    let r := s.sch.tuners.get k
    let c := { b with state := .suspended, plan := .absent, segs := closeOpen s.base.clock b.segs }
    n ≤ 1 → n < s.base.cfg.fitted → s.base.cfg.fitted ≤ 2 → s.sch.Settled → s.sch.Room 1 → s.base.station ≠ .joined →
    1 ≤ s.base.cfg.depth → s.sch.usable k = true → r.live = none →
    r.state = .tuning ∨ r.state = .unknown ∨ r.state = .locked →
    s.sch.usable k.other = false → (s.sch.tuners.get k.other).state = .failed →
    s.sch.plans.get k = [⟨h, m⟩] → s.sch.plans.get k.other = [] → s.sch.stacked = ⟨[], []⟩ → s.sch.unplaced = [] →
    s.sch.bk h = some b → b.cls ≠ .hosted → b.state = .preparing ∨ b.state = .recording ∨ b.state = .paused →
    (∀ y ∈ r.captures, y.handle = h) → (∀ y ∈ (s.sch.tuners.get k.other).captures, y.handle ≠ h) →
    c.armed s.base = some (kd, d) → s.base.clock < d →
    ∃ t, Answered (.tunerReport n r.directive.serial 1) s t .ok [0, 3] ∧ t.base = s.base ∧ t.sch.bk h = some c ∧
      (∀ g, g ≠ h → t.sch.bk g = s.sch.bk g) ∧
      t.sch =
        { s.sch with
          bookings := t.sch.bookings
          triggers := insertTrigger ⟨h, kd, d⟩ (s.sch.triggers.filter fun y => y.handle != h)
          plans := ⟨[], []⟩
          unplaced := [h]
          stacked := s.sch.stacked.set k [⟨[h], b.mux, s.base.clock, .signal, none, false⟩]
          tuners := s.sch.tuners.set k
            { state := .failed, captures := [], live := none,
              directive := ⟨(r.directive.serial + 1) % 65536, none, none, []⟩, unread := true, tuneTimer := none,
              recheck := some (s.base.now + s.base.cfg.recheck * 4096000), marks := { r.marks with signal := true } }
          notices := s.sch.notices ++ [.usable k false { r.marks with signal := true } .failed false] }) ∧
  (∀ (n due h d u : Nat) (kd : TrigKind) (b : Booking) (s : State), s.resetLow = false →
    let k : Tuner := if n = 0 then .A else .B
    let r := s.sch.tuners.get k
    let v := (s.countTo due).base
    let serial := (r.directive.serial + 1) % 65536
    let c := { b with state := .preparing, plan := .tuner k, prepSeq := s.sch.prepCtr }
    n ≤ 1 → n < s.base.cfg.fitted → s.base.cfg.fitted ≤ 2 → s.sch.Settled → s.sch.Room 1 → 1 ≤ s.sch.budget →
    r.state = .failed → r.recheck = some due → r.live = none → r.marks = ⟨false, true, false⟩ →
    s.sch.usable k.other = false → (s.sch.tuners.get k.other).state = .failed →
    s.sch.plans = ⟨[], []⟩ → s.sch.stacked.get k = [⟨[h], b.mux, u, .signal, none, false⟩] →
    s.sch.stacked.get k.other = [] → s.sch.unplaced = [h] → s.sch.bk h = some b → b.state = .suspended →
    v.clock < b.closeTime v → c.armed v = some (kd, d) → v.clock < d →
    ∃ t, Happened (.recheckTimerExpiry n) s t ∧ t.base = v ∧ t.sch.bk h = some c ∧
      (∀ g, g ≠ h → t.sch.bk g = s.sch.bk g) ∧
      t.sch =
        { s.sch with
          bookings := t.sch.bookings
          prepCtr := s.sch.prepCtr + 1
          triggers := insertTrigger ⟨h, kd, d⟩ (s.sch.triggers.filter fun y => y.handle != h)
          plans := s.sch.plans.set k [⟨h, false⟩]
          unplaced := []
          stacked := ⟨[], []⟩
          tuners := s.sch.tuners.set k
            { state := .tuning, captures := r.captures, live := none,
              directive := ⟨serial, some b.mux, none, r.captures⟩, unread := true,
              tuneTimer := some (v.now + v.cfg.tuneTimeout * 4096000, serial), recheck := none,
              marks := ⟨false, false, false⟩ }
          notices := s.sch.notices ++ [.usable k true ⟨false, false, false⟩ .idle false] })

/-- POWER_BUDGET is refused BAD-VALUE above 2. Otherwise the budget takes the value, and the answer lists the usable
tuners by index, the lower first (the model's choice of encoding, log entry 19). With two tuners that are free, of equal
top rank, a budget of 1 keeps the lower: each tuner left out takes the BUDGET mark, with a USABLE notice each, the lower
first (R74, R75, R77; that order is log entry 35's). -/
def Obligations.PowerBudget : Prop :=
  ∀ (n : Nat) (s : State), s.Takes →
    (2 < n → Refused (.powerBudget n) s .badValue) ∧
    (n ≤ 2 → ∃ t l, Answered (.powerBudget n) s t .ok l ∧ t.base = s.base ∧ t.sch.budget = n ∧
      ({ s.sch with budget := n } : Sched).Evolves t.sch) ∧
    (n ≤ 2 → s.base.cfg.fitted = 2 → s.sch.Bare → s.sch.Settled → s.sch.Room 2 → s.sch.tuners.a.live = none →
      s.sch.tuners.b.live = none → s.sch.usable .A = true → s.sch.usable .B = true → s.sch.tuners.a.state ≠ .failed →
      s.sch.tuners.b.state ≠ .failed →
      let out (k : Tuner) : Bool := match k with | .A => n == 0 | .B => n ≤ 1
      let rec' (k : Tuner) : TunerRec := { s.sch.tuners.get k with marks := ⟨false, false, out k⟩ }
      let note (k : Tuner) : List Notice :=
        if out k then [.usable k false ⟨false, false, true⟩ (s.sch.tuners.get k).state false] else []
      ∃ t, Answered (.powerBudget n) s t .ok
          (match n with | 0 => [0] | 1 => [1, 0] | _ => [2, 0, 1]) ∧
        t.base = s.base ∧
        t.sch =
          { s.sch with
            budget := n, tuners := ⟨rec' .A, rec' .B⟩, notices := s.sch.notices ++ note .A ++ note .B })

/-- HOLD_LIVE is refused BAD-VALUE for a force that is neither yes nor no and BAD-STATE when no tuner is usable. Where
nothing is planned the lowest usable tuner takes the hold, and a directive of its multiplex and service is issued, which
starts tuning an IDLE tuner (R65, R66, R78, R80). HOLD_LIVE that would displace bookings under the policy REFER without
force is answered CONFLICT with the chosen tuner and their handles in order, and changes nothing: the one usable tuner,
with no hold on that multiplex, serves occupants none of which is on it (R78, R79). With force, it displaces its one local
occupant: the booking is SUSPENDED in the unplaced list, a LIVE record stands on the stack, and the tuner is sent to the
hold's multiplex (R80, R109 to R111). RELEASE_LIVE is refused BAD-STATE when no tuner has a hold. Where nothing else
stands on the tuner, the hold goes, a directive of no multiplex is issued, the tuner is IDLE with its tune timer stopped,
and the answer names it (R66, R82). It pops a LIVE record: the booking is PREPARING on the tuner again (R110, R114, R115;
its place in the order of entry is log entry 12's). A bad force flag before BAD-STATE is log entry 34's order. A hold that
moves, and one on a shared tuner, are left out. -/
def Obligations.LiveViewing : Prop :=
  (∀ (m v force : Nat) (s : State), s.Takes →
    (1 < force → Refused (.holdLive m v force) s .badValue) ∧
    (force ≤ 1 → s.sch.usable .A = false → s.sch.usable .B = false → Refused (.holdLive m v force) s .badState) ∧
    (force ≤ 1 → s.sch.Bare → s.sch.Settled → s.sch.tuners.a.live = none → s.sch.tuners.b.live = none →
      ∀ k, s.sch.usable k = true → (k = .B → s.sch.usable .A = false) →
      let r := s.sch.tuners.get k
      r.state = .idle →
      let serial := (r.directive.serial + 1) % 65536
      ∃ t, Answered (.holdLive m v force) s t .ok
          [BitVec.ofNat 8 k.index, BitVec.ofNat 8 (serial / 256), BitVec.ofNat 8 serial, 0] ∧
        t.base = s.base ∧
        t.sch =
          { s.sch with
            tuners := s.sch.tuners.set k
              { r with
                state := .tuning
                live := some ⟨m, v⟩
                directive := ⟨serial, some m, some v, r.captures⟩
                unread := true
                tuneTimer := some (s.base.now + s.base.cfg.tuneTimeout * 4096000, serial) } })) ∧
  (∀ (m v : Nat) (s : State), s.Takes → s.base.cfg.liveRefer = true →
    ∀ k : Tuner, s.sch.usable k = true → s.sch.usable k.other = false → (s.sch.tuners.get k).live = none →
      s.sch.occupants k ≠ [] → (∀ b ∈ s.sch.occupants k, b.mux ≠ m) →
      ((s.sch.occupants k).map Booking.handle).Pairwise (· < ·) →
      ∃ t, Answered (.holdLive m v 0) s t .conflict
          (BitVec.ofNat 8 k.index :: BitVec.ofNat 8 (s.sch.occupants k).length ::
            (s.sch.occupants k).map fun b => BitVec.ofNat 8 b.handle) ∧
        t.base = s.base ∧ t.sch = s.sch) ∧
  (∀ s : State, s.Takes →
    (s.sch.tuners.a.live = none → s.sch.tuners.b.live = none → Refused .releaseLive s .badState) ∧
    ∀ k : Tuner, ∀ l, (s.sch.tuners.get k).live = some l → (s.sch.tuners.get k.other).live = none → s.sch.Bare →
      s.sch.Settled → (s.sch.tuners.get k).state ≠ .failed →
      let r := s.sch.tuners.get k
      ∃ t, Answered .releaseLive s t .ok [BitVec.ofNat 8 k.index] ∧ t.base = s.base ∧
        t.sch =
          { s.sch with
            tuners := s.sch.tuners.set k
              { r with
                state := .idle
                live := none
                directive := ⟨(r.directive.serial + 1) % 65536, none, none, r.captures⟩
                unread := true
                tuneTimer := none } }) ∧
  ∀ (h d : Nat) (kd : TrigKind) (k : Tuner) (b : Booking) (s : State), s.Takes → s.sch.Settled →
    s.sch.usable k = true → (s.sch.tuners.get k.other).live = none → (s.sch.tuners.get k).state ≠ .failed →
    s.sch.bk h = some b → s.sch.plans.get k.other = [] → s.sch.stacked.get k.other = [] → s.base.clock < d →
    let v := s.base
    let r := s.sch.tuners.get k
    let serial := (r.directive.serial + 1) % 65536
    let tuned (mux : Nat) (live : Option Live) (l : List Capture) : Two TunerRec :=
      s.sch.tuners.set k
        { r with
          state := .tuning, live := live, captures := l, unread := true
          directive := ⟨serial, some mux, live.map (·.service), l⟩
          tuneTimer := some (v.now + v.cfg.tuneTimeout * 4096000, serial) }
    let armed := insertTrigger ⟨h, kd, d⟩ (s.sch.triggers.filter fun y => y.handle != h)
    (∀ (m service : Nat) (mark : Bool), s.sch.usable k.other = false → r.live = none → v.station ≠ .joined →
      1 ≤ v.cfg.depth → s.sch.plans.get k = [⟨h, mark⟩] → s.sch.stacked.get k = [] → s.sch.unplaced = [] →
      b.cls ≠ .hosted → b.state = .preparing ∨ b.state = .recording ∨ b.state = .paused → b.mux ≠ m →
      (∀ y ∈ r.captures, y.handle = h) → (∀ y ∈ (s.sch.tuners.get k.other).captures, y.handle ≠ h) →
      let c := { b with state := .suspended, plan := .absent, segs := closeOpen v.clock b.segs }
      c.armed v = some (kd, d) →
      ∃ t, Answered (.holdLive m service 1) s t .ok (field1 k.index ++ field2 serial ++ 1 :: field1 h) ∧ t.base = v ∧
        t.sch.bk h = some c ∧ (∀ g, g ≠ h → t.sch.bk g = s.sch.bk g) ∧
        t.sch =
          { s.sch with
            bookings := t.sch.bookings, triggers := armed, plans := ⟨[], []⟩, unplaced := [h]
            stacked := s.sch.stacked.set k [⟨[h], b.mux, v.clock, .live, none, false⟩]
            tuners := tuned m (some ⟨m, service⟩) [] }) ∧
    (∀ (l : Live) (u : Nat), r.live = some l → l.mux ≠ b.mux → s.sch.plans.get k = [] →
      s.sch.stacked.get k = [⟨[h], b.mux, u, .live, none, false⟩] → s.sch.unplaced = [h] → b.state = .suspended →
      v.clock < b.closeTime v →
      let c := { b with state := .preparing, plan := .tuner k, prepSeq := s.sch.prepCtr }
      c.armed v = some (kd, d) →
      ∃ t, Answered .releaseLive s t .ok (field1 k.index) ∧ t.base = v ∧ t.sch.bk h = some c ∧
        (∀ g, g ≠ h → t.sch.bk g = s.sch.bk g) ∧
        t.sch =
          { s.sch with
            bookings := t.sch.bookings, prepCtr := s.sch.prepCtr + 1, triggers := armed
            plans := s.sch.plans.set k [⟨h, false⟩], unplaced := [], stacked := ⟨[], []⟩
            tuners := tuned b.mux none r.captures })

/-- The figures that a tuner's occupants give: the needed multiplex is that of the LIVE hold, else that of the booking
occupant that entered PREPARING earliest; the top rank is 0 under a hold, else the best rank, 31 with no occupant; the
busy-until is open under a hold, else the latest close time, the clock with no occupant (R63). -/
def Obligations.FiguresOfATuner : Prop :=
  ∀ (v : Base) (s : Sched) (k : Tuner),
    (∀ l, (s.tuners.get k).live = some l →
      s.neededMux k = some l.mux ∧ s.topRank k = 0 ∧ s.busyUntil v k = none) ∧
    ((s.tuners.get k).live = none →
      (s.occupants k = [] → s.neededMux k = none ∧ s.topRank k = 31 ∧ s.busyUntil v k = some v.clock) ∧
      (∀ b ∈ s.occupants k, (∀ c ∈ s.occupants k, c = b ∨ b.prepSeq < c.prepSeq) → s.neededMux k = some b.mux) ∧
      (s.occupants k ≠ [] → (∀ b ∈ s.occupants k, b.rank ≤ 31) →
        (∃ b ∈ s.occupants k, s.topRank k = b.rank) ∧ (∀ b ∈ s.occupants k, s.topRank k ≤ b.rank) ∧
        ∃ u, s.busyUntil v k = some u ∧ (∃ b ∈ s.occupants k, u = b.closeTime v) ∧
          ∀ b ∈ s.occupants k, b.closeTime v ≤ u))

/-! ## Triggers and endings -/

/-- The times of the triggers and the close time (R31), and the trigger that the table of R32 arms in each state. -/
def Obligations.ArmedTrigger : Prop :=
  ∀ (v : Base) (b : Booking),
    let prepare := b.start - 60 * b.pre - v.cfg.tuneLead
    let start := b.start - 60 * b.pre
    let grace := min (b.start + 60 * v.cfg.grace) (b.finish - 60)
    let stop := (if b.follow then b.endedAt.getD b.finish else b.finish) + 60 * b.post
    let overrun := b.finish + 60 * v.cfg.overrun
    let goesOn := b.running = some .running ∨ b.running = some .paused
    let closing : TrigKind × Nat :=
      if b.follow = true ∧ (overrun < stop ∨ (stop ≤ v.clock ∧ goesOn)) then (.overrun, overrun) else (.stop, stop)
    b.closeTime v = (if b.follow = true then (if goesOn then overrun else min stop overrun) else stop) ∧
    b.armed v =
      match b.state with
      | .waiting | .suspended | .recording | .paused => some closing
      | .planned | .seeking => some (.prepare, prepare)
      | .referred =>
        if v.clock < prepare then some (.prepare, prepare) else if v.clock < start then some (.start, start) else some closing
      | .preparing =>
        if v.clock < start then some (.start, start)
        else if b.follow = true ∧ v.clock < grace ∧ grace < closing.2 then some (.grace, grace)
        else some closing
      | .lent =>
        some (.overrun, b.finish + 60 * b.post + 60 * v.cfg.overrun + if b.peerLost then 0 else 300)
      | .covered => some (.stop, b.finish + 60 * b.post)
      | .ended => none

/-- The outcome that the segments of a booking give (R121): MISSED with none; COMPLETE when every instant from the start
up to the end lies in at least one of them; PARTIAL otherwise. -/
def Obligations.SegmentsGiveTheOutcome : Prop :=
  ∀ (b : Booking) (missed part : Reason),
    (b.segs = [] → b.bySegs missed part = (.missed, missed)) ∧
    (b.segs ≠ [] →
      ((∀ u, b.start ≤ u → u < b.finish → ∃ g ∈ b.segs, g.frm ≤ u ∧ u < g.til.getD g.frm) →
        b.bySegs missed part = (.complete, .none)) ∧
      (¬(∀ u, b.start ≤ u → u < b.finish → ∃ g ∈ b.segs, g.frm ≤ u ∧ u < g.til.getD g.frm) →
        b.bySegs missed part = (.partly, part)))

/-- What the timed events of bookings, tuners, engine and holds leave unchanged: the base but for the count of the clock,
the port, the counters, the budget, the marks heard and the fixed fields of bookings and links; notices and pending
outcomes only join the tail, and every capacity holds. The clock counts on to the due instant of the event (the model's
choice, log entry 2); with none due nothing happens (log entry 3). -/
def Obligations.TimedEventsKeepTheRest : Prop :=
  ∀ (n : Nat) (j : BookingId) (i : Instr) (s : State), s.resetLow = false →
    i ∈ [Instr.prepare n, .start n, .grace n, .stop n, .overrun n, .tuneTimerExpiry n, .recheckTimerExpiry n,
      .seekReadyTime n, .bidWindowEnd, .takeTimerExpiry, .confirmDeadlineExpiry n, .holdExpiry j,
      .lapsedRecordDiscard j] →
    match Instr.due s i with
    | none => exec i s = .next s
    | some u => ∃ t, Happened i s t ∧ t.base = (s.countTo u).base ∧ s.sch.Evolves t.sch

/-- PREPARE on a booking PLANNED on a usable, idle tuner that nothing else is planned on: it enters PREPARING, its plan
entry's pre-empts mark is cleared, START is armed, the tuner is sent TUNING by a directive of the booking's multiplex, and
an EPISODE booking of a JOINED station offers its MARK (R33, R65, R66, R98, R99, R177). Over one local occupant on another
multiplex, of a strictly worse rank and displaced by the vector or by the pre-empts mark, it pushes the occupant: that is
SUSPENDED in the unplaced list, and a RANK record that names the booking stands on the stack (R98, R99, R109 to R111);
there the other tuner is not usable and the occupant may not seek. A hosted booking of two segments at most whose check
fails with no usable tuner is returned: a RETURN of reason CAPACITY is offered, and its entry is freed (R100, R171). A
trigger that is not armed has no effect (the model's choice, log entry 3); one that is lets the clock count on to its time
(log entry 2); the place in the order of entry into PREPARING is log entry 12's. -/
def Obligations.PrepareStartsTuning : Prop :=
  ∀ (h d : Nat) (m : Bool) (k : Tuner) (b : Booking) (s : State), s.resetLow = false →
    ((∀ x, s.sch.trigger h = some x → x.kind ≠ .prepare) → exec (.prepare h) s = .next s) ∧
    (s.sch.trigger h = some ⟨h, .prepare, d⟩ → s.sch.bk h = some b → b.state = .planned → b.plan = .tuner k →
      s.sch.plans.get k.other = [] → s.sch.stacked = ⟨[], []⟩ → s.sch.unplaced = [] → s.sch.Settled →
      let v := (s.countTo (d * 4096000)).base
      let r := s.sch.tuners.get k
      let serial := (r.directive.serial + 1) % 65536
      let day := v.clock / 86400
      let short : Nat → Nat := fun u =>
        if u + 86400 < day * 86400 then 0 else min 65535 ((u + 86400 - day * 86400) / 60)
      let send (rank : Nat) (msg : Msg) : List QMsg :=
        if s.sch.txq.length < 12 then s.sch.txq ++ [⟨v.cfg.household, v.cfg.station, rank, msg, none, false⟩]
        else s.sch.txq
      let now : Booking := { b with state := .preparing, prepSeq := s.sch.prepCtr }
      let tuned (l : List Capture) : Two TunerRec :=
        s.sch.tuners.set k
          { r with
            state := .tuning, captures := l, unread := true, directive := ⟨serial, some b.mux, none, l⟩
            tuneTimer := some (v.now + v.cfg.tuneTimeout * 4096000, serial) }
      (s.sch.usable k = true → r.live = none → r.state = .idle → s.sch.plans.get k = [⟨h, m⟩] →
        v.clock < b.start - 60 * b.pre →
        let series := b.link.bind fun j => (s.sch.links.find? fun l => l.id == j).map (·.series)
        ∃ t, Happened (.prepare h) s t ∧ t.base = v ∧ t.sch.bk h = some now ∧
          (∀ g, g ≠ h → t.sch.bk g = s.sch.bk g) ∧
          t.sch =
            { s.sch with
              bookings := t.sch.bookings
              prepCtr := s.sch.prepCtr + 1
              plans := s.sch.plans.set k [⟨h, false⟩]
              triggers := insertTrigger ⟨h, .start, b.start - 60 * b.pre⟩ (s.sch.triggers.filter fun y => y.handle != h)
              txq := match b.cls, b.episode, series with
                | .episode, some ep, some se =>
                  if v.station = .joined then
                    send (1 + 2 * b.priority) (.mark ⟨day % 256, se, ep, 1 + 2 * b.priority, 1, short b.start⟩)
                  else s.sch.txq
                | _, _, _ => s.sch.txq
              tuners := tuned r.captures }) ∧
      (∀ (g dc : Nat) (m' : Bool) (kc : TrigKind) (c : Booking), s.sch.bk g = some c → g ≠ h →
        s.sch.plans.get k = [⟨g, m'⟩, ⟨h, m⟩] ∨ s.sch.plans.get k = [⟨h, m⟩, ⟨g, m'⟩] →
        s.sch.usable k = true → r.live = none → r.state ≠ .failed → s.sch.usable k.other = false →
        v.station ≠ .joined → 1 ≤ v.cfg.depth → b.start - 60 * b.pre - v.cfg.tuneLead ≤ v.clock →
        v.clock < b.start - 60 * b.pre → v.clock < b.closeTime v →
        c.cls ≠ .hosted → c.state = .preparing ∨ c.state = .recording ∨ c.state = .paused → c.mux ≠ b.mux →
        c.start - 60 * c.pre - v.cfg.tuneLead ≤ v.clock → v.clock < c.closeTime v → b.rank < c.rank →
        v.auto c.cls b.cls = true ∨ m = true →
        (∀ y ∈ r.captures, y.handle = g) → (∀ y ∈ (s.sch.tuners.get k.other).captures, y.handle ≠ g) →
        let c' := { c with state := .suspended, plan := .absent, segs := closeOpen v.clock c.segs }
        c'.armed v = some (kc, dc) → v.clock < dc →
        ∃ t, Happened (.prepare h) s t ∧ t.base = v ∧ t.sch.bk h = some now ∧ t.sch.bk g = some c' ∧
          (∀ j, j ≠ h → j ≠ g → t.sch.bk j = s.sch.bk j) ∧
          t.sch =
            { s.sch with
              bookings := t.sch.bookings
              prepCtr := s.sch.prepCtr + 1
              plans := s.sch.plans.set k [⟨h, false⟩]
              unplaced := [g]
              stacked := s.sch.stacked.set k [⟨[g], c.mux, v.clock, .rank, some (h, b.id), false⟩]
              triggers := insertTrigger ⟨h, .start, b.start - 60 * b.pre⟩
                ((insertTrigger ⟨g, kc, dc⟩ (s.sch.triggers.filter fun y => y.handle != g)).filter fun y => y.handle != h)
              tuners := tuned [] }) ∧
      (b.cls = .hosted → b.segs.length ≤ 2 → s.sch.usable .A = false → s.sch.usable .B = false →
        s.sch.plans.get k = [⟨h, m⟩] → s.sch.AtRest → (∀ x ∈ s.sch.referrals, x.handle ≠ h) →
        (∀ u, ∀ y ∈ (s.sch.tuners.get u).captures, y.handle ≠ h) →
        let back : ReturnFields :=
          ⟨b.id, 4, day % 256, (closeOpen v.clock b.segs).map fun g =>
            (short (g.frm / 60 * 60), short ((g.til.getD g.frm + 59) / 60 * 60))⟩
        ∃ t, Happened (.prepare h) s t ∧ t.base = v ∧
          t.sch =
            { s.sch with
              bookings := s.sch.bookings.filter fun y => y.handle != h
              plans := ⟨[], []⟩
              triggers := s.sch.triggers.filter fun y => y.handle != h
              txq := if v.station = .joined ∨ v.station = .leaving then send (2 + 2 * b.priority) (.giveBack back)
                else s.sch.txq }))

/-- START or GRACE on a PREPARING booking whose tuner is LOCKED on its multiplex, its START time passed and its running
field allowing it: it is RECORDING with a new segment open at the clock, it joins the tail of the tuner's capture list,
and a directive carries the list (R34, R35, R41, R64). One that has a segment and whose running field is PAUSED at its
GRACE time is PAUSED, still on its tuner (R35). Where the tuner is not LOCKED on the booking's multiplex the booking waits
and its trigger is re-armed. The trigger lets the clock count on to its time (the model's choice, log entry 2). -/
def Obligations.StartAndGraceBeginTheCapture : Prop :=
  ∀ (i : Instr) (kind kind' : TrigKind) (h d d' : Nat) (k : Tuner) (b : Booking) (s : State), s.resetLow = false →
    (i = .start h ∧ kind = .start) ∨ (i = .grace h ∧ kind = .grace) → s.sch.trigger h = some ⟨h, kind, d⟩ →
    s.sch.bk h = some b → b.state = .preparing → b.plan = .tuner k → s.sch.Settled →
    let v := (s.countTo (d * 4096000)).base
    let r := s.sch.tuners.get k
    let armed := insertTrigger ⟨h, kind', d'⟩ (s.sch.triggers.filter fun y => y.handle != h)
    v.clock < d' →
    (let c := { b with
        state := .recording, segs := b.segs ++ [⟨v.cfg.station, some k, v.clock, none⟩] }
     let l := r.captures ++ [⟨b.service, h⟩]
     r.state = .locked → r.directive.mux = some b.mux → r.captures.length < 4 → b.segs.length < 4 →
      b.start - 60 * b.pre ≤ v.clock →
      (b.follow = false ∨ b.running = some .running ∨ (b.running = some .ended ∧ b.segs ≠ []) ∨
        (min (b.start + 60 * v.cfg.grace) (b.finish - 60) ≤ v.clock ∧ (b.running ≠ some .paused ∨ b.segs = []))) →
      c.armed v = some (kind', d') →
      ∃ t, Happened i s t ∧ t.base = v ∧ t.sch.bk h = some c ∧ (∀ g, g ≠ h → t.sch.bk g = s.sch.bk g) ∧
        t.sch =
          { s.sch with
            bookings := t.sch.bookings
            triggers := armed
            tuners := s.sch.tuners.set k
              { r with
                captures := l
                directive := ⟨(r.directive.serial + 1) % 65536, some b.mux, r.live.map (·.service), l⟩
                unread := true } }) ∧
    (let c := { b with state := .paused }
     r.state = .locked → r.directive.mux = some b.mux → b.start - 60 * b.pre ≤ v.clock → b.follow = true →
      b.running = some .paused → b.segs ≠ [] → min (b.start + 60 * v.cfg.grace) (b.finish - 60) ≤ v.clock →
      c.armed v = some (kind', d') →
      ∃ t, Happened i s t ∧ t.base = v ∧ t.sch.bk h = some c ∧ (∀ g, g ≠ h → t.sch.bk g = s.sch.bk g) ∧
        t.sch = { s.sch with bookings := t.sch.bookings, triggers := armed }) ∧
    (r.state ≠ .locked ∨ r.directive.mux ≠ some b.mux → b.armed v = some (kind', d') →
      ∃ t, Happened i s t ∧ t.base = v ∧ t.sch = { s.sch with triggers := armed })

/-- STOP and OVERRUN end a booking by its state: with the outcome and reason of the table of R36, its segments closed, and
its OUTCOME reported. STOP on a follow booking whose running field is RUNNING or PAUSED, but not in COVERED, leaves it and
arms OVERRUN; OVERRUN is not set aside (R37). A hosted booking's tally finds room; where nothing is unplaced, suspended or
seeking, its tally record and its TALLY say the same outcome, reason and segments (R172). The model's choices: the trigger
lets the clock count on to its time (log entry 2), a WAITING, REFERRED or PREPARING booking with segments is PARTIAL also
where they cover it, R36 taken over R8 (log entry 51), and the number of a tally record is the model's own (log entry
12). -/
def Obligations.StopAndOverrunEndTheBooking : Prop :=
  ∀ (i : Instr) (kind : TrigKind) (h d : Nat) (b : Booking) (s : State), s.resetLow = false →
    (i = .stop h ∧ kind = .stop) ∨ (i = .overrun h ∧ kind = .overrun) → s.sch.trigger h = some ⟨h, kind, d⟩ →
    s.sch.bk h = some b → b.state ≠ .ended → (b.cls = .hosted → s.sch.tallies.length < 8) →
    let v := (s.countTo (d * 4096000)).base
    let goesOn := b.follow = true ∧ (b.running = some .running ∨ b.running = some .paused)
    let c := { b with segs := closeOpen v.clock b.segs }
    let suspended : Reason := if s.sch.pushReason h = some .signal then .signal else .displaced
    let o : BOutcome × Reason :=
      match b.state with
      | .covered => (.covered, .none)
      | .lent => (.unknown, if b.peerLost then .peerLost else .none)
      | .preparing => if b.segs = [] then (.missed, .signal) else (.partly, .signal)
      | .recording | .paused => c.bySegs .none .none
      | .suspended => c.bySegs suspended suspended
      | _ => if b.segs = [] then (.missed, .noTuner) else (.partly, .displaced)
    (kind = .overrun ∨ ¬goesOn ∨ b.state = .covered →
      ∃ t, Happened i s t ∧ t.base = v ∧ s.sch.Evolves t.sch ∧
        s.sch.Reported t.sch h (b.endedNotice v.clock o) ∧
        (b.cls = .hosted → s.sch.AtRest → Sched.Tallied v s.sch t.sch v.clock o b)) ∧
    (kind = .stop → goesOn → b.state ≠ .covered → s.sch.Settled → ∀ kind' d', b.armed v = some (kind', d') → v.clock < d' →
      ∃ t, Happened i s t ∧ t.base = v ∧
        t.sch =
          { s.sch with
            triggers := insertTrigger ⟨h, kind', d'⟩ (s.sch.triggers.filter fun y => y.handle != h) })

/-! ## Station life -/

/-- The settings of CONFIGURE outside their ranges (R190), or a record that is locked, or a station number that a HOSTED
entry names as its origin, refuse it. Taken in DETACHED with no booking in the table and the fitted count unchanged, it
puts the whole record in force and changes nothing else but the peer table, which is empty for the new station number. -/
def Obligations.Configure : Prop :=
  ∀ (c : ConfigFields) (s : State), s.Takes →
    let yesNo (n : Nat) := n = 0 ∨ n = 1
    let good :=
      (1 ≤ c.station ∧ c.station ≤ 8 ∧ c.household ≤ 65535 ∧ 1 ≤ c.fitted ∧ c.fitted ≤ 2 ∧ 2 ≤ c.rollPeriod ∧
        c.rollPeriod ≤ 30 ∧ (c.window = 6 ∨ c.window = 8 ∨ c.window = 10) ∧ yesNo c.debounce) ∧
      (2 ≤ c.skew ∧ c.skew ≤ 60 ∧ c.clash.length = 16 ∧ (∀ n ∈ c.clash, yesNo n) ∧ yesNo c.livePolicy ∧ c.depth ≤ 3 ∧
        250 ≤ c.bidWindow ∧ c.bidWindow ≤ 4000 ∧ 500 ≤ c.takeTimeout ∧ c.takeTimeout ≤ 4000) ∧
      (1 ≤ c.seekLimit ∧ c.seekLimit ≤ 5 ∧ 10 ≤ c.tuneLead ∧ c.tuneLead ≤ 120 ∧ 2 ≤ c.tuneTimeout ∧
        c.tuneTimeout ≤ 30 ∧ 30 ≤ c.recheck ∧ c.recheck ≤ 600 ∧ c.grace ≤ 60 ∧ c.overrun ≤ 180)
    let locked := s.base.station = .joining ∨ s.base.station = .joined ∨ s.base.station = .leaving
    let hosted := ∃ b ∈ s.sch.bookings, b.cls = .hosted ∧ b.id.origin = c.station
    (locked → Refused (.configure c) s .badState) ∧
    (¬locked → ¬good → Refused (.configure c) s .badValue) ∧
    (¬locked → good → hosted → Refused (.configure c) s .badState) ∧
    (good → s.base.station = .detached → s.sch.bookings = [] → s.sch.Bare → s.sch.Settled →
      c.fitted = s.base.cfg.fitted →
      ∃ t, Answered (.configure c) s t .ok [0] ∧ t.sch = s.sch ∧
        t.base =
          { s.base with
            cfg :=
              { station := c.station, household := c.household, fitted := c.fitted, rollPeriod := c.rollPeriod,
                window := c.window, debounce := c.debounce == 0, skew := c.skew, clash := c.clash.map (· == 1),
                liveRefer := c.livePolicy == 1, depth := c.depth, bidWindow := c.bidWindow,
                takeTimeout := c.takeTimeout, seekLimit := c.seekLimit, tuneLead := c.tuneLead,
                tuneTimeout := c.tuneTimeout, recheck := c.recheck, grace := c.grace, overrun := c.overrun }
            joinTimer := none, leaveTimer := none, rollTimer := none, leavingSent := false
            peers := Peer.emptyTable c.station })

/-- JOIN is refused BAD-STATE in any state but DETACHED. There the station goes to JOINING, a ROLL with the JOINING flag
is offered, the roll timer and the join timer start, and a STATION notice is queued (R141, R142, R192). The join timer of
a station still JOINING expires: the station is JOINED, its roll timer starts again with a ROLL that carries no JOINING
flag, and a STATION notice is queued; with nothing unplaced nothing else changes (R192). With no join timer running its
expiry has no effect (the model's choice, log entry 3); one that runs lets the clock count on (log entry 2). -/
def Obligations.JoinAndItsTimer : Prop :=
  (∀ s : State, s.Takes →
    (s.base.station ≠ .detached → Refused .join s .badState) ∧
    (s.base.station = .detached → s.sch.txq = [] → s.sch.Room 1 →
      ∃ t q r, Answered .join s t .ok [] ∧
        t.base =
          { s.base with
            station := .joining
            rollTimer := some (s.base.now + s.base.cfg.rollPeriod * 4096000)
            joinTimer := some (s.base.now + 3 * s.base.cfg.rollPeriod * 4096000) } ∧
        t.sch = { s.sch with txq := [q], notices := s.sch.notices ++ [.station .joining .join] } ∧
        q.household = s.base.cfg.household ∧ q.sender = s.base.cfg.station ∧ q.rank = 31 ∧ q.msg = .roll r ∧
        r.incarnation = s.base.incarnation ∧ r.flags = ⟨!s.base.timed, s.base.rxFault, false, true⟩ ∧
        r.period = s.base.cfg.rollPeriod ∧ r.day = s.base.clock / 86400)) ∧
  (∀ (d : Nat) (s : State), s.resetLow = false →
    (s.base.station ≠ .joining ∨ s.base.joinTimer = none → exec .joinTimerExpiry s = .next s) ∧
    (s.base.station = .joining → s.base.joinTimer = some d → s.sch.txq = [] → s.sch.unplaced = [] → s.sch.Settled →
      s.sch.Room 1 →
      let v := (s.countTo d).base
      ∃ t q r, Happened .joinTimerExpiry s t ∧
        t.base =
          { v with station := .joined, joinTimer := none, rollTimer := some (v.now + v.cfg.rollPeriod * 4096000) } ∧
        t.sch = { s.sch with txq := [q], notices := s.sch.notices ++ [.station .joined .joined] } ∧
        q.msg = .roll r ∧ r.flags = ⟨!v.timed, v.rxFault, false, false⟩))

/-- LEAVE is refused BAD-STATE in DETACHED, LEAVING and ISOLATED. In JOINED and JOINING the station goes to LEAVING: the
join timer stops, the roll timer and the leave timer start, holds and lapsed records are discarded, a ROLL with the
LEAVING flag is offered, and a STATION notice is queued; here no booking stands with another station (R181, R193). The
leave timer of a station LEAVING expires: the station is DETACHED, its timers are stopped, its peer table and its transmit
queue are empty, and so are the holds, the lapsed records and the marks heard; a STATION notice is queued. Here no booking
stands with another station and no tally waits (R135, R181, R193, R194). With no leave timer running its expiry has no
effect (the model's choice, log entry 3); one that runs lets the clock count on (log entry 2). -/
def Obligations.LeaveAndItsTimer : Prop :=
  (∀ s : State, s.Takes →
    (s.base.station = .detached ∨ s.base.station = .leaving ∨ s.base.station = .isolated → Refused .leave s .badState) ∧
    (s.base.station = .joined ∨ s.base.station = .joining → s.sch.bookings = [] → s.sch.seekQueue = [] → s.sch.txq = [] →
      s.sch.Bare → s.sch.Settled → s.sch.Room 1 →
      ∃ t q r, Answered .leave s t .ok [] ∧
        t.base =
          { s.base with
            station := .leaving, joinTimer := none, leavingSent := false
            rollTimer := some (s.base.now + s.base.cfg.rollPeriod * 4096000)
            leaveTimer := some (s.base.now + 10 * 4096000) } ∧
        t.sch =
          { s.sch with
            txq := [q], holds := [], lapsed := [], notices := s.sch.notices ++ [.station .leaving .leave] } ∧
        q.msg = .roll r ∧ r.flags = ⟨!s.base.timed, s.base.rxFault, true, false⟩)) ∧
  (∀ (d : Nat) (s : State), s.resetLow = false →
    (s.base.station ≠ .leaving ∨ s.base.leaveTimer = none → exec .leaveTimerExpiry s = .next s) ∧
    (s.base.station = .leaving → s.base.leaveTimer = some d → s.sch.bookings = [] → s.sch.seekQueue = [] →
      s.sch.tallies = [] → s.sch.Bare → s.sch.Settled → s.sch.Room 1 →
      ∃ t, Happened .leaveTimerExpiry s t ∧
        t.base =
          { (s.countTo d).base with
            station := .detached, joinTimer := none, leaveTimer := none, rollTimer := none, leavingSent := false
            peers := Peer.emptyTable s.base.cfg.station } ∧
        t.sch =
          { s.sch with
            txq := [], waitingRoll := none, attempt := none, holds := [], lapsed := [], marks := []
            notices := s.sch.notices ++ [.station .detached .leaveTimeout] }))

/-- RESTART is taken in every station state: the incarnation rises by 1, 255 being followed by 1, and the answer carries
the station state and the incarnation after it. The clock, the configuration, the receive side and the last sent sequence
are kept; the peer table is empty. JOINED and JOINING go to JOINING with roll and join timers started, the others to
DETACHED. Notices and pending outcomes stay in their places, and every booking record keeps its fixed fields. RESTART in
DETACHED with no booking in the table: every fitted tuner is IDLE with its live hold and its timers gone and its SIGNAL
mark clear, and has a new directive of no multiplex; the Broker's holds, lapsed records and seek queue are empty (R85,
R135, R181). RESTART reaches the one booking of the table (R21, R42, R108), its trigger not due: LENT and COVERED keep
their place and take a confirm deadline of four roll periods from the clock; SEEKING is WAITING in the unplaced list, where
no tuner is usable (a budget of 0); PREPARING, RECORDING and PAUSED before the close time is PREPARING with its segments
closed, its tuner UNKNOWN under a new directive of its multiplex. That it keeps its place in the order of entry is log
entry 12's. -/
def Obligations.Restart : Prop :=
  (∀ s : State, s.Takes →
    let joins := s.base.station = .joined ∨ s.base.station = .joining
    let n := if s.base.incarnation < 255 then s.base.incarnation + 1 else 1
    ∃ t, Answered .restart s t .ok [if joins then 1 else 0, BitVec.ofNat 8 n] ∧
      t.base =
        { s.base with
          station := if joins then .joining else .detached
          incarnation := n
          joinTimer := if joins then some (s.base.now + 3 * s.base.cfg.rollPeriod * 4096000) else none
          leaveTimer := none
          rollTimer := if joins then some (s.base.now + s.base.cfg.rollPeriod * 4096000) else none
          leavingSent := false
          peers := Peer.emptyTable s.base.cfg.station } ∧
      s.sch.notices <+: t.sch.notices ∧ s.sch.pendingOutcomes <+: t.sch.pendingOutcomes ∧
      t.sch.orderCtr = s.sch.orderCtr ∧ t.sch.serialCtr = s.sch.serialCtr ∧ t.sch.linkCtr = s.sch.linkCtr ∧
      t.sch.budget = s.sch.budget ∧ t.sch.marks = [] ∧ t.sch.links.map Link.fixed = s.sch.links.map Link.fixed ∧
      ∀ b ∈ t.sch.bookings, ∃ a ∈ s.sch.bookings, b.fixed = a.fixed) ∧
  (∀ s : State, s.Takes → s.base.station = .detached → s.base.cfg.fitted = 2 → s.sch.bookings = [] → s.sch.Bare →
    s.sch.budget = 2 → s.sch.tuners.a.marks = ⟨false, false, false⟩ → s.sch.tuners.b.marks = ⟨false, false, false⟩ →
    let again (r : TunerRec) : TunerRec :=
      { state := .idle, captures := [], live := none, directive := ⟨(r.directive.serial + 1) % 65536, none, none, []⟩,
        unread := true, tuneTimer := none, recheck := none, marks := ⟨false, false, false⟩ }
    ∃ t, Answered .restart s t .ok
        [0, BitVec.ofNat 8 (if s.base.incarnation < 255 then s.base.incarnation + 1 else 1)] ∧
      t.sch =
        { s.sch with
          tuners := ⟨again s.sch.tuners.a, again s.sch.tuners.b⟩
          txq := [], waitingRoll := none, attempt := none, seekQueue := [], engine := .idle, holds := [], lapsed := []
          marks := [], tallies := s.sch.tallies.map fun r => { r with offered := false } }) ∧
  (∀ (b : Booking) (kd : TrigKind) (d : Nat) (s : State), s.Takes → s.sch.bookings = [b] → s.base.clock < d →
    ((b.state = .lent ∧ ∃ n, b.plan = .lent n) ∨ (b.state = .covered ∧ ∃ n, b.plan = .covered n) →
      s.base.station ≠ .leaving → s.base.station ≠ .isolated → s.sch.Bare → b.armed s.base = some (kd, d) →
      ∃ t l, Answered .restart s t .ok l ∧ t.sch.bookings =
        [{ b with confirm := some ((s.base.clock + 4 * s.base.cfg.rollPeriod) * 4096000) }] ∧
        t.sch.triggers = insertTrigger ⟨b.handle, kd, d⟩ (s.sch.triggers.filter fun y => y.handle != b.handle)) ∧
    (let c := { b with state := .waiting, plan := .absent, confirm := none, peerLost := false }
     b.state = .seeking → s.base.cfg.fitted = 2 → s.sch.budget = 0 → s.sch.Bare → c.armed s.base = some (kd, d) →
      ∃ t l, Answered .restart s t .ok l ∧ t.sch.bookings = [c] ∧ t.sch.unplaced = [b.handle] ∧ t.sch.seekQueue = [] ∧
        t.sch.engine = .idle) ∧
    ∀ (k : Tuner) (m : Bool),
      let c := { b with state := .preparing, segs := closeOpen s.base.clock b.segs }
      let r := s.sch.tuners.get k
      let serial := (r.directive.serial + 1) % 65536
      b.state = .preparing ∨ b.state = .recording ∨ b.state = .paused → b.plan = .tuner k →
      s.base.clock < b.closeTime s.base → s.base.cfg.fitted = 2 → s.sch.budget = 2 →
      s.sch.tuners.a.marks.fitted = false → s.sch.tuners.b.marks.fitted = false →
      s.sch.plans.get k = [⟨b.handle, m⟩] → s.sch.plans.get k.other = [] → s.sch.stacked = ⟨[], []⟩ →
      c.armed s.base = some (kd, d) →
      ∃ t l, Answered .restart s t .ok l ∧ t.sch.bookings = [c] ∧ t.sch.plans = s.sch.plans ∧
        t.sch.tuners.get k =
          { state := .unknown, captures := [], live := none, directive := ⟨serial, some b.mux, none, []⟩, unread := true,
            tuneTimer := some (s.base.now + s.base.cfg.tuneTimeout * 4096000, serial), recheck := none,
            marks := ⟨false, false, false⟩ })

/-! ## The link -/

/-- Receivers remove exactly the turn bits that a sender inserts: what follows the start bit of a frame is read back whole;
and what a sender puts on the wire, from the start bit on, holds no five equal bits in a row; a receiver that reads five has
found a turn fault and reads nothing back (R124). -/
def Obligations.TurnBitsAreRemoved : Prop :=
  (∀ (first : Bool) (bits : List Bool), removeTurnBits first 1 (turnBits first 1 bits) = some bits) ∧
  (∀ (first : Bool) (bits before after : List Bool) (b : Bool),
    first :: turnBits first 1 bits ≠ before ++ List.replicate 5 b ++ after) ∧
  ∀ (first : Bool) (bits before after : List Bool) (b : Bool),
    first :: bits = before ++ List.replicate 5 b ++ after → removeTurnBits first 1 bits = none

/-- What a counted frame does to the receive-fault window, the count of consecutive good frames and the RX-FAULT flag: the
window keeps the last 16 results, the flag is set by a bad result that leaves at least 3 bad ones, and cleared by the good
result that brings the count to 16; a LINK-FAULT notice is offered at each change of the flag (R137). A bad frame is
counted bad; a malformed one is counted bad when it is of the station's household and ignored when it is of another.
Either ends the quiet of the line, and nothing else changes where no attempt of this station is in progress. -/
def Obligations.CountedFrames : Prop :=
  (∀ (good : Bool) (s : State),
    let w := s.base.window ++ [good]
    let kept := w.drop (w.length - 16)
    let bad := (kept.filter fun g => !g).length
    let run := if good then min 16 (s.base.goodRun + 1) else 0
    let flag :=
      if good = true ∧ run = 16 then false else if good = false ∧ 3 ≤ bad then true else s.base.rxFault
    (s.countFrame good).base = { s.base with window := kept, goodRun := run, rxFault := flag } ∧
    (s.countFrame good).sch = if flag = s.base.rxFault then s.sch else s.sch.notice (.linkFault flag bad)) ∧
  (∀ (i : Instr) (s : State), s.resetLow = false → s.sch.attempt = none →
    let heard : State := { s with base := { s.base with idleBits := 0 } }
    ((∃ why, i = .badFrameReceived why) ∨ (∃ c, i = .malformedFrame s.base.cfg.household c) →
      exec i s = .next (heard.countFrame false)) ∧
    ((∃ hh c, i = .malformedFrame hh c ∧ hh ≠ s.base.cfg.household) → exec i s = .next heard))

/-- An attempt begins, after ten recessive bit times, with the message of the lowest key: the message is marked, and its
frame, turn bits included, is on the wire. A ROLL takes the clock and the number after the last sent sequence. With an
attempt in progress, or an empty queue, nothing begins (the model's choice, log entry 18, is that no time passes in the
frame itself). A message sent leaves the queue, with the attempt; a ROLL sent makes its sequence the last sent one, and
one that waits beside it takes its place in the queue (R133, R134, R143). The station is not LEAVING. The SEEK that the
engine waits for, the last offered, is sent: its bid window opens and ends the configured time later, whatever waits that
was offered before it (log entry 23). The AWARD that it waits for is sent: the take timer starts. The TALLY of a tally record is sent: the record that it was composed from is removed, the others
stay (R134, R161, R164, R172; its number is log entry 12's). -/
def Obligations.AttemptsBeginAndAreSent : Prop :=
  (∀ s : State, s.resetLow = false →
    (s.sch.attempt ≠ none ∨ s.sch.txq = [] → exec .attemptStart s = .next s) ∧
    (s.sch.attempt = none → s.base.idleBits = 10 →
      ∀ before q after, s.sch.txq = before ++ q :: after →
        (∀ x ∈ before, q.msg.cls < x.msg.cls ∨ (q.msg.cls = x.msg.cls ∧ q.rank < x.rank)) →
        (∀ x ∈ after, q.msg.cls < x.msg.cls ∨ (q.msg.cls = x.msg.cls ∧ q.rank ≤ x.rank)) →
        let sent := { q with
          att := true
          msg := match q.msg with
            | .roll r => .roll { r with sequence := (s.base.lastSent + 1) % 256, clock := s.base.clock }
            | m => m }
        exec .attemptStart s = .next
          { s with
            base := { s.base with idleBits := 0 }
            sch := { s.sch with txq := before ++ sent :: after, attempt := some sent.wire } })) ∧
  (∀ (before : List QMsg) (q : QMsg) (after : List QMsg) (bits : List Bool) (s : State), s.resetLow = false →
    s.sch.attempt = some bits → s.sch.txq = before ++ q :: after → q.att = true →
    (∀ x ∈ before ++ after, x.att = false) → s.base.station ≠ .leaving → (∀ f n, q.msg ≠ .tally f n) →
    s.sch.engine = .idle →
    exec .messageSent s = .next
      { s with
        base :=
          { s.base with
            idleBits := 0
            lastSent := match q.msg with | .roll r => r.sequence | _ => s.base.lastSent }
        sch :=
          { s.sch with txq := before ++ s.sch.waitingRoll.toList ++ after, waitingRoll := none, attempt := none } }) ∧
  (∀ (before : List QMsg) (q : QMsg) (bits : List Bool) (s : State), s.resetLow = false → s.sch.attempt = some bits →
    s.sch.txq = before ++ [q] → (∀ x ∈ before, x.att = false) → q.att = true → s.sch.waitingRoll = none →
    s.base.station ≠ .leaving →
    let off := { s.sch with txq := before, attempt := none }
    let base := { s.base with idleBits := 0 }
    (∀ f h bids b, q.msg = .seek f → s.sch.engine = .collecting h none bids → s.sch.bk h = some b → b.id = f.id →
      b.attempts = f.number →
      exec .messageSent s = .next
        { s with
          base := base
          sch := { off with engine := .collecting h (some (s.base.now + s.base.cfg.bidWindow * 4096)) bids } }) ∧
    (∀ f h st bids b, q.msg = .award f → s.sch.engine = .awaiting h st none bids → s.sch.bk h = some b → b.id = f.id →
      b.attempts = f.number → st = f.awardee →
      exec .messageSent s = .next
        { s with
          base := base
          sch := { off with engine := .awaiting h st (some (s.base.now + s.base.cfg.takeTimeout * 4096)) bids } }) ∧
    ∀ f n, q.msg = .tally f n →
      exec .messageSent s = .next
        { s with base := base, sch := { off with tallies := s.sch.tallies.filter fun r => r.record != n } })

/-- An attempt that fails, for whichever cause, leaves its message in its place in the queue, out of an attempt, and uses
up no roll sequence; a ROLL that waits beside the attempt takes the message's place, and a BID whose window has ended goes
with its own hold: that of its booking id, seek number and window end (R127, R133, R143, R168). A BID that waits in the
queue past its bid window end is removed unsent and its own hold is discarded (R133, R167). With no attempt in progress,
or no such BID, nothing happens (the model's choice, log entry 3); the removal lets the clock count on to the window end
(log entry 2). -/
def Obligations.AttemptsFailAndBidsGo : Prop :=
  (∀ (why : AttemptEnd) (s : State), s.resetLow = false →
    (s.sch.attempt = none → exec (.attemptFailed why) s = .next s) ∧
    ∀ before q after bits, s.sch.attempt = some bits → s.sch.txq = before ++ q :: after → q.att = true →
      (∀ x ∈ before ++ after, x.att = false) → s.base.station ≠ .leaving →
      let base := { s.base with idleBits := 0 }
      (s.sch.waitingRoll = none → (∀ u, q.bidEnd = some u → s.base.now < u) → exec (.attemptFailed why) s = .next
        { s with
          base := base, sch := { s.sch with txq := before ++ { q with att := false } :: after, attempt := none } }) ∧
      (∀ r, s.sch.waitingRoll = some r → q.bidEnd = none → exec (.attemptFailed why) s = .next
        { s with base := base, sch := { s.sch with txq := before ++ r :: after, waitingRoll := none, attempt := none } }) ∧
      (∀ u f, s.sch.waitingRoll = none → q.bidEnd = some u → u ≤ s.base.now → q.msg = .bid f →
        exec (.attemptFailed why) s = .next
          { s with
            base := base
            sch := { s.sch with
              txq := before ++ after, attempt := none
              holds := s.sch.holds.filter fun x => !(x.id == f.id && x.number == f.number && x.bidEnd == u) } })) ∧
  (∀ (j : BookingId) (s : State), (∀ q ∈ s.sch.txq, ∀ f, q.msg = .bid f → f.id ≠ j ∨ q.att = true ∨ q.bidEnd = none) →
    exec (.queuedBidRemoved j) s = .next s) ∧
  (∀ (j : BookingId) (u : Nat) (before : List QMsg) (q : QMsg) (after : List QMsg) (f : BidFields) (s : State),
    s.resetLow = false → s.base.station ≠ .leaving → s.sch.txq = before ++ q :: after → q.msg = .bid f → f.id = j →
    q.att = false → q.bidEnd = some u →
    (∀ x ∈ before ++ after, ∀ g, x.msg = .bid g → g.id = j → x.att = false →
      ∀ w ∈ x.bidEnd, u ≤ w ∧ (s.countTo u).base.now < w) →
    u ≤ (s.countTo u).base.now →
    ∃ t, Happened (.queuedBidRemoved j) s t ∧ t.base = (s.countTo u).base ∧
      t.sch =
        { s.sch with
          txq := before ++ after
          holds := s.sch.holds.filter fun x => !(x.id == j && x.number == f.number && x.bidEnd == u) })

/-- The roll sequence: the field of a ROLL is written at the start of each attempt as one more than the last sent
sequence, 255 being followed by 0, together with the clock; a ROLL sent makes it the last sent one; an attempt that fails,
and a ROLL that is offered, replaced or dropped, leave it; cold reset sets it to 255, so that the first ROLL carries 0;
warm restart keeps it, and a peer does not weigh the sequence of a ROLL whose incarnation has changed. -/
def Obligations.RollSequence : Prop :=
  (∀ (s : State) (before : List QMsg) (q : QMsg) (after : List QMsg) (r : RollMsg), s.resetLow = false →
    s.sch.attempt = none → s.sch.txq = before ++ q :: after → q.msg = .roll r →
    (∀ x ∈ before, q.msg.cls < x.msg.cls ∨ (q.msg.cls = x.msg.cls ∧ q.rank < x.rank)) →
    (∀ x ∈ after, q.msg.cls < x.msg.cls ∨ (q.msg.cls = x.msg.cls ∧ q.rank ≤ x.rank)) →
    ∃ t q', exec .attemptStart s = .next t ∧ t.sch.txq = before ++ q' :: after ∧ q'.att = true ∧
      q'.msg = .roll { r with sequence := if s.base.lastSent = 255 then 0 else (s.base.lastSent + 1) % 256,
                              clock := t.base.clock } ∧ t.base.lastSent = s.base.lastSent) ∧
  (∀ (s : State) (before : List QMsg) (q : QMsg) (after : List QMsg) (r : RollMsg) (bits : List Bool),
    s.resetLow = false → s.sch.attempt = some bits → s.sch.txq = before ++ q :: after → q.att = true →
    (∀ x ∈ before, x.att = false) → q.msg = .roll r →
    ∃ t, exec .messageSent s = .next t ∧ t.base.lastSent = r.sequence) ∧
  (∀ (s t : State) (why : AttemptEnd), exec (.attemptFailed why) s = .next t → t.base.lastSent = s.base.lastSent) ∧
  (∀ (s t : State), ∀ i ∈ [Instr.rollTimerExpiry, .join, .joinTimerExpiry, .leave, .restart],
    exec i s = .next t → t.base.lastSent = s.base.lastSent) ∧
  (∀ (s t : State), exec .coldReset s = .next t → t.base.lastSent = 255) ∧
  ∀ (v : Base) (f : RollFields) (p : Peer) (n : Nat), p.incarnation ≠ some f.incarnation →
    p.judge v { f with sequence := n } = p.judge v f

/-! ## Presence -/

/-- The roll timer expires: it is restarted for one more roll period from that expiry, and a ROLL composed from the
station's state is offered, after the messages that wait; the flags say whether the station is UNTIMED, RX-FAULT, LEAVING
or JOINING, and each fitted tuner is carried with its state, multiplex, busy-until and top rank: in short form, 65,535
for open (R29, R130, R141, R142). The station is JOINED and no tally waits. The expiry lets the clock count on to its due
instant (the model's choice, log entry 2). That the ROLL of an UNTIMED station carries short busy-until times too, against
R23's words, is the model's choice (log entry 47). -/
def Obligations.RollTimerExpiry : Prop :=
  ∀ (d : Nat) (s : State), s.resetLow = false → s.base.rollTimer = some d → s.base.station = .joined →
    s.sch.txq.length < 12 → (∀ q ∈ s.sch.txq, q.msg.isRoll = false) → s.sch.tallies = [] →
    let v := (s.countTo d).base
    ∃ t q r, Happened .rollTimerExpiry s t ∧ t.base = { v with rollTimer := some (d + v.cfg.rollPeriod * 4096000) } ∧
      t.sch = { s.sch with txq := s.sch.txq ++ [q] } ∧ q.household = v.cfg.household ∧ q.sender = v.cfg.station ∧
      q.rank = 31 ∧ q.att = false ∧ q.msg = .roll r ∧ r.incarnation = v.incarnation ∧
      r.flags = ⟨!v.timed, v.rxFault, false, false⟩ ∧ r.period = v.cfg.rollPeriod ∧ r.day = v.clock / 86400 ∧
      r.usable = (s.sch.usable .A).toNat + (s.sch.usable .B).toNat ∧
      r.tuners =
        ((if v.cfg.fitted = 1 then [Tuner.A] else [.A, .B]).map fun k =>
          { state := (s.sch.tuners.get k).state.code
            mux := (s.sch.tuners.get k).directive.mux
            busy := match s.sch.busyUntil v k with
              | none => 65535
              | some u =>
                if u + 86400 < v.clock / 86400 * 86400 then 0
                else min 65535 ((u + 86400 - v.clock / 86400 * 86400) / 60)
            top := s.sch.topRank k })

/-- Each interval result joins the tail of a peer's history, which keeps the last W; the counts follow it (R149); and the
presence then moves by the first row of the table that matches (R150). A record that becomes ABSENT keeps its station and
its incarnation alone (R151): that its roll period is cleared too is the model's choice (log entry 26). One that is opened
begins with an empty history and counts of 0 (R146). -/
def Obligations.IntervalResults : Prop :=
  (∀ (w : Nat) (r : Interval) (p : Peer),
    let history := (p.history ++ [r]).drop ((p.history ++ [r]).length - w)
    let good := if r = .good then min 255 (p.good + 1) else 0
    let missing := if r = .missing then min 255 (p.missing + 1) else 0
    let faulty := (history.filter fun x => x != .good).length
    let next : Presence :=
      match p.presence with
      | .absent => .absent
      | .hearing => if r ≠ .good then .absent else if 3 ≤ good then .present else .hearing
      | .present =>
        if r ≠ .good ∧ 3 ≤ missing then .absent else if r ≠ .good ∧ 2 ≤ faulty then .suspect else .present
      | .suspect =>
        if r ≠ .good ∧ (4 ≤ faulty ∨ 3 ≤ missing) then .absent else if r = .good ∧ 3 ≤ good then .present else .suspect
    p.settled w r =
      if next = .absent then Peer.absentOf p.station p.incarnation
      else { p with history := history, good := good, missing := missing, presence := next }) ∧
  (∀ n inc, (Peer.absentOf n inc).history = [] ∧ (Peer.absentOf n inc).good = 0 ∧ (Peer.absentOf n inc).missing = 0 ∧
    (Peer.absentOf n inc).presence = .absent) ∧
  ∀ v f p, (Peer.opened v f p).history = [] ∧ (Peer.opened v f p).good = 0 ∧ (Peer.opened v f p).missing = 0

/-- An interval deadline passes: a MISSING result joins the history and the next deadline is one roll period on. A peer
that stays, or becomes SUSPECT, is not handed on; one that becomes ABSENT is handed on with a PEER notice, and the holds
and lapsed records of its SEEKs go: here nothing stands LENT to it or COVERED by it and the engine is IDLE (R148 to R151,
R156, R174). A confirm deadline passes with the peer not PRESENT: a LENT booking past its PREPARE time takes the peer-lost
mark, and its lent deadline is re-armed; with the peer PRESENT the deadline is cleared and nothing else changes (R174,
R175). Each lets the clock count on to its due instant (the model's choice, log entry 2). A LENT booking before its PREPARE
time and a COVERED one are left out. -/
def Obligations.DeadlinesOfPeers : Prop :=
  (∀ (n d : Nat) (p : Peer) (s : State), s.resetLow = false → s.base.peer n = some p → p.deadline = some d →
    s.sch.Settled →
    let v := (s.countTo d).base
    let q := ({ p with deadline := some (d + p.period.getD 0 * 4096000) } : Peer).settled v.cfg.window .missing
    let base := { v with peers := v.peers.map fun x => if x.station == n then q else x }
    (q.presence ≠ .absent →
      ∃ t, Happened (.intervalDeadlineExpiry n) s t ∧ t.base = base ∧ t.sch = s.sch) ∧
    (q.presence = .absent → p.presence ≠ .absent → (∀ b ∈ s.sch.bookings, b.state ≠ .lent ∧ b.state ≠ .covered) →
      s.sch.engine = .idle → s.sch.Room 1 →
      ∃ t, Happened (.intervalDeadlineExpiry n) s t ∧ t.base = base ∧
        t.sch =
          { s.sch with
            holds := s.sch.holds.filter fun x => x.id.origin != n
            lapsed := s.sch.lapsed.filter fun x => x.id.origin != n
            notices := s.sch.notices ++ [.peer n p.presence .absent .missing p.incarnation none false] })) ∧
  (∀ (h n d : Nat) (b : Booking) (s : State), s.resetLow = false → s.sch.bk h = some b → b.confirm = some d →
    b.state = .lent → b.plan = .lent n → s.sch.Settled →
    let v := (s.countTo d).base
    (v.isPresent n = true →
      ∃ t, Happened (.confirmDeadlineExpiry h) s t ∧ t.base = v ∧ t.sch.bk h = some { b with confirm := none } ∧
        t.sch = { s.sch with bookings := t.sch.bookings } ∧ ∀ g, g ≠ h → t.sch.bk g = s.sch.bk g) ∧
    (v.isPresent n = false → b.start - 60 * b.pre - v.cfg.tuneLead ≤ v.clock →
      let lentDeadline := b.finish + 60 * b.post + 60 * v.cfg.overrun
      v.clock < lentDeadline →
      ∃ t, Happened (.confirmDeadlineExpiry h) s t ∧ t.base = v ∧
        t.sch.bk h = some { b with confirm := none, peerLost := true } ∧
        t.sch =
          { s.sch with
            bookings := t.sch.bookings
            triggers := insertTrigger ⟨h, .overrun, lentDeadline⟩ (s.sch.triggers.filter fun y => y.handle != h) } ∧
        ∀ g, g ≠ h → t.sch.bk g = s.sch.bk g))

/-- A ROLL with LEAVING makes its sender's record ABSENT; where it was not ABSENT the peer is lost, with a PEER notice of
cause LEAVING (R151, R156). Else one that finds the record ABSENT opens it: HEARING, with what the ROLL carries, no
history, a deadline of one and a half roll periods, and its view the candidate, in force only without debounce (R146,
R153). An incarnation of 0 in place of another drops the peer's tally records, each with an ORPHAN notice, and ends a
booking LENT to it with the peer-lost mark UNKNOWN; any other change after absence does nothing (R155, R174). Else the
ROLL renews the record; its interval is FAULTY when its sequence does not follow, with the incarnation unchanged, or when
clocks that are set disagree by more than the skew tolerance, and GOOD otherwise; the result moves history, counts and
presence as IntervalResults states (R145 to R152). Then (R156) entering PRESENT makes a PEER notice; becoming ABSENT the
loss of the peer, with cause FAULTY; a changed incarnation the loss of the peer and its tally records when it is 0 (COLD),
and otherwise (WARM) of the seek and bid state shared with it, with cause INCARNATION. A ROLL that changes both presence
and incarnation makes both, the presence first: the model's choice (log entry 40). At a loss or a WARM change the peer's
bid, holds and lapsed records go, and an AWARD outstanding to it counts as its DECLINE (here with no other bid left, below
the seek limit), after a WITHDRAW when the peer is lost (R165, R174). A lost or newly PRESENT peer has no booking LENT or
COVERED here, a newly PRESENT one no tally, and with one newly eligible nothing is unplaced. A ROLL of the station's own
number makes it ISOLATED with a STATION notice (R139). -/
def Obligations.RollArrival : Prop :=
  ∀ (h : FrameHead) (f : RollFields) (p : Peer) (s : State),
    rollAdmitted f = true → s.sch.Settled →
    let v := s.base.heard
    let flags : RollFlags :=
      ⟨f.flags % 2 == 1, f.flags / 2 % 2 == 1, f.flags / 4 % 2 == 1, f.flags / 8 % 2 == 1⟩
    let view : View :=
      ⟨f.usable, f.tuners.map fun k =>
        ⟨k.state, k.mux, if k.busy = 65535 then none else some (f.day * 86400 + 60 * k.busy - 86400), k.top⟩⟩
    let deadline := s.base.now + f.period * 4096000 * 3 / 2
    let absent : Peer := .absentOf h.sender (some f.incarnation)
    let leaves (q : Peer) (x : Sched) : Prop :=
      ∃ t, Happened (.rollArrival h f) s t ∧ t.sch = x ∧
        t.base = { v with peers := v.peers.map fun y => if y.station == h.sender then q else y }
    let ofSender (r : TallyRec) : Bool := r.id.origin == h.sender
    let orphans := (s.sch.tallies.filter ofSender).map fun r => Notice.orphan r.id r.outcome .originReset
    let alone : Prop := ∀ b ∈ s.sch.bookings,
      (b.state = .lent → b.plan ≠ .lent h.sender) ∧ (b.state = .covered → b.plan ≠ .covered h.sender)
    let voided (lost : Bool) (x : Sched) : Prop :=
      let shared : Sched :=
        { s.sch with
          holds := s.sch.holds.filter fun y => y.id.origin != h.sender
          lapsed := s.sch.lapsed.filter fun y => y.id.origin != h.sender }
      let others (bids : List Bid) := bids.filter fun y => y.station != h.sender
      (s.sch.engine = .idle ∧ x = shared) ∨
      (∃ g w bids, s.sch.engine = .collecting g w bids ∧ x = { shared with engine := .collecting g w (others bids) }) ∨
      (∃ g st w bids, s.sch.engine = .awaiting g st w bids ∧ st ≠ h.sender ∧
        x = { shared with engine := .awaiting g st w (others bids) }) ∨
      ∃ g w bids b ready, s.sch.engine = .awaiting g h.sender w bids ∧ others bids = [] ∧ s.sch.bk g = some b ∧
        b.state = .seeking ∧ 1 ≤ b.attempts ∧ b.attempts < s.base.cfg.seekLimit ∧ s.sch.seekQueue = [⟨g, ready⟩] ∧
        s.sch.txq.length < 12 ∧
        x =
          { shared with
            engine := .idle
            seekQueue := [⟨g, some (s.base.now + (10 * b.attempts + s.base.cfg.station) * 4096000)⟩]
            txq := s.sch.txq ++
              if lost then
                [⟨s.base.cfg.household, s.base.cfg.station, 2 + 2 * b.priority, .withdraw b.id h.sender, none, false⟩]
              else [] }
    (s.Hears h → s.base.peer h.sender = some p →
      (f.flags / 4 % 2 = 1 →
        (p.presence = .absent → leaves absent s.sch) ∧
        (p.presence ≠ .absent → alone → s.sch.Room 1 → ∀ x, voided true x →
          leaves absent
            { x with
              notices := s.sch.notices ++
                [.peer h.sender p.presence .absent .leaving (some f.incarnation) none false] })) ∧
      (f.flags / 4 % 2 = 0 → p.presence = .absent →
        let opened : Peer :=
          { station := h.sender, presence := .hearing, incarnation := some f.incarnation, lastSeq := some f.sequence,
            period := some f.period, day := some f.day, prevDay := none, flags := flags, history := [], good := 0,
            missing := 0, view := if s.base.cfg.debounce then none else some view, candidate := some view,
            deadline := some deadline }
        (p.incarnation = none ∨ p.incarnation = some f.incarnation ∨ f.incarnation ≠ 0 → leaves opened s.sch) ∧
        (p.incarnation ≠ none → p.incarnation ≠ some 0 → f.incarnation = 0 →
          ((∀ b ∈ s.sch.bookings, b.state = .lent → b.plan = .lent h.sender → b.peerLost = false) →
            s.sch.Room orphans.length →
            leaves opened
              { s.sch with
                tallies := s.sch.tallies.filter fun r => !ofSender r
                notices := s.sch.notices ++ orphans }) ∧
          ∀ b, s.sch.bookings = [b] → b.state = .lent → b.plan = .lent h.sender → b.peerLost = true →
            b.cls ≠ .hosted → s.sch.Bare → s.sch.AtRest → s.sch.referrals = [] →
            (∀ k, (s.sch.tuners.get k).captures = []) →
            (∀ r ∈ s.sch.tallies, ofSender r = false) → s.sch.Room 1 →
            leaves opened
              { s.sch with
                bookings := []
                triggers := s.sch.triggers.filter fun y => y.handle != b.handle
                notices := s.sch.notices ++ [b.endedNotice s.base.clock (.unknown, .peerLost)] })) ∧
      (f.flags / 4 % 2 = 0 → p.presence ≠ .absent →
        let same : Bool := p.incarnation == some f.incarnation
        let cold : Bool := !same && f.incarnation == 0
        let skewed : Bool := s.base.timed && f.flags % 2 == 0 &&
          (f.clock + s.base.cfg.skew < s.base.clock || s.base.clock + s.base.cfg.skew < f.clock)
        let jumped : Bool := same && p.lastSeq.any fun n => f.sequence != (n + 1) % 256
        let renewed : Peer :=
          { p with
            incarnation := some f.incarnation
            lastSeq := some f.sequence
            period := some f.period
            day := some f.day
            prevDay := if p.day = some f.day then p.prevDay else p.day
            flags := flags
            view := if s.base.cfg.debounce = true ∧ p.candidate ≠ some view then p.view else some view
            candidate := some view
            deadline := some deadline }
        let q := renewed.settled s.base.cfg.window (if jumped || skewed then .faulty else .good)
        let enters : Bool := q.presence == .present && p.presence != .present
        let gone : Bool := q.presence == .absent
        let moves : List Notice :=
          if enters then [.peer h.sender p.presence .present .goodIntervals (some f.incarnation) none q.eligible]
          else if gone then [.peer h.sender p.presence .absent .faulty (some f.incarnation) none false]
          else []
        let restarts : List Notice :=
          if same then []
          else (if cold then orphans else []) ++
            [.peer h.sender p.presence q.presence .incarnation (some f.incarnation)
              (some (if f.incarnation = 0 then .cold else .warm)) q.eligible]
        (enters || gone || cold → alone) → (enters → ∀ y ∈ s.sch.tallies, ofSender y = false) →
        (q.eligible = true → p.eligible = true ∨ s.sch.unplaced = []) →
        (enters || gone || !same → s.sch.Room (orphans.length + 2)) →
        ∀ x, (if gone || !same then voided (gone || cold) x else x = s.sch) →
          leaves q
            { x with
              tallies := if cold then s.sch.tallies.filter fun y => !ofSender y else s.sch.tallies
              notices := s.sch.notices ++ moves ++ restarts })) ∧
    (s.resetLow = false → h.household = s.base.cfg.household → h.sender = s.base.cfg.station →
      s.base.station = .joined ∨ s.base.station = .joining → s.sch.attempt = none → s.base.rxFault = false →
      s.sch.bookings = [] → s.sch.seekQueue = [] → s.sch.tallies = [] → s.sch.Bare → s.sch.Room 1 →
      ∃ t, Happened (.rollArrival h f) s t ∧
        t.base = { v with station := .isolated, joinTimer := none, leaveTimer := none, leavingSent := false } ∧
        t.sch =
          { s.sch with
            txq := [], waitingRoll := none, holds := [], lapsed := []
            notices := s.sch.notices ++ [.station .isolated .duplicate] })

/-! ## The household -/

/-- A BID that names the engine's SEEK, from an eligible station and while the bid window is open, joins the bid list in
place of an earlier one of its sender; one that names another booking or seek number is ignored (R162). The engine's
booking is SEEKING (R160). TAKE from the awardee, with the booking id and the seek number of the AWARD: the booking is LENT
to it, leaves the seek queue, and OVERRUN is armed at its lent deadline; the engine is IDLE. TAKE and DECLINE of another
seek number, or from another station, are ignored (R164). -/
def Obligations.BidAndTakeArrivals : Prop :=
  (∀ (h : FrameHead) (f : BidFields) (handle window : Nat) (bids : List Bid) (b : Booking) (s : State), s.Hears h →
    bidAdmitted h f = true → f.id.origin = s.base.cfg.station → s.sch.engine = .collecting handle (some window) bids →
    s.sch.bk handle = some b →
    (b.id = f.id → b.attempts = f.number → s.base.now ≤ window → s.base.isEligible h.sender = true →
      exec (.bidArrival h f) s = .next
        { s with
          base := s.base.heard
          sch := { s.sch with
            engine := .collecting handle (some window)
              (bids.filter (fun y => y.station != h.sender) ++ [⟨h.sender, f.cost, f.tuner, f.displaced⟩]) } }) ∧
    (b.id ≠ f.id ∨ b.attempts ≠ f.number →
      exec (.bidArrival h f) s = .next { s with base := s.base.heard })) ∧
  (∀ (h : FrameHead) (handle st : Nat) (w ready : Option Nat) (bids : List Bid) (b : Booking) (number reason : Nat)
    (s : State), s.Hears h → takeAdmitted h b.id number = true → b.id.origin = s.base.cfg.station → s.sch.Settled →
    s.sch.engine = .awaiting handle st w bids → s.sch.bk handle = some b → b.state = .seeking →
    s.sch.seekQueue = [⟨handle, ready⟩] →
    let deadline := b.finish + 60 * b.post + 60 * s.base.cfg.overrun + 300
    (h.sender = st → number = b.attempts → s.base.clock < deadline →
      let c := { b with state := .lent, plan := .lent st, confirm := none, peerLost := false }
      ∃ t, Happened (.takeArrival h b.id number) s t ∧ t.base = s.base.heard ∧ t.sch.bk handle = some c ∧
        (∀ g, g ≠ handle → t.sch.bk g = s.sch.bk g) ∧
        t.sch =
          { s.sch with
            bookings := t.sch.bookings, engine := .idle, seekQueue := []
            triggers := insertTrigger ⟨handle, .overrun, deadline⟩
              (s.sch.triggers.filter fun y => y.handle != handle) }) ∧
    (h.sender ≠ st ∨ number ≠ b.attempts →
      exec (.takeArrival h b.id number) s = .next { s with base := s.base.heard } ∧
      (reason ≤ 3 → exec (.declineArrival h b.id number reason) s = .next { s with base := s.base.heard })))

/-- The bid window ends, or the awardee's take timer does, or the awardee declines: the engine goes on to the best of the
bids that are left of eligible stations. That station becomes the awardee, and an AWARD of the booking, the seek number
and the tuner it named is offered; after the take timer a WITHDRAW to the station that was the awardee goes before it. The
best bid is the one of the lowest cost, then of the highest displaced rank, then of the lowest station (R163, R164). With
no bid of an eligible station left the attempt ends: below the seek limit the booking stays in the queue, ready again 10
seconds for each attempt and the station number in seconds later, and the engine is IDLE; at the limit, where no tuner is
usable, the booking leaves the queue and is WAITING in the unplaced list, and the UNPLACED notice says that the seek is
spent (R95, R163 to R165). The window end and the take timer let the clock count on to their instants (the model's choice,
log entry 2). -/
def Obligations.TheEngineMovesOn : Prop :=
  (∀ (i : Instr) (handle w : Nat) (bids left : List Bid) (x : Bid) (b : Booking) (s : State) (v : Base) (sent : List Msg),
    s.base.station = .joined → s.sch.Settled → s.sch.txq.length < 11 → s.sch.bk handle = some b →
    (i = .bidWindowEnd ∧ s.resetLow = false ∧ s.sch.engine = .collecting handle (some w) bids ∧ left = bids ∧
        v = (s.countTo w).base ∧ sent = []) ∨
      (∃ st, i = .takeTimerExpiry ∧ s.resetLow = false ∧ s.sch.engine = .awaiting handle st (some w) bids ∧
        left = bids.filter (fun y => y.station != st) ∧ v = (s.countTo w).base ∧ sent = [.withdraw b.id st]) ∨
      (∃ h reason t, i = .declineArrival h b.id b.attempts reason ∧ reason ≤ 3 ∧ s.Hears h ∧
        takeAdmitted h b.id b.attempts = true ∧ b.id.origin = s.base.cfg.station ∧
        s.sch.engine = .awaiting handle h.sender t bids ∧ left = bids.filter (fun y => y.station != h.sender) ∧
        v = s.base.heard ∧ sent = []) →
    x ∈ left → v.isEligible x.station = true →
    (∀ y ∈ left, v.isEligible y.station = true → y = x ∨ x.cost < y.cost ∨
      (x.cost = y.cost ∧ (y.displaced < x.displaced ∨ (x.displaced = y.displaced ∧ x.station < y.station)))) →
    ∃ t, Happened i s t ∧ t.base = v ∧
      t.sch =
        { s.sch with
          engine := .awaiting handle x.station none (left.filter fun y => v.isEligible y.station)
          txq := s.sch.txq ++ (sent ++ [Msg.award ⟨b.id, b.attempts, x.station, x.tuner⟩]).map fun m =>
            ⟨s.base.cfg.household, s.base.cfg.station, b.rank, m, none, false⟩ }) ∧
  (∀ (i : Instr) (handle w : Nat) (ready : Option Nat) (bids left : List Bid) (b : Booking) (s : State) (v : Base)
    (sent : List Msg),
    s.base.station = .joined → s.sch.Settled → s.sch.txq.length < 12 → s.sch.bk handle = some b → b.state = .seeking →
    s.sch.seekQueue = [⟨handle, ready⟩] →
    (i = .bidWindowEnd ∧ s.resetLow = false ∧ s.sch.engine = .collecting handle (some w) bids ∧ left = bids ∧
        v = (s.countTo w).base ∧ sent = []) ∨
      (∃ st, i = .takeTimerExpiry ∧ s.resetLow = false ∧ s.sch.engine = .awaiting handle st (some w) bids ∧
        left = bids.filter (fun y => y.station != st) ∧ v = (s.countTo w).base ∧ sent = [.withdraw b.id st]) ∨
      (∃ h reason t, i = .declineArrival h b.id b.attempts reason ∧ reason ≤ 3 ∧ s.Hears h ∧
        takeAdmitted h b.id b.attempts = true ∧ b.id.origin = s.base.cfg.station ∧
        s.sch.engine = .awaiting handle h.sender t bids ∧ left = bids.filter (fun y => y.station != h.sender) ∧
        v = s.base.heard ∧ sent = []) →
    (∀ y ∈ left, v.isEligible y.station = false) →
    let txq := s.sch.txq ++ sent.map fun m => ⟨s.base.cfg.household, s.base.cfg.station, b.rank, m, none, false⟩
    let ready' := v.now + (10 * b.attempts + v.cfg.station) * 4096000
    (b.attempts < s.base.cfg.seekLimit → v.now < ready' →
      ∃ t, Happened i s t ∧ t.base = v ∧
        t.sch = { s.sch with engine := .idle, txq := txq, seekQueue := [⟨handle, some ready'⟩] }) ∧
    (s.base.cfg.seekLimit ≤ b.attempts → s.sch.Bare → s.sch.Room 1 → s.sch.usable .A = false →
      s.sch.usable .B = false → b.cls ≠ .hosted →
      let c := { b with state := .waiting, plan := .absent, confirm := none, peerLost := false }
      ∀ kd d, c.armed v = some (kd, d) → v.clock < d →
      ∃ t, Happened i s t ∧ t.base = v ∧ t.sch.bk handle = some c ∧ (∀ g, g ≠ handle → t.sch.bk g = s.sch.bk g) ∧
        t.sch =
          { s.sch with
            bookings := t.sch.bookings, engine := .idle, txq := txq, seekQueue := [], unplaced := [handle]
            triggers := insertTrigger ⟨handle, kd, d⟩ (s.sch.triggers.filter fun y => y.handle != handle)
            notices := s.sch.notices ++
              [.unplaced handle b.id b.cls b.service b.start b.finish .seekSpent] }))

/-- The ready time of a booking in the seek queue comes while the engine is IDLE and it may seek: its attempts rise by 1,
its SEEK is offered, at its rank, and the engine is COLLECTING with an empty bid list, its bid window not yet open. The
SEEK carries the base day tag, the booking id, the number of the attempt, service, multiplex, event id (0 when absent),
the span in short form, padding, rank, the flags (bit 0 follow, bit 1 event id present) and the bid window (R28, R29, R129,
R161). The command lets the clock count on to the ready time (the model's choice, log entry 2). -/
def Obligations.SeekReadyTime : Prop :=
  ∀ (handle d : Nat) (b : Booking) (s : State), s.resetLow = false → s.sch.Settled →
    s.sch.seekQueue = [⟨handle, some d⟩] → s.sch.engine = .idle → s.sch.bk handle = some b → s.base.station = .joined →
    s.sch.txq.length < 12 → b.cls ≠ .hosted → b.state = .seeking →
    let v := (s.countTo d).base
    d ≤ v.now → v.maySeek b = true →
    let c := { b with attempts := b.attempts + 1 }
    let day := v.clock / 86400
    let short : Nat → Nat := fun u => (u + 86400 - day * 86400) / 60
    let rank := 2 + 2 * b.priority
    let seek : SeekFields :=
      { tag := day % 256, id := b.id, number := b.attempts + 1, service := b.service, multiplex := b.mux
        event := b.event.getD 0, spanStart := short (b.start - 60 * b.pre), spanEnd := short (b.finish + 60 * b.post)
        pre := b.pre, post := b.post, rank := rank, flags := b.follow.toNat + 2 * b.event.isSome.toNat
        window := v.cfg.bidWindow }
    ∃ t, Happened (.seekReadyTime handle) s t ∧ t.base = v ∧ t.sch.bk handle = some c ∧
      (∀ g, g ≠ handle → t.sch.bk g = s.sch.bk g) ∧
      t.sch =
        { s.sch with
          bookings := t.sch.bookings
          engine := .collecting handle none []
          txq := s.sch.txq ++ [⟨v.cfg.household, v.cfg.station, rank, .seek seek, none, false⟩] }

/-- A SEEK that the station may bid on, and that the trial placement can take, makes a tentative hold and is answered with
a BID of the trial's cost, tuner and displaced rank; one that it may not bid on, or that finds no place, is not answered.
The station keeps nothing for the booking id before (R96, R167, R168). -/
def Obligations.SeekArrival : Prop :=
  ∀ (h : FrameHead) (f : SeekFields) (day : Nat) (s : State), s.Hears h → seekAdmitted h f = true → s.sch.Settled →
    s.base.resolveDay h.sender f.tag = some day → (∀ b ∈ s.sch.bookings, b.id ≠ f.id) →
    (∀ x ∈ s.sch.holds ++ s.sch.lapsed, x.id ≠ f.id) →
    let v := s.base.heard
    let base := (day - 1) * 86400
    let d : SeekDetails :=
      { service := f.service, mux := f.multiplex, event := if 2 ≤ f.flags then some f.event else none,
        spanStart := base + 60 * f.spanStart, spanEnd := base + 60 * f.spanEnd, pre := f.pre, post := f.post,
        rank := f.rank, follow := f.flags == 1 || f.flags == 3 }
    let start := d.spanStart + 60 * d.pre
    let finish := d.spanEnd - 60 * d.post
    let may := s.base.timed = true ∧ v.isEligible h.sender = true ∧ start + 60 * d.post < d.spanEnd ∧
      finish ≤ start + 86400 ∧ (d.follow = true → d.event ≠ none) ∧ s.sch.hostedInUse < 16 ∧ s.sch.holds.length < 4
    1 ≤ day → s.sch.txq.length < 12 →
    (∀ cost k rank, may → s.sch.trial v none f.id d = some (cost, k, rank) →
      let ends := s.base.now + f.window * 4096
      exec (.seekArrival h f) s = .next
        { s with
          base := v
          sch :=
            { s.sch with
              txq := s.sch.txq ++
                [⟨s.base.cfg.household, s.base.cfg.station, f.rank, .bid ⟨f.id, f.number, cost, k.index, rank⟩, some ends,
                  false⟩]
              holds := s.sch.holds ++ [⟨f.id, f.number, d, k, ends, ends + 3 * 4096000⟩] } }) ∧
    (¬may ∨ s.sch.trial v none f.id d = none → exec (.seekArrival h f) s = .next { s with base := v })

/-- An AWARD that names this station is answered by the checks in order: TAKE again where it hosts the booking already;
DECLINE STALE where an entry that has ended has the booking id; DECLINE NOT-READY on an UNTIMED station; DECLINE STALE
where it keeps no hold or lapsed record for it; DECLINE HOSTED-FULL with 16 HOSTED entries in use; DECLINE NO-CAPACITY with
128 entries in use, or where the trial placement, the hold set aside, finds no place; these last two consume the hold or
lapsed record. The answer carries the rank of the hold's SEEK, 31 with none (R128, R169); that a lapsed record's counts
too is log entry 42's choice.
An AWARD for a hold, on a station where nothing is planned and the tuner it names is usable and free: the hold is
consumed, a HOSTED entry of the SEEK's details is made, with the origin's booking id, the lowest free handle and the next
order number, PLANNED on that tuner, and TAKE is offered (R1 to R4, R169, R170). -/
def Obligations.AwardArrival : Prop :=
  (∀ (h : FrameHead) (f : AwardFields) (s : State), s.Hears h → awardAdmitted h f = true →
    f.awardee = s.base.cfg.station → s.sch.Settled → s.sch.txq.length < 12 →
    let held := (s.sch.holds ++ s.sch.lapsed).find? fun x => x.id == f.id && x.number == f.number
    let rank := (held.map fun x => x.details.rank).getD 31
    let answered (m : Msg) : Prop :=
      exec (.awardArrival h f) s = .next
        { s with
          base := s.base.heard
          sch := { s.sch with
            txq := s.sch.txq ++ [⟨s.base.cfg.household, s.base.cfg.station, rank, m, none, false⟩] } }
    let hosts := ∃ b ∈ s.sch.bookings, b.cls = .hosted ∧ b.id = f.id ∧ b.state ≠ .ended
    let has := ∃ b ∈ s.sch.bookings, b.id = f.id
    (hosts → answered (.take f.id f.number)) ∧
    (¬hosts → has → answered (.decline f.id f.number 1)) ∧
    (¬has → s.base.timed = false → answered (.decline f.id f.number 3)) ∧
    (¬has → s.base.timed = true → held = none → answered (.decline f.id f.number 1)) ∧
    (¬has → s.base.timed = true → ∀ x, held = some x →
      let keep : Hold → Bool := fun y => !(y.id == f.id && y.number == f.number)
      let left : Sched := { s.sch with holds := s.sch.holds.filter keep, lapsed := s.sch.lapsed.filter keep }
      let declined (reason : Nat) : Prop :=
        exec (.awardArrival h f) s = .next
          { s with
            base := s.base.heard
            sch := { left with
              txq := s.sch.txq ++
                [⟨s.base.cfg.household, s.base.cfg.station, x.details.rank, .decline f.id f.number reason, none, false⟩] } }
      let full := 16 ≤ (s.sch.bookings.filter fun b => b.cls == .hosted).length
      (full → declined 2) ∧
      (¬full → 128 ≤ s.sch.bookings.length ∨
          left.trial s.base.heard (some (if f.tuner = 0 then .A else .B)) f.id x.details = none → declined 0))) ∧
  (∀ (h : FrameHead) (f : AwardFields) (x : Hold) (k : Tuner) (s : State), s.Hears h → s.Inv →
    awardAdmitted h f = true → f.awardee = s.base.cfg.station → s.sch.Settled → s.sch.Bare → s.sch.txq.length < 12 →
    s.base.timed = true → (∀ b ∈ s.sch.bookings, b.id ≠ f.id) → s.sch.hostedInUse < 16 → s.sch.bookings.length < 128 →
    s.sch.holds = [x] → s.sch.lapsed = [] → x.id = f.id → x.number = f.number → f.tuner = k.index →
    s.sch.usable k = true → s.sch.tuners.a.live = none → s.sch.tuners.b.live = none →
    let d := x.details
    let start := d.spanStart + 60 * d.pre
    let finish := d.spanEnd - 60 * d.post
    start < finish → s.base.clock < d.spanStart - s.base.cfg.tuneLead →
    ∃ t b, Happened (.awardArrival h f) s t ∧ t.base = s.base.heard ∧
      (b.handle < 128 ∧ (∀ c ∈ s.sch.bookings, c.handle ≠ b.handle) ∧
        ∀ g < b.handle, ∃ c ∈ s.sch.bookings, c.handle = g) ∧
      b = { handle := b.handle, id := f.id, cls := .hosted, service := d.service, mux := d.mux, event := d.event,
            link := none, episode := none, start := start, finish := finish, pre := d.pre, post := d.post,
            priority := (d.rank - 1) / 2, follow := d.follow, running := if d.follow then some .unknown else none,
            state := .planned, plan := .tuner k, order := s.sch.orderCtr, attempts := 0, segs := [], outcome := none,
            confirm := none, peerLost := false, endedAt := none, prepSeq := 0 } ∧
      t.sch =
        { s.sch with
          bookings := insertBooking b s.sch.bookings
          orderCtr := if s.sch.orderCtr < 4294967295 then s.sch.orderCtr + 1 else 1
          plans := s.sch.plans.set k [⟨b.handle, false⟩]
          triggers := insertTrigger ⟨b.handle, .prepare, d.spanStart - s.base.cfg.tuneLead⟩
            (s.sch.triggers.filter fun y => y.handle != b.handle)
          holds := []
          txq := s.sch.txq ++
            [⟨s.base.cfg.household, s.base.cfg.station, d.rank, .take f.id f.number, none, false⟩] })

/-- WITHDRAW from the origin ends the hosted entry CANCELLED, its OUTCOME reported, and the holds and lapsed records of
the booking id go; with no such entry nothing else changes (R170). A tentative hold that expires becomes a lapsed record,
the oldest of five being discarded; a lapsed record is discarded when the PREPARE time of its SEEK comes, by the station's
own tune lead; an entry of the marks heard list goes 24 hours after its start (R168, R178). Where nothing is unplaced,
suspended or seeking, the tally record of the entry withdrawn and its TALLY say CANCELLED (R172). The timed ones let the
clock count on to their instants (the model's choice, log entry 2). -/
def Obligations.HostedBookingsHoldsAndMarksEnd : Prop :=
  (∀ (h : FrameHead) (j : BookingId) (a : Nat) (s : State), s.Hears h → withdrawAdmitted h j a = true →
    a = s.base.cfg.station → s.sch.Settled →
    ((∀ b ∈ s.sch.bookings, b.cls ≠ .hosted ∨ b.id ≠ j ∨ b.state = .ended) →
      exec (.withdrawArrival h j a) s = .next
        { s with
          base := s.base.heard
          sch :=
            { s.sch with
              holds := s.sch.holds.filter fun x => x.id != j
              lapsed := s.sch.lapsed.filter fun x => x.id != j } }) ∧
    ∀ b, s.sch.bookings.filter (Booking.hosts j) = [b] → s.sch.bk b.handle = some b → s.sch.tallies.length < 8 →
      ∃ t, Happened (.withdrawArrival h j a) s t ∧ t.base = s.base.heard ∧ s.sch.Evolves t.sch ∧
        s.sch.Reported t.sch b.handle (b.endedNotice s.base.clock (.cancelled, .cancelled)) ∧
        (s.sch.AtRest → Sched.Tallied s.base s.sch t.sch s.base.clock (.cancelled, .cancelled) b)) ∧
  (∀ s : State, s.resetLow = false →
    (∀ x, s.sch.holds = [x] →
      ∃ t, Happened (.holdExpiry x.id) s t ∧ t.base = (s.countTo x.expiry).base ∧
        t.sch = { s.sch with holds := [], lapsed := (s.sch.lapsed ++ [x]).drop (s.sch.lapsed.length + 1 - 4) }) ∧
    (∀ x, s.sch.lapsed = [x] →
      ∃ t, Happened (.lapsedRecordDiscard x.id) s t ∧
        t.base = (s.countTo ((x.details.spanStart - s.base.cfg.tuneLead) * 4096000)).base ∧
        t.sch = { s.sch with lapsed := [] }) ∧
    ∀ m, s.sch.marks = [m] →
      ∃ t, Happened (.marksHeardExpiry m.series m.episode m.station) s t ∧
        t.base = (s.countTo ((m.start + 86400) * 4096000)).base ∧ t.sch = { s.sch with marks := [] })

/-- RETURN brings a LENT booking home: its segments, in long form and of the sender, join the booking's list; where no
tuner is usable and it may not seek, it is WAITING in the unplaced list with its attempts 0, and the UNPLACED notice is
queued. Segments beyond the fourth end it PARTIAL with reason SEGMENTS (R120, R173). TALLY ends a LENT booking with the
outcome and the reason that it carries, and with the sender's segments in its list; PARTIAL with reason SEGMENTS where
there are more than four (R120, R173). One for a booking that is not LENT to its sender changes nothing. -/
def Obligations.ReturnAndTallyArrivals : Prop :=
  (∀ (h : FrameHead) (f : ReturnFields) (day : Nat) (b : Booking) (k : TrigKind) (u : Nat) (s : State), s.Hears h →
    returnAdmitted h f = true → f.id.origin = s.base.cfg.station → s.sch.Settled →
    s.base.resolveDay h.sender f.tag = some day → s.sch.lentWith f.id h.sender = some b →
    s.sch.bk b.handle = some b → b.cls ≠ .hosted → 1 ≤ day →
    let v := s.base.heard
    let base := (day - 1) * 86400
    let new := f.segments.map fun p => (⟨h.sender, none, base + 60 * p.1, some (base + 60 * p.2)⟩ : Segment)
    (b.segs.length + f.segments.length ≤ 4 → s.sch.Bare → s.sch.usable .A = false → s.sch.usable .B = false →
      s.sch.Room 1 → 1 ≤ s.base.cfg.seekLimit →
      let c := { b with
        segs := b.segs ++ new, state := .waiting, plan := .absent, confirm := none, peerLost := false, attempts := 0 }
      v.maySeek c = false → c.armed v = some (k, u) → v.clock < u →
      ∃ t, Happened (.returnArrival h f) s t ∧ t.base = v ∧ t.sch.bk b.handle = some c ∧
        (∀ g, g ≠ b.handle → t.sch.bk g = s.sch.bk g) ∧
        t.sch =
          { s.sch with
            bookings := t.sch.bookings
            unplaced := [b.handle]
            triggers := insertTrigger ⟨b.handle, k, u⟩ (s.sch.triggers.filter fun y => y.handle != b.handle)
            notices := s.sch.notices ++
              [.unplaced b.handle b.id b.cls b.service b.start b.finish .noTuner] }) ∧
    (4 < b.segs.length + f.segments.length →
      ∃ t, Happened (.returnArrival h f) s t ∧ t.base = v ∧ s.sch.Evolves t.sch ∧
        s.sch.Reported t.sch b.handle
          ({ b with segs := (b.segs ++ new).take 4 }.endedNotice s.base.clock (.partly, .segments)))) ∧
  (∀ (h : FrameHead) (f : TallyFields) (day : Nat) (s : State), s.Hears h → tallyAdmitted h f = true →
    f.id.origin = s.base.cfg.station → s.sch.Settled → s.base.resolveDay h.sender f.tag = some day → 1 ≤ day →
    let base := (day - 1) * 86400
    let new := f.segments.map fun p => (⟨h.sender, none, base + 60 * p.1, some (base + 60 * p.2)⟩ : Segment)
    ((∀ b ∈ s.sch.bookings, b.id = f.id → b.state ≠ .lent ∨ b.plan ≠ .lent h.sender) →
      exec (.tallyArrival h f) s = .next { s with base := s.base.heard }) ∧
    ∀ b o r, s.sch.lentWith f.id h.sender = some b → s.sch.bk b.handle = some b → b.cls ≠ .hosted →
      BOutcome.code o = f.outcome → Reason.code r = f.reason →
      ∃ t, Happened (.tallyArrival h f) s t ∧ t.base = s.base.heard ∧ s.sch.Evolves t.sch ∧
        s.sch.Reported t.sch b.handle
          ({ b with segs := (b.segs ++ new).take 4 }.endedNotice s.base.clock
            (if 4 < b.segs.length + f.segments.length then (.partly, .segments) else (o, r))))

/-- A MARK joins the marks heard list, in place of one of the same series, episode and station, the oldest of 64 leaving
(R178). From a station that is not PRESENT, or with no booking of the episode that has not ended, nothing else changes.
Else it is weighed with the one booking by the comparison key: started first, then the lower rank, then the lower station
number (R59, R179). The better booking answers with a MARK of its own (R177). To the better MARK a booking that is
WAITING, PLANNED, REFERRED, SEEKING, or LENT before its PREPARE time, and that has not started, yields: it leaves the
unplaced list, plan, referral or seek that it stands in, is COVERED by the sender, and STOP is armed at its span end; a
LENT one first sends WITHDRAW to its host; of one that the engine has, the SEEK or the AWARD that has not been sent goes,
and an AWARD that has been sent is followed by a WITHDRAW (R166). One that is LENT from its PREPARE time on, or has
started, stays. A COVERED one is re-pointed to the sender where the MARK also beats the entry of the covering station, or
that entry is gone or its station is not PRESENT; its confirm deadline is then cleared, which is the model's choice (log
entry 43). The queue has room for the message that is offered, and the stacks are empty where the booking yields. -/
def Obligations.MarkArrival : Prop :=
  ∀ (h : FrameHead) (f : MarkFields) (day : Nat) (s : State), s.Hears h → markAdmitted f = true → s.sch.Settled →
    s.base.resolveDay h.sender f.tag = some day → 1 ≤ day →
    let m : MarkHeard := ⟨f.series, f.episode, h.sender, f.rank, f.started == 1, (day - 1) * 86400 + 60 * f.start⟩
    let rest := s.sch.marks.filter fun x => !(x.series == f.series && x.episode == f.episode && x.station == h.sender)
    let marks := (if rest.length < 64 then rest else rest.tail) ++ [m]
    let leaves (x : Sched) : Prop := exec (.markArrival h f) s = .next { s with base := s.base.heard, sch := x }
    let beats (started : Bool) (rank station : Nat) : Prop := (f.started = 1 ∧ started = false) ∨
      ((f.started = 1 ↔ started = true) ∧ (f.rank < rank ∨ (f.rank = rank ∧ h.sender < station)))
    (s.base.isPresent h.sender = false ∨
        (∀ b ∈ s.sch.bookings, b.cls = .episode → b.state ≠ .ended → b.episode = some f.episode →
          ∀ l ∈ s.sch.links, b.link = some l.id → l.series ≠ f.series) →
      leaves { s.sch with marks := marks }) ∧
    ∀ b l, s.sch.bookings = [b] → s.sch.links = [l] → b.cls = .episode → b.episode = some f.episode →
      b.link = some l.id → l.series = f.series → s.base.isPresent h.sender = true → b.state ≠ .ended →
      let started : Bool := b.state == .preparing || b.state == .recording || b.state == .paused ||
        b.state == .suspended || !b.segs.isEmpty
      let rank := (if b.state = .preparing ∨ b.state = .recording ∨ b.state = .paused then 1 else 2) + 2 * b.priority
      let better := beats started rank s.base.cfg.station
      let prepare := b.start - 60 * b.pre - s.base.cfg.tuneLead
      let stop := b.finish + 60 * b.post
      let armed := insertTrigger ⟨b.handle, .stop, stop⟩ (s.sch.triggers.filter fun y => y.handle != b.handle)
      let queued (q : Nat) (x : Msg) : QMsg := ⟨s.base.cfg.household, s.base.cfg.station, q, x, none, false⟩
      (¬better → b.state ≠ .covered → s.sch.txq.length < 12 →
        leaves
          { s.sch with
            marks := marks
            txq := s.sch.txq ++
              [queued rank (.mark
                { tag := s.base.clock / 86400 % 256, series := f.series, episode := f.episode, rank := rank
                  started := started.toNat
                  start :=
                    if b.start + 86400 < s.base.clock / 86400 * 86400 then 0
                    else min 65535 ((b.start + 86400 - s.base.clock / 86400 * 86400) / 60) })] }) ∧
      (better → b.state ≠ .covered → started = true ∨ (b.state = .lent ∧ (∃ st, b.plan = .lent st) ∧ prepare ≤ s.base.clock) →
        leaves { s.sch with marks := marks }) ∧
      (∀ old, b.state = .covered → b.plan = .covered old →
        let entries := marks.filter fun x => x.series == f.series && x.episode == f.episode && x.station == old
        (better → (s.base.isPresent old = true → ∀ x ∈ entries, beats x.started x.rank x.station) →
          s.base.clock < stop →
          leaves
            { s.sch with
              marks := marks
              bookings := [{ b with plan := .covered h.sender, confirm := none, peerLost := false }]
              triggers := armed }) ∧
        (¬better ∨ (s.base.isPresent old = true ∧ entries ≠ [] ∧ ∀ x ∈ entries, ¬beats x.started x.rank x.station) →
          leaves { s.sch with marks := marks })) ∧
      (better → started = false → s.base.clock < stop → s.sch.stacked = ⟨[], []⟩ →
        (∀ k, ∀ c ∈ (s.sch.tuners.get k).captures, c.handle ≠ b.handle) →
        let covers (txq : List QMsg) : Prop :=
          leaves
            { s.sch with
              marks := marks
              bookings := [{ b with
                state := .covered, plan := .covered h.sender, confirm := none, peerLost := false, attempts := 0 }]
              plans := s.sch.plans.both (List.filter fun p => p.handle != b.handle)
              unplaced := s.sch.unplaced.filter fun x => x != b.handle
              referrals := s.sch.referrals.filter fun r => r.handle != b.handle
              seekQueue := s.sch.seekQueue.filter fun q => q.handle != b.handle
              engine := .idle
              triggers := armed
              txq := txq }
        (b.state = .waiting ∨ b.state = .planned ∨ b.state = .referred ∨ b.state = .seeking → s.sch.engine = .idle →
          covers s.sch.txq) ∧
        (b.state = .lent → s.sch.engine = .idle → s.base.clock < prepare → s.sch.txq.length < 12 →
          ∀ st, b.plan = .lent st → covers (s.sch.txq ++ [queued rank (.withdraw b.id st)])) ∧
        (b.state = .seeking → (∀ q ∈ s.sch.seekQueue, q.handle = b.handle) →
          (∀ w bids, s.sch.engine = .collecting b.handle w bids →
            covers (s.sch.txq.filter fun q => q.att || !q.msg.isSeekOf b.id)) ∧
          (∀ st w bids, s.sch.engine = .awaiting b.handle st w bids →
            ((∃ q ∈ s.sch.txq, q.att = false ∧ q.msg.isAwardOf b.id st = true) →
              covers (s.sch.txq.filter fun q => q.att || !q.msg.isAwardOf b.id st)) ∧
            ((∀ q ∈ s.sch.txq, q.att = false → q.msg.isAwardOf b.id st = false) → s.sch.txq.length < 12 →
              covers (s.sch.txq ++ [queued rank (.withdraw b.id st)])))))
end

