-- ==== Sys2Proof/Laws/State.lean ====
section
/-! SUPPORT. One lemma for each field of each update, so that no proof unfolds a record update; and what the ways by which a
command reaches the state (Transport) answer. -/

namespace Sys2Proof.Machine

/-! ## Pairs -/

@[simp] theorem Two.get_A {α : Type} (x : Two α) : x.get .A = x.a := rfl

@[simp] theorem Two.get_B {α : Type} (x : Two α) : x.get .B = x.b := rfl

@[simp] theorem Two.get_set {α : Type} (x : Two α) (k : Tuner) (y : α) : (x.set k y).get k = y := by cases k <;> rfl

@[simp] theorem Two.get_set_other {α : Type} (x : Two α) (k : Tuner) (y : α) : (x.set k y).get k.other = x.get k.other := by
  cases k <;> rfl

@[simp] theorem Two.get_other_set {α : Type} (x : Two α) (k : Tuner) (y : α) : (x.set k.other y).get k = x.get k := by
  cases k <;> rfl

@[simp] theorem Two.set_set {α : Type} (x : Two α) (k : Tuner) (y z : α) : (x.set k y).set k z = x.set k z := by
  cases k <;> rfl

@[simp] theorem Two.set_get {α : Type} (x : Two α) (k : Tuner) : x.set k (x.get k) = x := by cases k <;> rfl

@[simp] theorem Two.get_mod {α : Type} (x : Two α) (k : Tuner) (f : α → α) : (x.mod k f).get k = f (x.get k) := by
  cases k <;> rfl

@[simp] theorem Tuner.other_other (k : Tuner) : k.other.other = k := by cases k <;> rfl

theorem Tuner.other_ne (k : Tuner) : k.other ≠ k := by cases k <;> nofun

/-! ## The whole state -/

@[simp] theorem State.onSched_base (f : Sched → Sched) (s : State) : (s.onSched f).base = s.base := rfl

@[simp] theorem State.onSched_sch (f : Sched → Sched) (s : State) : (s.onSched f).sch = f s.sch := rfl

@[simp] theorem State.onSched_port (f : Sched → Sched) (s : State) : (s.onSched f).port = s.port := rfl

@[simp] theorem State.onSched_resetLow (f : Sched → Sched) (s : State) : (s.onSched f).resetLow = s.resetLow := rfl

@[simp] theorem State.onSched_free (f : Sched → Sched) (s : State) : (s.onSched f).free = s.free := rfl

@[simp] theorem State.onSched_pending (f : Sched → Sched) (s : State) : (s.onSched f).pending = s.pending := rfl

@[simp] theorem State.event_base (f : Ev → Ev) (s : State) : (s.event f).base = s.base := rfl

@[simp] theorem State.event_sch (f : Ev → Ev) (s : State) : (s.event f).sch = s.sch.event s.base f := rfl

@[simp] theorem State.event_port (f : Ev → Ev) (s : State) : (s.event f).port = s.port := rfl

@[simp] theorem State.event_resetLow (f : Ev → Ev) (s : State) : (s.event f).resetLow = s.resetLow := rfl

@[simp] theorem State.event_free (f : Ev → Ev) (s : State) : (s.event f).free = s.free := rfl

@[simp] theorem State.event_pending (f : Ev → Ev) (s : State) : (s.event f).pending = s.pending := rfl

@[simp] theorem State.countTo_sch (t : Nat) (s : State) : (s.countTo t).sch = s.sch := rfl

@[simp] theorem State.countTo_port (t : Nat) (s : State) : (s.countTo t).port = s.port := rfl

@[simp] theorem State.countTo_resetLow (t : Nat) (s : State) : (s.countTo t).resetLow = s.resetLow := rfl

@[simp] theorem State.countTo_free (t : Nat) (s : State) : (s.countTo t).free = s.free := rfl

@[simp] theorem State.countTo_pending (t : Nat) (s : State) : (s.countTo t).pending = s.pending := rfl

@[simp] theorem State.busy_base (n : Nat) (s : State) : (s.busy n).base = s.base := rfl

@[simp] theorem State.busy_sch (n : Nat) (s : State) : (s.busy n).sch = s.sch := rfl

@[simp] theorem State.busy_resetLow (n : Nat) (s : State) : (s.busy n).resetLow = s.resetLow := rfl

@[simp] theorem State.busy_free (n : Nat) (s : State) : (s.busy n).free = s.free := rfl

@[simp] theorem State.busy_pending (n : Nat) (s : State) : (s.busy n).pending = s.pending := rfl

@[simp] theorem Answer.place_base (c n : Nat) (p : Port) (a : Answer) : (a.place c n p).base = a.s.base := rfl

@[simp] theorem Answer.place_sch (c n : Nat) (p : Port) (a : Answer) : (a.place c n p).sch = a.s.sch := rfl

@[simp] theorem Answer.place_resetLow (c n : Nat) (p : Port) (a : Answer) : (a.place c n p).resetLow = a.s.resetLow := rfl

@[simp] theorem Answer.place_free (c n : Nat) (p : Port) (a : Answer) : (a.place c n p).free = a.s.free := rfl

@[simp] theorem Answer.place_pending (c n : Nat) (p : Port) (a : Answer) : (a.place c n p).pending = a.s.pending := rfl

@[simp] theorem Answer.place_port (c n : Nat) (p : Port) (a : Answer) : (a.place c n p).port =
    { a.s.port with state := .ready, response := some ⟨c, a.code, a.result⟩, miso := p.status :: List.replicate (n - 1) 0 } := rfl

@[simp] theorem State.done_s (l : List Byte) (s : State) : (s.done l).s = s := rfl

@[simp] theorem State.done_code (l : List Byte) (s : State) : (s.done l).code = .ok := rfl

@[simp] theorem State.done_result (l : List Byte) (s : State) : (s.done l).result = l := rfl

@[simp] theorem State.refuse_s (c : Code) (s : State) : (s.refuse c).s = s := rfl

@[simp] theorem State.refuse_code (c : Code) (s : State) : (s.refuse c).code = c := rfl

@[simp] theorem State.refuse_result (c : Code) (s : State) : (s.refuse c).result = [] := rfl

/-! ## The scheduling part -/

@[simp] theorem Sched.modB_bookings (h : Nat) (f : Booking → Booking) (s : Sched) : (s.modB h f).bookings = s.bookings.map fun b => if b.handle == h && b.state != .ended then f b else b := rfl

@[simp] theorem Sched.modB_pendingOutcomes (h : Nat) (f : Booking → Booking) (s : Sched) : (s.modB h f).pendingOutcomes = s.pendingOutcomes := rfl

@[simp] theorem Sched.modB_orderCtr (h : Nat) (f : Booking → Booking) (s : Sched) : (s.modB h f).orderCtr = s.orderCtr := rfl

@[simp] theorem Sched.modB_serialCtr (h : Nat) (f : Booking → Booking) (s : Sched) : (s.modB h f).serialCtr = s.serialCtr := rfl

@[simp] theorem Sched.modB_prepCtr (h : Nat) (f : Booking → Booking) (s : Sched) : (s.modB h f).prepCtr = s.prepCtr := rfl

@[simp] theorem Sched.modB_triggers (h : Nat) (f : Booking → Booking) (s : Sched) : (s.modB h f).triggers = s.triggers := rfl

@[simp] theorem Sched.modB_links (h : Nat) (f : Booking → Booking) (s : Sched) : (s.modB h f).links = s.links := rfl

@[simp] theorem Sched.modB_linkCtr (h : Nat) (f : Booking → Booking) (s : Sched) : (s.modB h f).linkCtr = s.linkCtr := rfl

@[simp] theorem Sched.modB_tuners (h : Nat) (f : Booking → Booking) (s : Sched) : (s.modB h f).tuners = s.tuners := rfl

@[simp] theorem Sched.modB_budget (h : Nat) (f : Booking → Booking) (s : Sched) : (s.modB h f).budget = s.budget := rfl

@[simp] theorem Sched.modB_plans (h : Nat) (f : Booking → Booking) (s : Sched) : (s.modB h f).plans = s.plans := rfl

@[simp] theorem Sched.modB_unplaced (h : Nat) (f : Booking → Booking) (s : Sched) : (s.modB h f).unplaced = s.unplaced := rfl

@[simp] theorem Sched.modB_referrals (h : Nat) (f : Booking → Booking) (s : Sched) : (s.modB h f).referrals = s.referrals := rfl

@[simp] theorem Sched.modB_stacked (h : Nat) (f : Booking → Booking) (s : Sched) : (s.modB h f).stacked = s.stacked := rfl

@[simp] theorem Sched.modB_txq (h : Nat) (f : Booking → Booking) (s : Sched) : (s.modB h f).txq = s.txq := rfl

@[simp] theorem Sched.modB_waitingRoll (h : Nat) (f : Booking → Booking) (s : Sched) : (s.modB h f).waitingRoll = s.waitingRoll := rfl

@[simp] theorem Sched.modB_attempt (h : Nat) (f : Booking → Booking) (s : Sched) : (s.modB h f).attempt = s.attempt := rfl

@[simp] theorem Sched.modB_seekQueue (h : Nat) (f : Booking → Booking) (s : Sched) : (s.modB h f).seekQueue = s.seekQueue := rfl

@[simp] theorem Sched.modB_engine (h : Nat) (f : Booking → Booking) (s : Sched) : (s.modB h f).engine = s.engine := rfl

@[simp] theorem Sched.modB_holds (h : Nat) (f : Booking → Booking) (s : Sched) : (s.modB h f).holds = s.holds := rfl

@[simp] theorem Sched.modB_lapsed (h : Nat) (f : Booking → Booking) (s : Sched) : (s.modB h f).lapsed = s.lapsed := rfl

@[simp] theorem Sched.modB_tallies (h : Nat) (f : Booking → Booking) (s : Sched) : (s.modB h f).tallies = s.tallies := rfl

@[simp] theorem Sched.modB_tallyCtr (h : Nat) (f : Booking → Booking) (s : Sched) : (s.modB h f).tallyCtr = s.tallyCtr := rfl

@[simp] theorem Sched.modB_marks (h : Nat) (f : Booking → Booking) (s : Sched) : (s.modB h f).marks = s.marks := rfl

@[simp] theorem Sched.modB_notices (h : Nat) (f : Booking → Booking) (s : Sched) : (s.modB h f).notices = s.notices := rfl

@[simp] theorem Sched.modB_overflow (h : Nat) (f : Booking → Booking) (s : Sched) : (s.modB h f).overflow = s.overflow := rfl

@[simp] theorem Sched.free_bookings (h : Nat) (s : Sched) : (s.free h).bookings = s.bookings.filter fun b => b.handle != h := rfl

@[simp] theorem Sched.free_pendingOutcomes (h : Nat) (s : Sched) : (s.free h).pendingOutcomes = s.pendingOutcomes := rfl

@[simp] theorem Sched.free_orderCtr (h : Nat) (s : Sched) : (s.free h).orderCtr = s.orderCtr := rfl

@[simp] theorem Sched.free_serialCtr (h : Nat) (s : Sched) : (s.free h).serialCtr = s.serialCtr := rfl

@[simp] theorem Sched.free_prepCtr (h : Nat) (s : Sched) : (s.free h).prepCtr = s.prepCtr := rfl

@[simp] theorem Sched.free_triggers (h : Nat) (s : Sched) : (s.free h).triggers = s.triggers := rfl

@[simp] theorem Sched.free_links (h : Nat) (s : Sched) : (s.free h).links = s.links := rfl

@[simp] theorem Sched.free_linkCtr (h : Nat) (s : Sched) : (s.free h).linkCtr = s.linkCtr := rfl

@[simp] theorem Sched.free_tuners (h : Nat) (s : Sched) : (s.free h).tuners = s.tuners := rfl

@[simp] theorem Sched.free_budget (h : Nat) (s : Sched) : (s.free h).budget = s.budget := rfl

@[simp] theorem Sched.free_plans (h : Nat) (s : Sched) : (s.free h).plans = s.plans := rfl

@[simp] theorem Sched.free_unplaced (h : Nat) (s : Sched) : (s.free h).unplaced = s.unplaced := rfl

@[simp] theorem Sched.free_referrals (h : Nat) (s : Sched) : (s.free h).referrals = s.referrals := rfl

@[simp] theorem Sched.free_stacked (h : Nat) (s : Sched) : (s.free h).stacked = s.stacked := rfl

@[simp] theorem Sched.free_txq (h : Nat) (s : Sched) : (s.free h).txq = s.txq := rfl

@[simp] theorem Sched.free_waitingRoll (h : Nat) (s : Sched) : (s.free h).waitingRoll = s.waitingRoll := rfl

@[simp] theorem Sched.free_attempt (h : Nat) (s : Sched) : (s.free h).attempt = s.attempt := rfl

@[simp] theorem Sched.free_seekQueue (h : Nat) (s : Sched) : (s.free h).seekQueue = s.seekQueue := rfl

@[simp] theorem Sched.free_engine (h : Nat) (s : Sched) : (s.free h).engine = s.engine := rfl

@[simp] theorem Sched.free_holds (h : Nat) (s : Sched) : (s.free h).holds = s.holds := rfl

@[simp] theorem Sched.free_lapsed (h : Nat) (s : Sched) : (s.free h).lapsed = s.lapsed := rfl

@[simp] theorem Sched.free_tallies (h : Nat) (s : Sched) : (s.free h).tallies = s.tallies := rfl

@[simp] theorem Sched.free_tallyCtr (h : Nat) (s : Sched) : (s.free h).tallyCtr = s.tallyCtr := rfl

@[simp] theorem Sched.free_marks (h : Nat) (s : Sched) : (s.free h).marks = s.marks := rfl

@[simp] theorem Sched.free_notices (h : Nat) (s : Sched) : (s.free h).notices = s.notices := rfl

@[simp] theorem Sched.free_overflow (h : Nat) (s : Sched) : (s.free h).overflow = s.overflow := rfl

@[simp] theorem Sched.modTuner_bookings (k : Tuner) (f : TunerRec → TunerRec) (s : Sched) : (s.modTuner k f).bookings = s.bookings := rfl

@[simp] theorem Sched.modTuner_pendingOutcomes (k : Tuner) (f : TunerRec → TunerRec) (s : Sched) : (s.modTuner k f).pendingOutcomes = s.pendingOutcomes := rfl

@[simp] theorem Sched.modTuner_orderCtr (k : Tuner) (f : TunerRec → TunerRec) (s : Sched) : (s.modTuner k f).orderCtr = s.orderCtr := rfl

@[simp] theorem Sched.modTuner_serialCtr (k : Tuner) (f : TunerRec → TunerRec) (s : Sched) : (s.modTuner k f).serialCtr = s.serialCtr := rfl

@[simp] theorem Sched.modTuner_prepCtr (k : Tuner) (f : TunerRec → TunerRec) (s : Sched) : (s.modTuner k f).prepCtr = s.prepCtr := rfl

@[simp] theorem Sched.modTuner_triggers (k : Tuner) (f : TunerRec → TunerRec) (s : Sched) : (s.modTuner k f).triggers = s.triggers := rfl

@[simp] theorem Sched.modTuner_links (k : Tuner) (f : TunerRec → TunerRec) (s : Sched) : (s.modTuner k f).links = s.links := rfl

@[simp] theorem Sched.modTuner_linkCtr (k : Tuner) (f : TunerRec → TunerRec) (s : Sched) : (s.modTuner k f).linkCtr = s.linkCtr := rfl

@[simp] theorem Sched.modTuner_tuners (k : Tuner) (f : TunerRec → TunerRec) (s : Sched) : (s.modTuner k f).tuners = s.tuners.mod k f := rfl

@[simp] theorem Sched.modTuner_budget (k : Tuner) (f : TunerRec → TunerRec) (s : Sched) : (s.modTuner k f).budget = s.budget := rfl

@[simp] theorem Sched.modTuner_plans (k : Tuner) (f : TunerRec → TunerRec) (s : Sched) : (s.modTuner k f).plans = s.plans := rfl

@[simp] theorem Sched.modTuner_unplaced (k : Tuner) (f : TunerRec → TunerRec) (s : Sched) : (s.modTuner k f).unplaced = s.unplaced := rfl

@[simp] theorem Sched.modTuner_referrals (k : Tuner) (f : TunerRec → TunerRec) (s : Sched) : (s.modTuner k f).referrals = s.referrals := rfl

@[simp] theorem Sched.modTuner_stacked (k : Tuner) (f : TunerRec → TunerRec) (s : Sched) : (s.modTuner k f).stacked = s.stacked := rfl

@[simp] theorem Sched.modTuner_txq (k : Tuner) (f : TunerRec → TunerRec) (s : Sched) : (s.modTuner k f).txq = s.txq := rfl

@[simp] theorem Sched.modTuner_waitingRoll (k : Tuner) (f : TunerRec → TunerRec) (s : Sched) : (s.modTuner k f).waitingRoll = s.waitingRoll := rfl

@[simp] theorem Sched.modTuner_attempt (k : Tuner) (f : TunerRec → TunerRec) (s : Sched) : (s.modTuner k f).attempt = s.attempt := rfl

@[simp] theorem Sched.modTuner_seekQueue (k : Tuner) (f : TunerRec → TunerRec) (s : Sched) : (s.modTuner k f).seekQueue = s.seekQueue := rfl

@[simp] theorem Sched.modTuner_engine (k : Tuner) (f : TunerRec → TunerRec) (s : Sched) : (s.modTuner k f).engine = s.engine := rfl

@[simp] theorem Sched.modTuner_holds (k : Tuner) (f : TunerRec → TunerRec) (s : Sched) : (s.modTuner k f).holds = s.holds := rfl

@[simp] theorem Sched.modTuner_lapsed (k : Tuner) (f : TunerRec → TunerRec) (s : Sched) : (s.modTuner k f).lapsed = s.lapsed := rfl

@[simp] theorem Sched.modTuner_tallies (k : Tuner) (f : TunerRec → TunerRec) (s : Sched) : (s.modTuner k f).tallies = s.tallies := rfl

@[simp] theorem Sched.modTuner_tallyCtr (k : Tuner) (f : TunerRec → TunerRec) (s : Sched) : (s.modTuner k f).tallyCtr = s.tallyCtr := rfl

@[simp] theorem Sched.modTuner_marks (k : Tuner) (f : TunerRec → TunerRec) (s : Sched) : (s.modTuner k f).marks = s.marks := rfl

@[simp] theorem Sched.modTuner_notices (k : Tuner) (f : TunerRec → TunerRec) (s : Sched) : (s.modTuner k f).notices = s.notices := rfl

@[simp] theorem Sched.modTuner_overflow (k : Tuner) (f : TunerRec → TunerRec) (s : Sched) : (s.modTuner k f).overflow = s.overflow := rfl

@[simp] theorem Sched.disarm_bookings (h : Nat) (s : Sched) : (s.disarm h).bookings = s.bookings := rfl

@[simp] theorem Sched.disarm_pendingOutcomes (h : Nat) (s : Sched) : (s.disarm h).pendingOutcomes = s.pendingOutcomes := rfl

@[simp] theorem Sched.disarm_orderCtr (h : Nat) (s : Sched) : (s.disarm h).orderCtr = s.orderCtr := rfl

@[simp] theorem Sched.disarm_serialCtr (h : Nat) (s : Sched) : (s.disarm h).serialCtr = s.serialCtr := rfl

@[simp] theorem Sched.disarm_prepCtr (h : Nat) (s : Sched) : (s.disarm h).prepCtr = s.prepCtr := rfl

@[simp] theorem Sched.disarm_links (h : Nat) (s : Sched) : (s.disarm h).links = s.links := rfl

@[simp] theorem Sched.disarm_linkCtr (h : Nat) (s : Sched) : (s.disarm h).linkCtr = s.linkCtr := rfl

@[simp] theorem Sched.disarm_tuners (h : Nat) (s : Sched) : (s.disarm h).tuners = s.tuners := rfl

@[simp] theorem Sched.disarm_budget (h : Nat) (s : Sched) : (s.disarm h).budget = s.budget := rfl

@[simp] theorem Sched.disarm_plans (h : Nat) (s : Sched) : (s.disarm h).plans = s.plans := rfl

@[simp] theorem Sched.disarm_unplaced (h : Nat) (s : Sched) : (s.disarm h).unplaced = s.unplaced := rfl

@[simp] theorem Sched.disarm_referrals (h : Nat) (s : Sched) : (s.disarm h).referrals = s.referrals := rfl

@[simp] theorem Sched.disarm_stacked (h : Nat) (s : Sched) : (s.disarm h).stacked = s.stacked := rfl

@[simp] theorem Sched.disarm_txq (h : Nat) (s : Sched) : (s.disarm h).txq = s.txq := rfl

@[simp] theorem Sched.disarm_waitingRoll (h : Nat) (s : Sched) : (s.disarm h).waitingRoll = s.waitingRoll := rfl

@[simp] theorem Sched.disarm_attempt (h : Nat) (s : Sched) : (s.disarm h).attempt = s.attempt := rfl

@[simp] theorem Sched.disarm_seekQueue (h : Nat) (s : Sched) : (s.disarm h).seekQueue = s.seekQueue := rfl

@[simp] theorem Sched.disarm_engine (h : Nat) (s : Sched) : (s.disarm h).engine = s.engine := rfl

@[simp] theorem Sched.disarm_holds (h : Nat) (s : Sched) : (s.disarm h).holds = s.holds := rfl

@[simp] theorem Sched.disarm_lapsed (h : Nat) (s : Sched) : (s.disarm h).lapsed = s.lapsed := rfl

@[simp] theorem Sched.disarm_tallies (h : Nat) (s : Sched) : (s.disarm h).tallies = s.tallies := rfl

@[simp] theorem Sched.disarm_tallyCtr (h : Nat) (s : Sched) : (s.disarm h).tallyCtr = s.tallyCtr := rfl

@[simp] theorem Sched.disarm_marks (h : Nat) (s : Sched) : (s.disarm h).marks = s.marks := rfl

@[simp] theorem Sched.disarm_notices (h : Nat) (s : Sched) : (s.disarm h).notices = s.notices := rfl

@[simp] theorem Sched.disarm_overflow (h : Nat) (s : Sched) : (s.disarm h).overflow = s.overflow := rfl

/-! ## An event in progress -/

@[simp] theorem Ev.on_exam (f : Sched → Sched) (e : Ev) : (e.on f).exam = e.exam := rfl

@[simp] theorem Ev.on_retry (f : Sched → Sched) (e : Ev) : (e.on f).retry = e.retry := rfl

@[simp] theorem Ev.on_look (f : Sched → Sched) (e : Ev) : (e.on f).look = e.look := rfl

@[simp] theorem Ev.on_late (f : Sched → Sched) (e : Ev) : (e.on f).late = e.late := rfl

@[simp] theorem Ev.askExam_exam (k : Tuner) (e : Ev) : (e.askExam k).exam = e.exam.set k true := rfl

@[simp] theorem Ev.askExam_retry (k : Tuner) (e : Ev) : (e.askExam k).retry = e.retry := rfl

@[simp] theorem Ev.askExam_look (k : Tuner) (e : Ev) : (e.askExam k).look = e.look := rfl

@[simp] theorem Ev.askExam_late (k : Tuner) (e : Ev) : (e.askExam k).late = e.late := rfl

@[simp] theorem Ev.askRetry_exam (k : Bool) (e : Ev) : (e.askRetry k).exam = e.exam := rfl

@[simp] theorem Ev.askRetry_look (k : Bool) (e : Ev) : (e.askRetry k).look = e.look := rfl

@[simp] theorem Ev.askRetry_late (k : Bool) (e : Ev) : (e.askRetry k).late = e.late := rfl

@[simp] theorem Ev.askLook_exam (e : Ev) : (e.askLook).exam = e.exam := rfl

@[simp] theorem Ev.askLook_retry (e : Ev) : (e.askLook).retry = e.retry := rfl

@[simp] theorem Ev.askLook_look (e : Ev) : (e.askLook).look = true := rfl

@[simp] theorem Ev.askLook_late (e : Ev) : (e.askLook).late = e.late := rfl

/-! ## Finding a record, and an event that asks for nothing more -/

/-- The entry at a handle is in use at that handle. -/
theorem Sched.bk_handle {s : Sched} {h : Nat} {b : Booking} (k : s.bk h = some b) : b.handle = h ∧ b ∈ s.bookings :=
  ⟨by simpa using List.find?_some k, List.mem_of_find?_eq_some k⟩

/-- A change of one entry that keeps its handle is found there unless it is ENDED, and nowhere else. -/
theorem Sched.bk_modB (s : Sched) (h g : Nat) (f : Booking → Booking) (hf : ∀ b, (f b).handle = b.handle) :
    (s.modB h f).bk g = if g = h then (s.bk g).map fun b => if b.state = .ended then b else f b else s.bk g := by
  unfold Sched.bk Sched.modB
  dsimp only
  induction s.bookings with
  | nil => simp
  | cons b l ih =>
    simp only [List.map_cons, List.find?_cons]
    by_cases e : b.handle = g
    · subst e
      by_cases e' : b.handle = h <;> by_cases k : b.state = .ended <;> simp [e', hf, k]
    · have : ((if b.handle == h && b.state != .ended then f b else b).handle == g) = false := by
        split <;> simp [hf, e]
      rw [this, ih, beq_false_of_ne e]

/-- The entry that a change reaches. -/
theorem Sched.bk_modB_self {s : Sched} {h : Nat} {b : Booking} (f : Booking → Booking) (hf : ∀ b, (f b).handle = b.handle)
    (k : s.bk h = some b) (e : b.state ≠ .ended) : (s.modB h f).bk h = some (f b) := by
  rw [s.bk_modB h h f hf, if_pos rfl, k]
  simp [e]

/-- An ENDED entry keeps its record. -/
theorem Sched.bk_modB_ended {s : Sched} {g : Nat} {b : Booking} (h : Nat) (f : Booking → Booking)
    (hf : ∀ b, (f b).handle = b.handle) (k : s.bk g = some b) (e : b.state = .ended) : (s.modB h f).bk g = some b := by
  rw [s.bk_modB h g f hf, k]
  split <;> simp [e]

/-- Freeing an entry leaves the others. -/
theorem Sched.bk_free_other (s : Sched) {h g : Nat} (k : g ≠ h) : (s.free h).bk g = s.bk g := by
  unfold Sched.bk Sched.free
  dsimp only
  induction s.bookings with
  | nil => rfl
  | cons b l ih =>
    by_cases e : b.handle = h
    · have : b.handle ≠ g := fun h' => k (h'.symm.trans e)
      simp [e, ih, k.symm]
    · simp [e, List.find?_cons, ih]

/-- No directive is due where the directives in force say what stands (R65). -/
theorem Sched.reviseAll_settled (v : Base) (s : Sched) (h : s.Settled) : s.reviseAll v = s := by
  simp [Sched.reviseAll, Sched.revise, h.1, h.2]

/-- An event that asks for no further part ends with its own effects. -/
theorem Ev.finish_quiet (v : Base) (e : Ev) (h : e.exam = ⟨false, false⟩) (k : e.retry = none) (l : e.look = false) :
    e.finish v = e := by
  simp [Ev.finish, work, h, k, l]

/-- Such an event that leaves the directives settled leaves its own effects alone. -/
theorem Ev.close_quiet (v : Base) (e : Ev) (h : e.exam = ⟨false, false⟩) (k : e.retry = none) (l : e.look = false)
    (d : e.s.Settled) : e.close v = e := by
  rw [Ev.close, e.finish_quiet v h k l, Ev.on, e.s.reviseAll_settled v d]

/-- With nothing late, the event ends there. -/
theorem Ev.settle_quiet (v : Base) (e : Ev) (h : e.exam = ⟨false, false⟩) (k : e.retry = none) (l : e.look = false)
    (d : e.s.Settled) (m : e.late = []) : e.settle v = e.s := by
  rw [Ev.settle, e.close_quiet v h k l d, m]
  rfl

/-! ## The base -/

/-- Counting on changes the clock, its fraction and the quiet of the line alone. -/
theorem Base.countTo_frame (v : Base) (t : Nat) : v.countTo t =
    { v with clock := (v.countTo t).clock, frac := (v.countTo t).frac, idleBits := (v.countTo t).idleBits } := by
  unfold Base.countTo
  dsimp only
  split
  · rfl
  · split <;> rfl

@[simp] theorem Base.countTo_cfg (v : Base) (t : Nat) : (v.countTo t).cfg = v.cfg := by rw [v.countTo_frame t]

@[simp] theorem Base.countTo_station (v : Base) (t : Nat) : (v.countTo t).station = v.station := by rw [v.countTo_frame t]

@[simp] theorem Base.countTo_incarnation (v : Base) (t : Nat) : (v.countTo t).incarnation = v.incarnation := by rw [v.countTo_frame t]

@[simp] theorem Base.countTo_joinTimer (v : Base) (t : Nat) : (v.countTo t).joinTimer = v.joinTimer := by rw [v.countTo_frame t]

@[simp] theorem Base.countTo_leaveTimer (v : Base) (t : Nat) : (v.countTo t).leaveTimer = v.leaveTimer := by rw [v.countTo_frame t]

@[simp] theorem Base.countTo_rollTimer (v : Base) (t : Nat) : (v.countTo t).rollTimer = v.rollTimer := by rw [v.countTo_frame t]

@[simp] theorem Base.countTo_leavingSent (v : Base) (t : Nat) : (v.countTo t).leavingSent = v.leavingSent := by rw [v.countTo_frame t]

@[simp] theorem Base.countTo_timed (v : Base) (t : Nat) : (v.countTo t).timed = v.timed := by rw [v.countTo_frame t]

@[simp] theorem Base.countTo_window (v : Base) (t : Nat) : (v.countTo t).window = v.window := by rw [v.countTo_frame t]

@[simp] theorem Base.countTo_goodRun (v : Base) (t : Nat) : (v.countTo t).goodRun = v.goodRun := by rw [v.countTo_frame t]

@[simp] theorem Base.countTo_rxFault (v : Base) (t : Nat) : (v.countTo t).rxFault = v.rxFault := by rw [v.countTo_frame t]

@[simp] theorem Base.countTo_lastSent (v : Base) (t : Nat) : (v.countTo t).lastSent = v.lastSent := by rw [v.countTo_frame t]

@[simp] theorem Base.countTo_peers (v : Base) (t : Nat) : (v.countTo t).peers = v.peers := by rw [v.countTo_frame t]

/-- Counting on leaves the rest of the base, and stops the quiet of the line while an attempt stands (R125). -/
theorem State.countTo_base (t : Nat) (s : State) : (s.countTo t).base =
    { s.base.countTo t with
      idleBits := if s.sch.attempt.isSome then s.base.idleBits else (s.base.countTo t).idleBits } := by
  unfold State.countTo State.passing
  by_cases h : s.sch.attempt.isSome
  · rw [if_pos h, if_pos h]
  · rw [if_neg h, if_neg h]

/-- With no attempt in progress the quiet of the line counts too. -/
theorem State.countTo_base_free (t : Nat) (s : State) (h : s.sch.attempt = none) :
    (s.countTo t).base = s.base.countTo t := by
  rw [s.countTo_base t, h]
  rfl

@[simp] theorem State.countTo_clock (t : Nat) (s : State) : (s.countTo t).base.clock = (s.base.countTo t).clock := by
  simp [State.countTo_base]

@[simp] theorem State.countTo_frac (t : Nat) (s : State) : (s.countTo t).base.frac = (s.base.countTo t).frac := by
  simp [State.countTo_base]

@[simp] theorem State.countTo_cfg (t : Nat) (s : State) : (s.countTo t).base.cfg = s.base.cfg := by
  simp [State.countTo_base]

@[simp] theorem State.countTo_station (t : Nat) (s : State) : (s.countTo t).base.station = s.base.station := by
  simp [State.countTo_base]

@[simp] theorem State.countTo_incarnation (t : Nat) (s : State) : (s.countTo t).base.incarnation = s.base.incarnation := by
  simp [State.countTo_base]

@[simp] theorem State.countTo_joinTimer (t : Nat) (s : State) : (s.countTo t).base.joinTimer = s.base.joinTimer := by
  simp [State.countTo_base]

@[simp] theorem State.countTo_leaveTimer (t : Nat) (s : State) : (s.countTo t).base.leaveTimer = s.base.leaveTimer := by
  simp [State.countTo_base]

@[simp] theorem State.countTo_rollTimer (t : Nat) (s : State) : (s.countTo t).base.rollTimer = s.base.rollTimer := by
  simp [State.countTo_base]

@[simp] theorem State.countTo_leavingSent (t : Nat) (s : State) : (s.countTo t).base.leavingSent = s.base.leavingSent := by
  simp [State.countTo_base]

@[simp] theorem State.countTo_timed (t : Nat) (s : State) : (s.countTo t).base.timed = s.base.timed := by
  simp [State.countTo_base]

@[simp] theorem State.countTo_window (t : Nat) (s : State) : (s.countTo t).base.window = s.base.window := by
  simp [State.countTo_base]

@[simp] theorem State.countTo_goodRun (t : Nat) (s : State) : (s.countTo t).base.goodRun = s.base.goodRun := by
  simp [State.countTo_base]

@[simp] theorem State.countTo_rxFault (t : Nat) (s : State) : (s.countTo t).base.rxFault = s.base.rxFault := by
  simp [State.countTo_base]

@[simp] theorem State.countTo_lastSent (t : Nat) (s : State) : (s.countTo t).base.lastSent = s.base.lastSent := by
  simp [State.countTo_base]

@[simp] theorem State.countTo_peers (t : Nat) (s : State) : (s.countTo t).base.peers = s.base.peers := by
  simp [State.countTo_base]

@[simp] theorem State.countTo_now (t : Nat) (s : State) : (s.countTo t).base.now = (s.base.countTo t).now := by
  simp [Base.now]

/-! ## How a command reaches the state -/

/-- A request that the port takes is carried out and answered. -/
theorem State.request_taken (c : Nat) (f : State → Answer) (s : State) (h : s.resetLow = false) (k : s.port.state = .idle) :
    s.request c f = .next ((f s).place c (3 + fieldLength c) s.port) := by
  simp [State.request, h, k]

/-- A request that finds one held is refused BUSY. -/
theorem State.request_held (c : Nat) (f : State → Answer) (s : State) (h : s.resetLow = false) (k : s.port.state ≠ .idle) :
    s.request c f = .next (s.busy (3 + fieldLength c)) := by
  simp [State.request, h, k]

/-- While RESETN is low a request has no effect. -/
theorem State.request_low (c : Nat) (f : State → Answer) (s : State) (h : s.resetLow = true) :
    s.request c f = .next s := by
  simp [State.request, h]

/-- Whatever the request and the state, the block goes on. -/
theorem State.request_next (c : Nat) (f : State → Answer) (s : State) : ∃ t, s.request c f = .next t := by
  unfold State.request
  split
  · exact ⟨_, rfl⟩
  · split <;> exact ⟨_, rfl⟩

theorem State.happens_high (f : State → State) (s : State) (h : s.resetLow = false) : s.happens f = .next (f s) := by
  simp [State.happens, h]

theorem State.happens_low (f : State → State) (s : State) (h : s.resetLow = true) : s.happens f = .next s := by
  simp [State.happens, h]

theorem State.happens_next (f : State → State) (s : State) : ∃ t, s.happens f = .next t := by
  unfold State.happens
  split <;> exact ⟨_, rfl⟩

/-- A time-driven event whose timer runs happens at its due instant. -/
theorem State.atInstant_runs (due : State → Option Nat) (f : State → State) (s : State) (t : Nat) (h : s.resetLow = false)
    (k : due s = some t) : s.atInstant due f = .next (f (s.countTo t)) := by
  simp [State.atInstant, State.happens, h, k]

/-- One whose timer does not run has no effect. -/
theorem State.atInstant_stopped (due : State → Option Nat) (f : State → State) (s : State) (k : due s = none) :
    s.atInstant due f = .next s := by
  unfold State.atInstant State.happens
  split <;> simp [k]

theorem State.atInstant_next (due : State → Option Nat) (f : State → State) (s : State) : ∃ t, s.atInstant due f = .next t :=
  s.happens_next _

end Sys2Proof.Machine
end

