-- ==== Sys2Proof/Laws/Events.lean ====
section
/-! SUPPORT. What an event may do (`Sched.Evolves`), said once for each shared operation of the scheduling blocks. -/

namespace Sys2Proof.Machine

/-! ## The relation -/

theorem Sched.Evolves.refl (s : Sched) : s.Evolves s :=
  ⟨List.prefix_refl _, List.prefix_refl _, rfl, rfl, rfl, rfl, rfl, rfl, fun b h => ⟨b, h, rfl⟩, fun _ _ _ k _ => k, id⟩

theorem Sched.Evolves.trans {s t u : Sched} (h : s.Evolves t) (k : t.Evolves u) : s.Evolves u where
  notices := h.notices.trans k.notices
  pendingOutcomes := h.pendingOutcomes.trans k.pendingOutcomes
  orderCtr := k.orderCtr.trans h.orderCtr
  serialCtr := k.serialCtr.trans h.serialCtr
  linkCtr := k.linkCtr.trans h.linkCtr
  budget := k.budget.trans h.budget
  marks := k.marks.trans h.marks
  links := k.links.trans h.links
  bookings := fun b hb =>
    let ⟨c, hc, e⟩ := k.bookings b hb
    let ⟨a, ha, e'⟩ := h.bookings c hc
    ⟨a, ha, e.trans e'⟩
  ended := fun n g b hb e =>
    k.ended (fun z => n (List.prefix_nil.mp (z ▸ h.pendingOutcomes))) g b (h.ended n g b hb e) e
  fits := fun f => k.fits (h.fits f)

/-- Within the relation, and no stack grows beyond a depth limit that it kept (R112). -/
structure Sched.EvolvesIn (d : Nat) (s t : Sched) : Prop extends Sched.Evolves s t where
  depths : ∀ k, (s.stacked.get k).length ≤ d → (t.stacked.get k).length ≤ d

variable {d : Nat}

theorem Sched.EvolvesIn.refl (s : Sched) : s.EvolvesIn d s := ⟨.refl s, fun _ h => h⟩

theorem Sched.EvolvesIn.trans {s t u : Sched} (h : s.EvolvesIn d t) (k : t.EvolvesIn d u) : s.EvolvesIn d u :=
  ⟨h.toEvolves.trans k.toEvolves, fun i l => k.depths i (h.depths i l)⟩

/-- The fields that the relation speaks of. -/
def Sched.spoken (s : Sched) :=
  ((s.bookings, s.pendingOutcomes, s.orderCtr, s.serialCtr, s.links, s.linkCtr, s.tuners.a.captures, s.tuners.b.captures),
    (s.triggers, s.budget, s.txq, s.seekQueue, s.holds, s.lapsed, s.tallies, s.marks, s.notices, s.stacked))

/-- A change of other fields is within the relation. -/
theorem Sched.EvolvesIn.ofSpoken {s t : Sched} (h : t.spoken = s.spoken) : s.EvolvesIn d t := by
  obtain ⟨b, po, oc, sc, pc, tr, li, lc, tu, bu, pl, un, re, st, tx, wr, at', sq, en, ho, la, ta, tc, ma, no, ov⟩ := s
  obtain ⟨b', po', oc', sc', pc', tr', li', lc', tu', bu', pl', un', re', st', tx', wr', at'', sq', en', ho', la', ta', tc',
    ma', no', ov'⟩ := t
  simp only [Sched.spoken, Prod.mk.injEq] at h
  obtain ⟨⟨rfl, rfl, rfl, rfl, rfl, rfl, h1, h2⟩, rfl, rfl, rfl, rfl, rfl, rfl, rfl, rfl, rfl, rfl⟩ := h
  exact ⟨⟨List.prefix_refl _, List.prefix_refl _, rfl, rfl, rfl, rfl, rfl, rfl, fun b h => ⟨b, h, rfl⟩, fun _ _ _ k _ => k,
    fun f => { f with capturesA := by simpa [h1] using f.capturesA, capturesB := by simpa [h2] using f.capturesB }⟩,
    fun _ h => h⟩

/-- A change of the other fields that keeps the capacities is within the relation. -/
theorem Sched.EvolvesIn.ofFits {s t : Sched}
    (h : (t.bookings, t.pendingOutcomes, t.orderCtr, t.serialCtr, t.linkCtr, t.budget, t.marks, t.links, t.notices, t.stacked) =
      (s.bookings, s.pendingOutcomes, s.orderCtr, s.serialCtr, s.linkCtr, s.budget, s.marks, s.links, s.notices, s.stacked))
    (f : s.Fits → t.Fits) : s.EvolvesIn d t := by
  simp only [Prod.mk.injEq] at h
  obtain ⟨hb, hp, ho, hs, hl, hu, hm, hk, hn, ht⟩ := h
  exact ⟨⟨hn ▸ List.prefix_refl _, hp ▸ List.prefix_refl _, ho, hs, hl, hu, hm, by rw [hk], fun b k => ⟨b, hb ▸ k, rfl⟩,
    fun _ g b k _ => by unfold Sched.bk at *; rw [hb]; exact k, f⟩, fun k l => ht ▸ l⟩

/-- A fold of operations each of which is within the relation is within it. -/
theorem Sched.EvolvesIn.foldl {α : Type} (f : Sched → α → Sched) (h : ∀ (s : Sched) a, s.EvolvesIn d (f s a)) :
    ∀ (l : List α) (s : Sched), s.EvolvesIn d (l.foldl f s)
  | [], s => .refl s
  | a :: l, s => (h s a).trans (Sched.EvolvesIn.foldl f h l (f s a))

theorem Ev.evolves_foldl {α : Type} (f : Ev → α → Ev) (h : ∀ (e : Ev) a, e.s.EvolvesIn d (f e a).s) :
    ∀ (l : List α) (e : Ev), e.s.EvolvesIn d (l.foldl f e).s
  | [], e => .refl e.s
  | a :: l, e => (h e a).trans (Ev.evolves_foldl f h l (f e a))

/-! ## One field -/

theorem Sched.evolves_tuners (s : Sched) (x : Two TunerRec) (ha : s.tuners.a.captures.length ≤ 4 → x.a.captures.length ≤ 4)
    (hb : s.tuners.b.captures.length ≤ 4 → x.b.captures.length ≤ 4) : s.EvolvesIn d { s with tuners := x } :=
  .ofFits rfl fun f => { f with capturesA := ha f.capturesA, capturesB := hb f.capturesB }

theorem Sched.evolves_txq (s : Sched) (x : List QMsg) (h : s.txq.length ≤ 12 → x.length ≤ 12) :
    s.EvolvesIn d { s with txq := x } :=
  .ofFits rfl fun f => { f with txq := h f.txq }

theorem Sched.evolves_seekQueue (s : Sched) (x : List SeekEntry) (h : s.seekQueue.length ≤ 16 → x.length ≤ 16) :
    s.EvolvesIn d { s with seekQueue := x } :=
  .ofFits rfl fun f => { f with seekQueue := h f.seekQueue }

theorem Sched.evolves_holds (s : Sched) (x y : List Hold) (hx : s.holds.length ≤ 4 → x.length ≤ 4)
    (hy : s.lapsed.length ≤ 4 → y.length ≤ 4) : s.EvolvesIn d { s with holds := x, lapsed := y } :=
  .ofFits rfl fun f => { f with holds := hx f.holds, lapsed := hy f.lapsed }

theorem Sched.evolves_tallies (s : Sched) (x : List TallyRec) (h : s.tallies.length ≤ 8 → x.length ≤ 8) :
    s.EvolvesIn d { s with tallies := x } :=
  .ofFits rfl fun f => { f with tallies := h f.tallies }

theorem Sched.evolves_notices (s : Sched) (n : Notice) (h : s.notices.length < 32) :
    s.EvolvesIn d { s with notices := s.notices ++ [n] } :=
  ⟨⟨List.prefix_append _ _, List.prefix_refl _, rfl, rfl, rfl, rfl, rfl, rfl, fun b h => ⟨b, h, rfl⟩, fun _ _ _ k _ => k,
    fun f => { f with notices := by simp; omega }⟩, fun _ h => h⟩

theorem Booking.handle_of_fixed {a b : Booking} (h : a.fixed = b.fixed) : a.handle = b.handle := by
  simp only [Booking.fixed, Prod.mk.injEq] at h
  exact h.1.1

/-- Records changed in place, their fixed fields and the bound on their segments kept. -/
theorem Sched.evolves_map (s : Sched) (f : Booking → Booking) (hf : ∀ b, (f b).fixed = b.fixed)
    (hs : ∀ b, b.segs.length ≤ 4 → (f b).segs.length ≤ 4) (he : ∀ b, b.state = .ended → f b = b) :
    s.EvolvesIn d { s with bookings := s.bookings.map f } := by
  refine ⟨⟨List.prefix_refl _, List.prefix_refl _, rfl, rfl, rfl, rfl, rfl, rfl, ?_, ?_, fun F =>
    { F with handles := ?_, handleRange := ?_, bookings := ?_, hosted := ?_, segs := ?_ }⟩, fun _ h => h⟩
  · intro b hb
    obtain ⟨a, ha, rfl⟩ := List.mem_map.mp hb
    exact ⟨a, ha, hf a⟩
  · intro _ h b hb e
    unfold Sched.bk at hb ⊢
    rw [List.find?_map]
    have : ((fun b : Booking => b.handle == h) ∘ f) = fun b => b.handle == h :=
      funext fun b => by simp [Booking.handle_of_fixed (hf b)]
    rw [this, hb]
    simp [he b e]
  · have : (s.bookings.map f).map Booking.handle = s.bookings.map Booking.handle := by
      rw [List.map_map]
      exact List.map_congr_left fun b _ => Booking.handle_of_fixed (hf b)
    simpa [this] using F.handles
  · intro b hb
    obtain ⟨a, ha, rfl⟩ := List.mem_map.mp hb
    rw [Booking.handle_of_fixed (hf a)]
    exact F.handleRange a ha
  · simpa using F.bookings
  · have : ((s.bookings.map f).filter fun b => b.cls == .hosted).length =
        (s.bookings.filter fun b => b.cls == .hosted).length := by
      rw [List.filter_map, List.length_map]
      congr 1
      apply List.filter_congr
      intro b _
      have := hf b
      simp only [Booking.fixed, Prod.mk.injEq] at this
      simp [Function.comp, this.1.2.2.1]
    simpa [Sched.hostedInUse, this] using F.hosted
  · intro b hb
    obtain ⟨a, ha, rfl⟩ := List.mem_map.mp hb
    exact hs a (F.segs a ha)

theorem Sched.evolves_modB (s : Sched) (h : Nat) (f : Booking → Booking) (hf : ∀ b, (f b).fixed = b.fixed)
    (hs : ∀ b, b.segs.length ≤ 4 → (f b).segs.length ≤ 4) : s.EvolvesIn d (s.modB h f) :=
  s.evolves_map _ (fun b => by split <;> simp [hf]) (fun b hb => by split <;> simp_all) (fun b e => by simp [e])

/-- A change that keeps the segments too. -/
theorem Sched.evolves_modB' (s : Sched) (h : Nat) (f : Booking → Booking) (hf : ∀ b, (f b).fixed = b.fixed)
    (hs : ∀ b, (f b).segs = b.segs) : s.EvolvesIn d (s.modB h f) :=
  s.evolves_modB h f hf fun b hb => by rw [hs]; exact hb

theorem Sched.free_fits (s : Sched) (h : Nat) (F : s.Fits) : (s.free h).Fits :=
  { F with
    handles := F.handles.sublist ((List.filter_sublist).map _)
    handleRange := fun b hb => F.handleRange b (List.mem_filter.mp hb).1
    bookings := Nat.le_trans (List.length_filter_le _ _) F.bookings
    hosted := Nat.le_trans (List.filter_sublist.filter _).length_le F.hosted
    segs := fun b hb => F.segs b (List.mem_filter.mp hb).1 }

/-- An entry is freed while nothing is pending, or when it is not ENDED. -/
theorem Sched.evolves_free (s : Sched) (h : Nat)
    (k : s.pendingOutcomes = [] ∨ ∀ b, s.bk h = some b → b.state ≠ .ended) : s.EvolvesIn d (s.free h) :=
  ⟨⟨List.prefix_refl _, List.prefix_refl _, rfl, rfl, rfl, rfl, rfl, rfl, fun b hb => ⟨b, (List.mem_filter.mp hb).1, rfl⟩,
    fun n g b hb e => by
      by_cases i : g = h
      · subst i
        exact absurd e ((k.resolve_left n) b hb)
      · rw [s.bk_free_other i]
        exact hb,
    s.free_fits h⟩, fun _ l => l⟩

/-! ## Shared operations of Ops and Times -/

theorem Sched.evolves_notice (s : Sched) (n : Notice) : s.EvolvesIn d (s.notice n) := by
  unfold Sched.notice
  split
  · rename_i h
    simp only [Bool.and_eq_true, decide_eq_true_eq] at h
    exact s.evolves_notices n h.1
  · exact .ofSpoken rfl

theorem Sched.evolves_pend (s : Sched) (h : Nat) : s.EvolvesIn d { s with pendingOutcomes := s.pendingOutcomes ++ [h] } :=
  ⟨⟨List.prefix_refl _, List.prefix_append _ _, rfl, rfl, rfl, rfl, rfl, rfl, fun b h => ⟨b, h, rfl⟩, fun _ _ _ k _ => k,
    fun F => { F with }⟩, fun _ h => h⟩

theorem Sched.evolves_offerOutcome (s : Sched) (h : Nat) : s.EvolvesIn d (s.offerOutcome h) := by
  unfold Sched.offerOutcome
  split
  · exact .refl s
  · split
    · rename_i b _ k
      simp only [Bool.and_eq_true, decide_eq_true_eq, List.isEmpty_iff] at k
      exact (s.evolves_notices _ k.2).trans (Sched.evolves_free _ h (.inl k.1))
    · exact s.evolves_pend h

/-- What the room that a FETCH-NOTICE made does to the rest (R17, R186). -/
theorem Sched.admitPending_fits (s : Sched) (F : s.Fits) : s.admitPending.Fits := by
  unfold Sched.admitPending
  split
  · exact F
  · rename_i h rest _
    have F' : ({ s with pendingOutcomes := rest } : Sched).Fits := { F with }
    split
    · rename_i k
      split
      · exact F'
      · rename_i b _
        exact Sched.free_fits _ h ((Sched.evolves_notices (d := 0) { s with pendingOutcomes := rest } b.outcomeNotice k).fits F')
    · exact F

theorem Sched.evolves_triggers (s : Sched) (x : List Trigger)
    (h : s.Fits → (x.map Trigger.handle).Nodup ∧ ∀ t ∈ x, t.handle < 128) : s.EvolvesIn d { s with triggers := x } :=
  .ofFits rfl fun F => { F with triggers := (h F).1, triggerRange := (h F).2 }

theorem Sched.evolves_disarm (s : Sched) (h : Nat) : s.EvolvesIn d (s.disarm h) :=
  s.evolves_triggers _ fun F =>
    ⟨F.triggers.sublist ((List.filter_sublist).map _), fun t ht => F.triggerRange t (List.mem_filter.mp ht).1⟩

theorem insertTrigger_perm (t : Trigger) : ∀ l, (insertTrigger t l).Perm (t :: l)
  | [] => .refl _
  | x :: l => by
    unfold insertTrigger
    split
    · exact .refl _
    · exact ((insertTrigger_perm t l).cons x).trans (.swap t x l)

theorem Sched.evolves_arm (v : Base) (h : Nat) (s : Sched) : s.EvolvesIn d (s.arm v h) := by
  unfold Sched.arm
  split
  · exact s.evolves_disarm h
  · rename_i k t e
    refine (s.evolves_disarm h).trans (Sched.evolves_triggers _ _ fun F => ?_)
    obtain ⟨b, hb, _⟩ := Option.bind_eq_some_iff.mp e
    have p := insertTrigger_perm ⟨h, k, t⟩ (s.disarm h).triggers
    constructor
    · rw [(p.map Trigger.handle).nodup_iff, List.map_cons, List.nodup_cons]
      refine ⟨?_, F.triggers⟩
      simp [Sched.disarm]
    · intro x hx
      rcases List.mem_cons.mp (p.mem_iff.mp hx) with rfl | hx
      · exact (s.bk_handle hb).1 ▸ F.handleRange b (s.bk_handle hb).2
      · exact F.triggerRange x hx

@[simp] theorem Ev.on_s (e : Ev) (f : Sched → Sched) : (e.on f).s = f e.s := rfl

@[simp] theorem Ev.askExam_s (e : Ev) (t : Tuner) : (e.askExam t).s = e.s := rfl

@[simp] theorem Ev.askRetry_s (e : Ev) (k : Bool) : (e.askRetry k).s = e.s := rfl

@[simp] theorem Ev.askLook_s (e : Ev) : e.askLook.s = e.s := rfl

@[simp] theorem Ev.of_s (s : Sched) : (Ev.of s).s = s := rfl

theorem Ev.arm_s (v : Base) (h : Nat) (e : Ev) : (e.arm v h).s = e.s.arm v h := by
  unfold Ev.arm
  dsimp only
  split <;> rfl

theorem Ev.evolves_arm (v : Base) (h : Nat) (e : Ev) : e.s.EvolvesIn d (e.arm v h).s := by
  rw [Ev.arm_s]
  exact e.s.evolves_arm v h

/-- An operation on an event that works on the scheduling state alone. -/
theorem Ev.evolves_on (e : Ev) (f : Sched → Sched) (h : ∀ s : Sched, s.EvolvesIn d (f s)) : e.s.EvolvesIn d (e.on f).s := h e.s

/-! ## Shared operations of Link and Tuners -/

theorem Sched.evolves_offer (v : Base) (rank : Nat) (m : Msg) (b : Option Nat) (s : Sched) :
    s.EvolvesIn d (s.offer v rank m b) := by
  unfold Sched.offer
  split
  · exact .refl s
  · exact .refl s
  · rename_i h
    apply s.evolves_txq
    intro _
    unfold offerAnswer at h
    split at h
    · cases h
    · split at h
      · cases h
      · split at h
        · rename_i k
          simp
          omega
        · cases h
  · split
    · exact .ofSpoken rfl
    · exact s.evolves_txq _ (by simp)

theorem Sched.evolves_unqueue (s : Sched) (p : Msg → Bool) : s.EvolvesIn d (s.unqueue p) :=
  s.evolves_txq _ (Nat.le_trans (List.length_filter_le _ _))

theorem Sched.evolves_emptyQueue (s : Sched) : s.EvolvesIn d s.emptyQueue :=
  ((s.evolves_txq [] (by simp)).trans (Sched.evolves_tallies _ (s.tallies.map fun t => { t with offered := false })
    (by simp))).trans (.ofSpoken rfl)

theorem Sched.evolves_modTuner (s : Sched) (t : Tuner) (f : TunerRec → TunerRec)
    (h : ∀ r, r.captures.length ≤ 4 → (f r).captures.length ≤ 4) : s.EvolvesIn d (s.modTuner t f) := by
  cases t
  · exact s.evolves_tuners _ (h _) id
  · exact s.evolves_tuners _ id (h _)

theorem Sched.evolves_leaveCapture (s : Sched) (h : Nat) : s.EvolvesIn d (s.leaveCapture h) :=
  s.evolves_tuners _ (Nat.le_trans (List.length_filter_le _ _)) (Nat.le_trans (List.length_filter_le _ _))

theorem Sched.evolves_joinCapture (s : Sched) (t : Tuner) (c : Capture) : s.EvolvesIn d (s.joinCapture t c) :=
  s.evolves_modTuner t _ fun r hr => by
    split
    · simp; omega
    · exact hr

theorem TunerRec.issue_captures (v : Base) (mux : Option Nat) (r : TunerRec) : (r.issue v mux).captures = r.captures := by
  unfold TunerRec.issue
  dsimp only
  split <;> (try split) <;> rfl

theorem Sched.evolves_revise (v : Base) (s : Sched) (t : Tuner) : s.EvolvesIn d (s.revise v t) := by
  unfold Sched.revise
  split
  · exact s.evolves_modTuner t _ fun r hr => by rw [TunerRec.issue_captures]; exact hr
  · exact .refl s

theorem Sched.evolves_reviseAll (v : Base) (s : Sched) : s.EvolvesIn d (s.reviseAll v) :=
  (s.evolves_revise v .A).trans (Sched.evolves_revise v _ .B)

/-! ## Shared operations of Ending -/

theorem closeOpen_length (time : Nat) (l : List Segment) : (closeOpen time l).length = l.length := by
  simp [closeOpen]

theorem Sched.evolves_closeSeg (s : Sched) (h time : Nat) : s.EvolvesIn d (s.closeSeg h time) :=
  s.evolves_modB h _ (fun _ => rfl) fun b hb => by simpa [closeOpen_length] using hb

theorem Sched.evolves_leaveUnplaced (s : Sched) (h : Nat) : s.EvolvesIn d (s.leaveUnplaced h) := .ofSpoken rfl

theorem Sched.evolves_leaveReferral (s : Sched) (h : Nat) : s.EvolvesIn d (s.leaveReferral h) := .ofSpoken rfl

theorem Sched.evolves_joinUnplaced (s : Sched) (h : Nat) : s.EvolvesIn d (s.joinUnplaced h) := by
  unfold Sched.joinUnplaced
  split
  · exact .refl s
  · exact .ofSpoken rfl

/-- A stack changed on one tuner, and no longer for it. -/
theorem Sched.evolves_stack (s : Sched) (t : Tuner) (f : List StackRec → List StackRec)
    (h : (s.stacked.get t).length ≤ d → (f (s.stacked.get t)).length ≤ d) :
    s.EvolvesIn d { s with stacked := s.stacked.mod t f } :=
  ⟨⟨List.prefix_refl _, List.prefix_refl _, rfl, rfl, rfl, rfl, rfl, rfl, fun b h => ⟨b, h, rfl⟩, fun _ _ _ k _ => k,
    fun F => { F with }⟩, fun k l => by cases t <;> cases k <;> first | exact l | exact h l⟩

theorem Ev.evolves_leavePlanOf (h : Nat) (e : Ev) (t : Tuner) : e.s.EvolvesIn d (e.leavePlanOf h t).s := by
  have plan : e.s.EvolvesIn d { e.s with plans := e.s.plans.mod t (List.filter fun p => p.handle != h) } := .ofSpoken rfl
  unfold Ev.leavePlanOf
  split
  · dsimp only
    split
    · exact plan
    · rename_i b _
      have stack := plan.trans (Sched.evolves_stack _ t (List.map (endRankCause h b.id)) (by simp))
      split <;> exact stack
  · exact .refl _

theorem Ev.evolves_leavePlan (h : Nat) (e : Ev) : e.s.EvolvesIn d (e.leavePlan h).s :=
  (e.evolves_leavePlanOf h .A).trans (Ev.evolves_leavePlanOf h _ .B)

theorem dropHandle_length (h : Nat) (l : List StackRec) : (dropHandle h l).length ≤ l.length :=
  Nat.le_trans (List.length_filter_le _ _) (by simp)

theorem Ev.evolves_leaveStackOf (h : Nat) (e : Ev) (t : Tuner) : e.s.EvolvesIn d (e.leaveStackOf h t).s := by
  unfold Ev.leaveStackOf
  dsimp only
  split
  · have stack := e.s.evolves_stack (d := d) t (dropHandle h) (Nat.le_trans (dropHandle_length h _))
    split <;> exact stack
  · exact .refl _

theorem Ev.evolves_leaveStack (h : Nat) (e : Ev) : e.s.EvolvesIn d (e.leaveStack h).s :=
  (e.evolves_leaveStackOf h .A).trans (Ev.evolves_leaveStackOf h _ .B)

theorem Ev.evolves_withdraw (v : Base) (h station : Nat) (e : Ev) : e.s.EvolvesIn d (e.withdraw v h station).s := by
  unfold Ev.withdraw
  split
  · exact .refl _
  · exact e.s.evolves_offer v _ _ _

theorem Ev.evolves_abandonEngine (v : Base) (h : Nat) (e : Ev) : e.s.EvolvesIn d (e.abandonEngine v h).s := by
  unfold Ev.abandonEngine
  split
  · split
    · exact (e.s.evolves_unqueue _).trans (.ofSpoken rfl)
    · exact .refl _
  · split
    · dsimp only
      split
      · exact (e.s.evolves_unqueue _).trans (.ofSpoken rfl)
      · exact (e.evolves_withdraw v h _).trans (.ofSpoken rfl)
    · exact .refl _
  · exact .refl _

theorem Ev.evolves_abandon (v : Base) (h : Nat) (e : Ev) : e.s.EvolvesIn d (e.abandon v h).s :=
  (e.evolves_abandonEngine v h).trans (Sched.evolves_seekQueue _ _ (Nat.le_trans (List.length_filter_le _ _)))

theorem Ev.evolves_leaveAll (v : Base) (h : Nat) (e : Ev) : e.s.EvolvesIn d (e.leaveAll v h).s := by
  refine .trans ?_ (Ev.evolves_abandon v h _)
  refine .trans ?_ (Ev.evolves_leaveStack h _)
  refine .trans ?_ (.trans (Sched.evolves_leaveUnplaced _ h) (Sched.evolves_leaveReferral _ h))
  exact (e.s.evolves_leaveCapture h).trans (Ev.evolves_leavePlan h (e.on fun s => s.leaveCapture h))

theorem Sched.evolves_offerMark (v : Base) (h : Nat) (s : Sched) : s.EvolvesIn d (s.offerMark v h) := by
  unfold Sched.offerMark
  repeat' split
  all_goals first | exact .refl s | exact s.evolves_offer v _ _ _

theorem offerTally_evolves (v : Base) (r : TallyRec) (s : Sched) : s.EvolvesIn d (offerTally v r s).2 := by
  unfold offerTally
  split
  · exact s.evolves_offer v _ _ _
  · exact .refl s

theorem offerTallyList_evolves (v : Base) (p : TallyRec → Bool) :
    ∀ (l : List TallyRec) (s : Sched), s.EvolvesIn d (offerTallyList v p l s).2
  | [], s => .refl s
  | r :: l, s => by
    simp only [offerTallyList]
    split
    · exact (offerTally_evolves v r s).trans (offerTallyList_evolves v p l _)
    · exact offerTallyList_evolves v p l s

theorem offerTallyList_length (v : Base) (p : TallyRec → Bool) :
    ∀ (l : List TallyRec) (s : Sched), (offerTallyList v p l s).1.length = l.length
  | [], _ => rfl
  | r :: l, s => by
    simp only [offerTallyList, List.length_cons]
    rw [offerTallyList_length]

theorem Sched.offer_tallies (v : Base) (rank : Nat) (m : Msg) (b : Option Nat) (s : Sched) :
    (s.offer v rank m b).tallies = s.tallies := by
  unfold Sched.offer
  split <;> (try split) <;> rfl

theorem offerTally_tallies (v : Base) (r : TallyRec) (s : Sched) : (offerTally v r s).2.tallies = s.tallies := by
  unfold offerTally
  split
  · exact Sched.offer_tallies _ _ _ _ _
  · rfl

theorem offerTallyList_tallies (v : Base) (p : TallyRec → Bool) :
    ∀ (l : List TallyRec) (s : Sched), (offerTallyList v p l s).2.tallies = s.tallies
  | [], _ => rfl
  | r :: l, s => by
    simp only [offerTallyList]
    rw [offerTallyList_tallies]
    split
    · exact offerTally_tallies v r s
    · rfl

theorem Sched.evolves_offerTallies (v : Base) (p : TallyRec → Bool) (s : Sched) : s.EvolvesIn d (s.offerTallies v p) := by
  refine (offerTallyList_evolves v p s.tallies s).trans (Sched.evolves_tallies _ _ ?_)
  rw [offerTallyList_length, offerTallyList_tallies]
  exact id

theorem Sched.evolves_orphan (s : Sched) (c : OrphanCause) (p : TallyRec → Bool) : s.EvolvesIn d (s.orphan c p) :=
  (s.evolves_tallies _ (Nat.le_trans (List.length_filter_le _ _))).trans
    (Sched.EvolvesIn.foldl _ (fun s _ => s.evolves_notice _) _ _)

theorem Sched.evolves_tallyRoom (s : Sched) : s.EvolvesIn d s.tallyRoom := by
  unfold Sched.tallyRoom
  split
  · exact .refl s
  · rename_i old rest h
    split
    · refine (s.evolves_tallies rest ?_).trans (Sched.evolves_notice _ _)
      rw [h]
      simp
      omega
    · exact .refl s

theorem Sched.notice_tallies (s : Sched) (n : Notice) : (s.notice n).tallies = s.tallies := by
  unfold Sched.notice
  split <;> rfl

theorem Sched.tallyRoom_length (s : Sched) (h : s.tallies.length ≤ 8) : s.tallyRoom.tallies.length ≤ 7 := by
  unfold Sched.tallyRoom
  split
  · rename_i k
    simp [k]
  · rename_i old rest k
    rw [k, List.length_cons] at h
    split
    · rw [Sched.notice_tallies]
      show rest.length ≤ 7
      omega
    · rename_i j
      rw [k, List.length_cons] at j ⊢
      omega

theorem Sched.evolves_addTally (v : Base) (b : Booking) (o : BOutcome × Reason) (s : Sched) :
    s.EvolvesIn d (s.addTally v b o) := by
  have h := (s.evolves_tallyRoom (d := d)).trans (offerTally_evolves v (b.tallyRec o s.tallyRoom.tallyCtr) s.tallyRoom)
  refine { h with fits := fun F => { h.fits F with tallies := ?_ } }
  simp only [Sched.addTally, List.length_append, List.length_singleton]
  rw [offerTally_tallies]
  have := s.tallyRoom_length F.tallies
  omega

theorem Link.restore_fixed (ep : Option Nat) (l : Link) : (l.restore ep).fixed = l.fixed := rfl

theorem Link.slot_of_fixed {a b : Link} (h : a.fixed = b.fixed) : a.slot = b.slot := by
  simp only [Link.fixed, Prod.mk.injEq] at h
  exact h.1.1

/-- Links changed in place, their fixed fields, the bounds on their episodes and their counts kept. -/
theorem Sched.evolves_links (s : Sched) (f : Link → Link) (hf : ∀ l, (f l).fixed = l.fixed)
    (he : ∀ l, l.episodes.length ≤ 48 → (f l).episodes.length ≤ 48) (hn : ∀ l, l.episodes.Nodup → (f l).episodes.Nodup)
    (hc : ∀ l, (∀ c ∈ l.count, c.remaining ≤ c.initial) → ∀ c ∈ (f l).count, c.remaining ≤ c.initial) :
    s.EvolvesIn d { s with links := s.links.map f } := by
  have each (P : Link → Prop) (h : ∀ l ∈ s.links, P (f l)) : ∀ l ∈ s.links.map f, P l := fun l hl => by
    obtain ⟨k, hk, rfl⟩ := List.mem_map.mp hl
    exact h k hk
  refine ⟨⟨List.prefix_refl _, List.prefix_refl _, rfl, rfl, rfl, rfl, rfl, ?_, fun b h => ⟨b, h, rfl⟩, fun _ _ _ k _ => k,
    fun F => { F with
      slots := ?_
      slotRange := each _ fun k hk => Link.slot_of_fixed (hf k) ▸ F.slotRange k hk
      links := by simpa using F.links
      episodes := each _ fun k hk => he k (F.episodes k hk)
      episodesOnce := each _ fun k hk => hn k (F.episodesOnce k hk)
      counts := each _ fun k hk => hc k (F.counts k hk) }⟩, fun _ h => h⟩
  · simp [List.map_map, Function.comp_def, hf]
  · have : (s.links.map f).map Link.slot = s.links.map Link.slot := by
      rw [List.map_map]
      exact List.map_congr_left fun l _ => Link.slot_of_fixed (hf l)
    simpa [this] using F.slots

theorem Link.restore_counts (ep : Option Nat) (l : Link) : ∀ c ∈ (l.restore ep).count, c.remaining ≤ c.initial := by
  intro c hc
  obtain ⟨k, _, rfl⟩ := Option.map_eq_some_iff.mp hc
  exact Nat.min_le_left _ _

theorem Sched.evolves_episodeOutcome (b : Booking) (o : BOutcome × Reason) (s : Sched) :
    s.EvolvesIn d (s.episodeOutcome b o) := by
  unfold Sched.episodeOutcome
  split
  · refine s.evolves_links _ (fun l => ?_) (fun l hl => ?_) (fun l hl => ?_) (fun l hl => ?_)
    · split <;> rfl
    · split
      · exact Nat.le_trans (List.length_filter_le _ _) hl
      · exact hl
    · split
      · exact hl.filter _
      · exact hl
    · split
      · exact l.restore_counts b.episode
      · exact hl
  · exact .refl s

theorem Ev.evolves_closeAndLeave (v : Base) (h time : Nat) (e : Ev) :
    e.s.EvolvesIn d ((e.on fun s => s.closeSeg h time).leaveAll v h).s :=
  (e.s.evolves_closeSeg h time).trans (Ev.evolves_leaveAll v h (e.on fun s => s.closeSeg h time))

theorem Sched.evolves_ended (s : Sched) (h : Nat) (b : Booking) (o o' : BOutcome × Reason) :
    s.EvolvesIn d (((s.modB h (Booking.ended o)).disarm h).episodeOutcome b o') :=
  ((s.evolves_modB' h (Booking.ended o) (fun _ => rfl) (fun _ => rfl)).trans (Sched.evolves_disarm _ h)).trans
    (Sched.evolves_episodeOutcome _ _ _)

theorem Ev.evolves_endAt (v : Base) (h time : Nat) (tally : Bool) (o : Booking → BOutcome × Reason) (e : Ev) :
    e.s.EvolvesIn d (e.endAt v h time tally o).s := by
  unfold Ev.endAt
  split
  · exact .refl _
  · rename_i b _
    split
    · exact .refl _
    · dsimp only
      have h1 := e.evolves_closeAndLeave (d := d) v h time
      have h2 := h1.trans (Sched.evolves_ended _ h b (o { b with segs := closeOpen time b.segs })
        (o { b with segs := closeOpen time b.segs }))
      refine Sched.EvolvesIn.trans ?_ (Sched.evolves_offerOutcome _ h)
      split
      · exact h2.trans (Sched.evolves_addTally v _ _ _)
      · exact h2

theorem Ev.evolves_endNow (v : Base) (h : Nat) (o : Booking → BOutcome × Reason) (e : Ev) :
    e.s.EvolvesIn d (e.endNow v h o).s := e.evolves_endAt v h _ _ o

theorem Ev.evolves_cancel (v : Base) (h : Nat) (r : Reason) (e : Ev) : e.s.EvolvesIn d (e.cancel v h r).s := by
  unfold Ev.cancel
  dsimp only
  split
  · exact (e.evolves_withdraw v h _).trans (Ev.evolves_endNow v h _ _)
  · exact Ev.evolves_endNow v h _ _

/-- Leaving the plan, lists and records changes no booking record. -/
theorem Ev.leaveAll_bookings (v : Base) (h : Nat) (e : Ev) : (e.leaveAll v h).s.bookings = e.s.bookings := by
  have plan (k : Tuner) (e : Ev) : (e.leavePlanOf h k).s.bookings = e.s.bookings := by
    unfold Ev.leavePlanOf
    dsimp only
    repeat' split
    all_goals rfl
  have stack (k : Tuner) (e : Ev) : (e.leaveStackOf h k).s.bookings = e.s.bookings := by
    unfold Ev.leaveStackOf
    dsimp only
    repeat' split
    all_goals rfl
  have offer (r : Nat) (m : Msg) (s : Sched) : (s.offer v r m none).bookings = s.bookings := by
    unfold Sched.offer
    repeat' split
    all_goals rfl
  have withdraw (n : Nat) (e : Ev) : (e.withdraw v h n).s.bookings = e.s.bookings := by
    unfold Ev.withdraw
    split
    · rfl
    · exact offer _ _ _
  have engine (e : Ev) : (e.abandonEngine v h).s.bookings = e.s.bookings := by
    unfold Ev.abandonEngine
    dsimp only
    repeat' split
    all_goals first | rfl | exact withdraw _ e
  unfold Ev.leaveAll Ev.abandon Ev.leaveStack Ev.leavePlan
  dsimp only [Ev.on_s]
  rw [engine, stack, stack]
  exact (plan _ _).trans (plan _ _)

theorem Sched.offer_bookings (v : Base) (r : Nat) (m : Msg) (b : Option Nat) (s : Sched) :
    (s.offer v r m b).bookings = s.bookings := by
  unfold Sched.offer
  repeat' split
  all_goals rfl

theorem Ev.evolves_giveBack (v : Base) (h : Nat) (r : ReturnReason) (e : Ev) : e.s.EvolvesIn d (e.giveBack v h r).s := by
  unfold Ev.giveBack
  split
  · exact .refl _
  · rename_i b hb
    dsimp only
    split
    · exact .refl _
    · rename_i ne
      split
      · refine Sched.EvolvesIn.trans ?_ (Sched.evolves_free _ h (.inr fun c hc => ?_))
        · exact (e.evolves_closeAndLeave v h v.clock).trans
            ((Sched.evolves_disarm _ h).trans (Sched.evolves_offer v _ _ _ _))
        · have : (e.s.closeSeg h v.clock).bk h = some c := by
            rw [← hc]
            unfold Sched.bk
            simp only [Ev.on_s, Sched.offer_bookings, Sched.disarm_bookings, Ev.leaveAll_bookings]
          have k : (e.s.closeSeg h v.clock).bk h = some { b with segs := closeOpen v.clock b.segs } :=
            Sched.bk_modB_self _ (fun _ => rfl) hb ne
          rw [this] at k
          cases k
          exact ne
      · exact Ev.evolves_endNow v h _ _

end Sys2Proof.Machine
end

