-- ==== Sys2Proof/Laws/PerInstr.lean ====
section
/-! SUPPORT. Statements for all commands, one lemma for each constructor. -/

namespace Sys2Proof.Laws.Shape

open Sys2Proof Sys2Proof.Machine

/-- The shape of a request's record (R182, R183): its code is one of the 24, its fields take at most 64 bytes, and each of
their presence bytes stands among them. -/
def Statement (i : Instr) : Prop :=
  ∀ c, i.code = some c → 1 ≤ c ∧ c ≤ 24 ∧ fieldLength c ≤ 64 ∧ ∀ k ∈ presenceAt c, k < fieldLength c

/-- What a request of a code needs for its shape. -/
theorem ofCode (i : Instr) (n : Nat) (h : i.code = some n)
    (k : 1 ≤ n ∧ n ≤ 24 ∧ fieldLength n ≤ 64 ∧ ∀ k ∈ presenceAt n, k < fieldLength n) : Statement i := by
  intro c e
  rw [h] at e
  cases e
  exact k

/-- A command that is no request has no record. -/
theorem ofNone (i : Instr) (h : i.code = none) : Statement i := by
  intro c e
  rw [h] at e
  cases e

theorem coldReset : Statement .coldReset := ofNone _ rfl

theorem configure (c : ConfigFields) : Statement (.configure c) := ofCode _ 1 rfl (by decide)

theorem join : Statement .join := ofCode _ 2 rfl (by decide)

theorem leave : Statement .leave := ofCode _ 3 rfl (by decide)

theorem restart : Statement .restart := ofCode _ 4 rfl (by decide)

theorem setClock (time : Nat) : Statement (.setClock time) := ofCode _ 5 rfl (by decide)

theorem book (f : BookFields) : Statement (.book f) := ofCode _ 6 rfl (by decide)

theorem amend (handle : Nat) (expect : Option BookingId) (f : AmendFields) : Statement (.amend handle expect f) := ofCode _ 7 rfl (by decide)

theorem cancel (handle : Nat) (expect : Option BookingId) : Statement (.cancel handle expect) := ofCode _ 8 rfl (by decide)

theorem readBooking (handle : Nat) (expect : Option BookingId) : Statement (.readBooking handle expect) := ofCode _ 9 rfl (by decide)

theorem nextBooking (start : Option StartAt) (filter : Nat) : Statement (.nextBooking start filter) := ofCode _ 10 rfl (by decide)

theorem link (f : LinkFields) : Statement (.link f) := ofCode _ 11 rfl (by decide)

theorem unlink (id : LinkId) : Statement (.unlink id) := ofCode _ 12 rfl (by decide)

theorem readLink (key : LinkKey) : Statement (.readLink key) := ofCode _ 13 rfl (by decide)

theorem guideEvent (f : GuideFields) : Statement (.guideEvent f) := ofCode _ 14 rfl (by decide)

theorem running (service : Nat) (event : Nat) (status : Nat) : Statement (.running service event status) := ofCode _ 15 rfl (by decide)

theorem holdLive (multiplex : Nat) (service : Nat) (force : Nat) : Statement (.holdLive multiplex service force) := ofCode _ 16 rfl (by decide)

theorem releaseLive : Statement .releaseLive := ofCode _ 17 rfl (by decide)

theorem powerBudget (tuners : Nat) : Statement (.powerBudget tuners) := ofCode _ 18 rfl (by decide)

theorem readDirective (tuner : Nat) : Statement (.readDirective tuner) := ofCode _ 19 rfl (by decide)

theorem tunerReport (tuner : Nat) (serial : Nat) (status : Nat) : Statement (.tunerReport tuner serial status) := ofCode _ 20 rfl (by decide)

theorem resolve (handle : Nat) (expect : Option BookingId) (decision : Nat) : Statement (.resolve handle expect decision) := ofCode _ 21 rfl (by decide)

theorem fetchNotice : Statement .fetchNotice := ofCode _ 22 rfl (by decide)

theorem readPeer (station : Nat) : Statement (.readPeer station) := ofCode _ 23 rfl (by decide)

theorem readStation (part : Nat) : Statement (.readStation part) := ofCode _ 24 rfl (by decide)

theorem badFormRequest (bytes : List Byte) : Statement (.badFormRequest bytes) := ofNone _ rfl

theorem busyRequest (first : Byte) : Statement (.busyRequest first) := ofNone _ rfl

theorem collection (clocked : Nat) : Statement (.collection clocked) := ofNone _ rfl

theorem prepare (handle : Nat) : Statement (.prepare handle) := ofNone _ rfl

theorem start (handle : Nat) : Statement (.start handle) := ofNone _ rfl

theorem grace (handle : Nat) : Statement (.grace handle) := ofNone _ rfl

theorem stop (handle : Nat) : Statement (.stop handle) := ofNone _ rfl

theorem overrun (handle : Nat) : Statement (.overrun handle) := ofNone _ rfl

theorem epochDayChange : Statement .epochDayChange := ofNone _ rfl

theorem tuneTimerExpiry (tuner : Nat) : Statement (.tuneTimerExpiry tuner) := ofNone _ rfl

theorem recheckTimerExpiry (tuner : Nat) : Statement (.recheckTimerExpiry tuner) := ofNone _ rfl

theorem rollTimerExpiry : Statement .rollTimerExpiry := ofNone _ rfl

theorem joinTimerExpiry : Statement .joinTimerExpiry := ofNone _ rfl

theorem leaveTimerExpiry : Statement .leaveTimerExpiry := ofNone _ rfl

theorem intervalDeadlineExpiry (station : Nat) : Statement (.intervalDeadlineExpiry station) := ofNone _ rfl

theorem seekReadyTime (handle : Nat) : Statement (.seekReadyTime handle) := ofNone _ rfl

theorem bidWindowEnd : Statement .bidWindowEnd := ofNone _ rfl

theorem takeTimerExpiry : Statement .takeTimerExpiry := ofNone _ rfl

theorem queuedBidRemoved (id : BookingId) : Statement (.queuedBidRemoved id) := ofNone _ rfl

theorem holdExpiry (id : BookingId) : Statement (.holdExpiry id) := ofNone _ rfl

theorem lapsedRecordDiscard (id : BookingId) : Statement (.lapsedRecordDiscard id) := ofNone _ rfl

theorem marksHeardExpiry (series : Nat) (episode : Nat) (station : Nat) : Statement (.marksHeardExpiry series episode station) := ofNone _ rfl

theorem confirmDeadlineExpiry (handle : Nat) : Statement (.confirmDeadlineExpiry handle) := ofNone _ rfl

theorem attemptStart : Statement .attemptStart := ofNone _ rfl

theorem messageSent : Statement .messageSent := ofNone _ rfl

theorem attemptFailed (why : AttemptEnd) : Statement (.attemptFailed why) := ofNone _ rfl

theorem badFrameReceived (why : BadFrame) : Statement (.badFrameReceived why) := ofNone _ rfl

theorem rollArrival (h : FrameHead) (f : RollFields) : Statement (.rollArrival h f) := ofNone _ rfl

theorem seekArrival (h : FrameHead) (f : SeekFields) : Statement (.seekArrival h f) := ofNone _ rfl

theorem bidArrival (h : FrameHead) (f : BidFields) : Statement (.bidArrival h f) := ofNone _ rfl

theorem awardArrival (h : FrameHead) (f : AwardFields) : Statement (.awardArrival h f) := ofNone _ rfl

theorem takeArrival (h : FrameHead) (id : BookingId) (number : Nat) : Statement (.takeArrival h id number) := ofNone _ rfl

theorem declineArrival (h : FrameHead) (id : BookingId) (number : Nat) (reason : Nat) : Statement (.declineArrival h id number reason) := ofNone _ rfl

theorem withdrawArrival (h : FrameHead) (id : BookingId) (addressee : Nat) : Statement (.withdrawArrival h id addressee) := ofNone _ rfl

theorem returnArrival (h : FrameHead) (f : ReturnFields) : Statement (.returnArrival h f) := ofNone _ rfl

theorem tallyArrival (h : FrameHead) (f : TallyFields) : Statement (.tallyArrival h f) := ofNone _ rfl

theorem markArrival (h : FrameHead) (f : MarkFields) : Statement (.markArrival h f) := ofNone _ rfl

theorem resetnHeldLow : Statement .resetnHeldLow := ofNone _ rfl

theorem malformedFrame (household : Nat) (cls : Nat) : Statement (.malformedFrame household cls) := ofNone _ rfl

end Sys2Proof.Laws.Shape
end

