-- ==== Sys2Proof/Laws/Placing.lean ====
section
/-! SUPPORT. What an event may do (`Sched.Evolves`), said once for each operation of placement, capture, stacks, the seek
engine, the usable set and the triggers, up to a whole event. -/

namespace Sys2Proof.Machine

variable {d : Nat}

/-! ## Placement -/

/-- A booking put into a state keeps its fixed fields and its segments. -/
theorem Booking.inState_fixed (st : BState) (p : Plan) (b : Booking) : (b.inState st p).fixed = b.fixed := rfl

theorem Sched.evolves_inState (s : Sched) (h : Nat) (st : BState) (p : Plan) : s.EvolvesIn d (s.modB h (Booking.inState st p)) :=
  s.evolves_modB' h _ (fun _ => rfl) (fun _ => rfl)

theorem Sched.evolves_joinPlan (s : Sched) (t : Tuner) (p : PlanEntry) : s.EvolvesIn d (s.joinPlan t p) := .ofSpoken rfl

theorem Ev.evolves_leaveWaiting (h : Nat) (e : Ev) : e.s.EvolvesIn d (e.leaveWaiting h).s :=
  (e.s.evolves_leaveUnplaced h).trans (Ev.evolves_leaveStack h (e.on fun s => s.leaveUnplaced h))

theorem Ev.evolves_enterPlan (v : Base) (h : Nat) (t : Tuner) (p : Bool) (e : Ev) :
    e.s.EvolvesIn d (e.enterPlan v h t p).s := by
  unfold Ev.enterPlan
  dsimp only
  refine Sched.EvolvesIn.trans ?_ (Ev.evolves_arm v h _)
  exact (e.evolves_leaveWaiting h).trans ((Sched.evolves_inState _ h _ _).trans (Sched.evolves_joinPlan _ t _))

theorem Sched.insertHandle_length (s : Sched) (h : Nat) (l : List Nat) : (s.insertHandle h l).length = l.length + 1 := by
  induction l with
  | nil => rfl
  | cons x l ih =>
    unfold Sched.insertHandle
    split
    · split
      · rfl
      · simp [ih]
    · simp [ih]

theorem Ev.leaveStackOf_seekQueue (h : Nat) (e : Ev) (t : Tuner) :
    (e.leaveStackOf h t).s.seekQueue = e.s.seekQueue := by
  unfold Ev.leaveStackOf
  dsimp only
  split
  · split <;> rfl
  · rfl

theorem Ev.leaveWaiting_seekQueue (h : Nat) (e : Ev) : (e.leaveWaiting h).s.seekQueue = e.s.seekQueue := by
  unfold Ev.leaveWaiting Ev.leaveStack
  rw [Ev.leaveStackOf_seekQueue, Ev.leaveStackOf_seekQueue]
  rfl

theorem Ev.evolves_enterSeek (v : Base) (h : Nat) (e : Ev) (room : e.s.seekQueue.length < 16) :
    e.s.EvolvesIn d (e.enterSeek v h).s := by
  unfold Ev.enterSeek
  dsimp only
  refine Sched.EvolvesIn.trans ?_ (Ev.evolves_arm v h _)
  refine (e.evolves_leaveWaiting h).trans ((Sched.evolves_inState _ h .seeking .absent).trans ?_)
  refine Sched.evolves_seekQueue _ _ fun _ => ?_
  rw [List.length_map, Sched.insertHandle_length, List.length_map]
  have : ((e.leaveWaiting h).s.modB h (Booking.inState .seeking .absent)).seekQueue = e.s.seekQueue :=
    e.leaveWaiting_seekQueue h
  rw [this]
  omega

theorem Ev.evolves_refer (v : Base) (b : Booking) (r : Referral) (e : Ev) : e.s.EvolvesIn d (e.refer v b r).s := by
  unfold Ev.refer
  dsimp only
  refine Sched.EvolvesIn.trans ?_ (Sched.evolves_notice _ _)
  refine Sched.EvolvesIn.trans ?_ (Ev.evolves_arm v _ _)
  exact (e.evolves_leaveWaiting _).trans ((Sched.evolves_inState _ _ _ _).trans (.ofSpoken rfl))

theorem Ev.evolves_leaveUnplaced (v : Base) (o : Open) (b : Booking) (e : Ev) :
    e.s.EvolvesIn d (e.leaveUnplaced v o b).s := by
  unfold Ev.leaveUnplaced
  dsimp only
  have h1 := (e.evolves_leaveStack (d := d) b.handle).trans
    ((Sched.evolves_inState _ b.handle .waiting .absent).trans (Sched.evolves_joinUnplaced _ b.handle))
  have h2 := h1.trans (Ev.evolves_arm v b.handle
    ((e.leaveStack b.handle).on fun s => (s.modB b.handle (Booking.inState .waiting .absent)).joinUnplaced b.handle))
  split
  · exact h2.trans (Sched.evolves_notice _ _)
  · exact h2

theorem Ev.evolves_afterThree (v : Base) (o : Open) (b : Booking) (e : Ev) :
    e.s.EvolvesIn d (e.afterThree v o b).s := by
  unfold Ev.afterThree
  split
  · exact e.evolves_giveBack v _ _
  · split
    · rename_i h
      simp only [Bool.and_eq_true, decide_eq_true_eq] at h
      exact e.evolves_enterSeek v _ h.2
    · split
      · exact e.evolves_refer v b _
      · split
        · exact e.evolves_leaveUnplaced v o b
        · exact .refl _

theorem placeIn_evolves (n : Nat) : ∀ (v : Base) (o : Open) (h : Nat) (e : Ev), e.s.EvolvesIn d (placeIn n v o h e).s := by
  induction n with
  | zero =>
    intro v o h e
    unfold placeIn
    split
    · exact .refl _
    · split
      · exact e.evolves_enterPlan v h _ _
      · exact e.evolves_enterPlan v h _ _
      · contradiction
      · exact e.evolves_afterThree v o _
  | succ n ih =>
    intro v o h e
    unfold placeIn
    split
    · exact .refl _
    · split
      · exact e.evolves_enterPlan v h _ _
      · exact e.evolves_enterPlan v h _ _
      · dsimp only
        rename_i _ _ hk _
        cases hk
        refine Sched.EvolvesIn.trans ?_ (Ev.evolves_foldl _ (fun e c => ih v Open.all c e) _ _)
        refine Sched.EvolvesIn.trans ?_ (Ev.evolves_foldl _ (fun e c => e.evolves_leavePlan c) _ _)
        exact e.evolves_enterPlan v h _ _
      · exact e.evolves_afterThree v o _

theorem Ev.evolves_place (v : Base) (o : Open) (h : Nat) (e : Ev) : e.s.EvolvesIn d (e.place v o h).s := placeIn_evolves 17 v o h e

theorem Ev.evolves_placeEach (v : Base) (o : Open) (hs : List Nat) (e : Ev) : e.s.EvolvesIn d (e.placeEach v o hs).s :=
  Ev.evolves_foldl _ (fun e h => e.evolves_place v o h) _ _

theorem Ev.evolves_retryOne (v : Base) (keep : Bool) (e : Ev) (h : Nat) : e.s.EvolvesIn d (e.retryOne v keep h).s := by
  unfold Ev.retryOne
  split
  · refine Sched.EvolvesIn.trans ?_ (Ev.evolves_place v _ h _)
    split
    · exact .refl _
    · exact Sched.evolves_modB' _ h _ (fun _ => rfl) (fun _ => rfl)
  · exact .refl _

theorem Ev.evolves_retryAll (v : Base) (keep : Bool) (e : Ev) : e.s.EvolvesIn d (e.retryAll v keep).s := by
  unfold Ev.retryAll
  dsimp only
  split
  · exact .refl _
  · exact Ev.evolves_foldl _ (fun e h => e.evolves_retryOne v keep h) _ _

/-! ## Capture and closing -/

theorem Ev.evolves_enterPreparing (v : Base) (h : Nat) (e : Ev) : e.s.EvolvesIn d (e.enterPreparing v h).s := by
  unfold Ev.enterPreparing
  refine Sched.EvolvesIn.trans ?_ (Ev.evolves_arm v h _)
  exact (e.s.evolves_modB' h (fun b => { b with state := .preparing, prepSeq := e.s.prepCtr }) (fun _ => rfl)
    (fun _ => rfl)).trans (.ofSpoken rfl)

theorem Booking.addSegment_length (g : Segment) (b : Booking) (h : b.segs.length ≤ 4) : (b.addSegment g).segs.length ≤ 4 := by
  unfold Booking.addSegment
  dsimp only
  split
  · simp; omega
  · exact h

theorem Ev.evolves_setState (h : Nat) (st : BState) (e : Ev) :
    e.s.EvolvesIn d (e.on fun s => s.modB h fun c => { c with state := st }).s :=
  e.s.evolves_modB' h _ (fun _ => rfl) (fun _ => rfl)

theorem Ev.evolves_captureRefused (v : Base) (b : Booking) (t : Tuner) (e : Ev) :
    e.s.EvolvesIn d (e.captureRefused v b t).s :=
  ((e.evolves_leavePlan _).trans (Ev.evolves_setState b.handle .planned _)).trans (Ev.evolves_place v _ _ _)

theorem Ev.evolves_capture (v : Base) (b : Booking) (t : Tuner) (e : Ev) : e.s.EvolvesIn d (e.capture v b t).s := by
  unfold Ev.capture
  split
  · exact e.evolves_endNow v _ _
  · split
    · exact e.evolves_captureRefused v b t
    · refine Sched.EvolvesIn.trans ?_ (Ev.evolves_arm v _ _)
      refine Sched.EvolvesIn.trans ?_ (Sched.evolves_joinCapture _ t _)
      refine Sched.evolves_modB _ b.handle _ ?_ ?_
      · exact fun _ => rfl
      · exact fun c hc => c.addSegment_length (openSegment v t) hc

theorem Ev.evolves_captureRule (v : Base) (h : Nat) (e : Ev) : e.s.EvolvesIn d (e.captureRule v h).s := by
  unfold Ev.captureRule
  split
  · exact .refl _
  · split
    · split
      · split
        · exact .refl _
        · exact e.evolves_capture v _ _
        · exact (e.evolves_setState h .paused).trans (Ev.evolves_arm v h _)
      · exact .refl _
    · exact .refl _

theorem Ev.evolves_captureAll (v : Base) (t : Tuner) (e : Ev) : e.s.EvolvesIn d (e.captureAll v t).s :=
  Ev.evolves_foldl _ (fun e (b : Booking) => e.evolves_captureRule v b.handle) _ _

theorem Ev.evolves_closeBooking (v : Base) (h : Nat) (e : Ev) : e.s.EvolvesIn d (e.closeBooking v h).s :=
  e.evolves_endNow v h _

/-! ## Stacks -/

theorem Sched.evolves_setState (s : Sched) (h : Nat) (st : BState) : s.EvolvesIn d (s.modB h fun c => { c with state := st }) :=
  s.evolves_modB' h _ (fun _ => rfl) (fun _ => rfl)

theorem Sched.evolves_allWaiting (s : Sched) (hs : List Nat) : s.EvolvesIn d (s.allWaiting hs) :=
  Sched.EvolvesIn.foldl _ (fun s h => s.evolves_setState h .waiting) _ _

theorem Ev.evolves_suspend (v : Base) (st : BState) (e : Ev) (h : Nat) : e.s.EvolvesIn d (e.suspend v st h).s := by
  unfold Ev.suspend
  dsimp only
  refine Sched.EvolvesIn.trans ?_ (Sched.evolves_joinUnplaced _ h)
  refine Sched.EvolvesIn.trans ?_ (Ev.evolves_arm v h _)
  refine Sched.EvolvesIn.trans ?_ (Sched.evolves_modB' _ h _ (fun _ => rfl) (fun _ => rfl))
  exact ((e.s.evolves_closeSeg h v.clock).trans (Sched.evolves_leaveCapture _ h)).trans
    (Ev.evolves_leavePlan h (e.on fun s => (s.closeSeg h v.clock).leaveCapture h))

theorem Sched.evolves_evictBottom (t : Tuner) (kind : EvictKind) (s : Sched) : s.EvolvesIn d (s.evictBottom t kind) := by
  unfold Sched.evictBottom
  split
  · exact .refl s
  · refine .trans (s.evolves_stack t List.dropLast fun h => ?_)
      ((Sched.evolves_allWaiting _ _).trans (Sched.evolves_notice _ _))
    rw [List.length_dropLast]
    omega

theorem evictTo_evolves (t : Tuner) (kind : EvictKind) (n : Nat) : ∀ (k : Nat) (s : Sched), s.EvolvesIn d (evictTo k t kind n s)
  | 0, s => .refl s
  | k + 1, s => by
    unfold evictTo
    split
    · exact (s.evolves_evictBottom t kind).trans (evictTo_evolves t kind n k _)
    · exact .refl s

theorem Sched.evolves_evictDown (t : Tuner) (kind : EvictKind) (n : Nat) (s : Sched) : s.EvolvesIn d (s.evictDown t kind n) :=
  evictTo_evolves t kind n _ s

@[simp] theorem Sched.notice_stacked (n : Notice) (s : Sched) : (s.notice n).stacked = s.stacked := by
  unfold Sched.notice
  split <;> rfl

theorem Sched.allWaiting_stacked : ∀ (hs : List Nat) (s : Sched), (s.allWaiting hs).stacked = s.stacked
  | [], _ => rfl
  | h :: hs, s => Sched.allWaiting_stacked hs (s.modB h fun b => { b with state := .waiting })

theorem Sched.evictBottom_length (t : Tuner) (kind : EvictKind) (s : Sched) :
    ((s.evictBottom t kind).stacked.get t).length = (s.stacked.get t).length - 1 := by
  unfold Sched.evictBottom
  split
  · rename_i h
    simp [List.getLast?_eq_none_iff.mp h]
  · simp [Sched.evictedNotice, Sched.allWaiting_stacked]

theorem evictTo_length (t : Tuner) (kind : EvictKind) (n : Nat) : ∀ (k : Nat) (s : Sched),
    (s.stacked.get t).length ≤ n + k → ((evictTo k t kind n s).stacked.get t).length ≤ n
  | 0, _, h => h
  | k + 1, s, h => by
    unfold evictTo
    split
    · refine evictTo_length t kind n k _ ?_
      rw [Sched.evictBottom_length]
      omega
    · omega

/-- An eviction down to n records leaves at most n (R112, R123). -/
theorem Sched.evictDown_length (t : Tuner) (kind : EvictKind) (n : Nat) (s : Sched) :
    ((s.evictDown t kind n).stacked.get t).length ≤ n := evictTo_length t kind n _ s (Nat.le_add_left _ _)

theorem Ev.evolves_pushGroup (v : Base) (t : Tuner) (reason : PushReason) (by' : Option (Nat × BookingId)) (e : Ev)
    (g : Nat × List Nat) : e.s.EvolvesIn v.cfg.depth (e.pushGroup v t reason by' g).s := by
  unfold Ev.pushGroup
  dsimp only
  split
  · exact (Ev.evolves_foldl _ (fun e h => e.evolves_suspend v .waiting h) _ _).trans (Sched.evolves_notice _ _)
  · refine (Ev.evolves_foldl _ (fun e h => e.evolves_suspend v .suspended h) _ _).trans
      ((Sched.evolves_evictDown t .stackFull (v.cfg.depth - 1) _).trans (Sched.evolves_stack _ t _ fun _ => ?_))
    have := Sched.evictDown_length t .stackFull (v.cfg.depth - 1) (g.2.foldl (Ev.suspend v .suspended) e).s
    rw [List.length_cons]
    omega

theorem Ev.evolves_push (v : Base) (t : Tuner) (reason : PushReason) (by' : Option (Nat × BookingId)) (l : List Booking)
    (e : Ev) : e.s.EvolvesIn v.cfg.depth (e.push v t reason by' l).s :=
  Ev.evolves_foldl _ (fun e g => e.evolves_pushGroup v t reason by' g) _ _

theorem Ev.evolves_placePushed (v : Base) (l : List Booking) (e : Ev) : e.s.EvolvesIn d (e.placePushed v l).s :=
  Ev.evolves_foldl _ (fun e h => e.evolves_retryOne v true h) _ _

theorem Ev.evolves_endCauses (t : Tuner) (p : PushReason → Bool) (e : Ev) : e.s.EvolvesIn d (e.endCauses t p).s :=
  e.s.evolves_stack t _ (by simp)

theorem Ev.evolves_resume (v : Base) (t : Tuner) (h : Nat) (e : Ev) : e.s.EvolvesIn d (e.resume v t h).s := by
  unfold Ev.resume
  dsimp only
  refine Sched.EvolvesIn.trans ?_ (Ev.evolves_captureRule v h _)
  refine Sched.EvolvesIn.trans ?_ (Ev.evolves_enterPreparing v h _)
  refine Sched.EvolvesIn.trans ?_ (Sched.evolves_joinPlan _ t _)
  exact (e.s.evolves_leaveUnplaced h).trans (Sched.evolves_modB' _ h _ (fun _ => rfl) (fun _ => rfl))

theorem Pop.evolves_one (v : Base) (t : Tuner) (reason : PushReason) (p : Pop) (h : Nat) :
    p.e.s.EvolvesIn d (p.one v t reason h).e.s := by
  unfold Pop.one
  split
  · exact .refl _
  · split
    · exact p.e.evolves_endNow v h _
    · split
      · exact p.e.evolves_resume v t h
      · exact .refl _

theorem Pop.evolves_foldl (v : Base) (t : Tuner) (reason : PushReason) :
    ∀ (l : List Nat) (p : Pop), p.e.s.EvolvesIn d (l.foldl (Pop.one v t reason) p).e.s
  | [], _ => .refl _
  | h :: l, p => (p.evolves_one v t reason h).trans (Pop.evolves_foldl v t reason l _)

theorem Ev.evolves_pop (v : Base) (t : Tuner) (r : StackRec) (e : Ev) : e.s.EvolvesIn d (e.pop v t r).e.s := by
  unfold Ev.pop
  dsimp only
  have h1 := (e.s.evolves_stack (d := d) t List.tail (fun h => by rw [List.length_tail]; omega)).trans
    (Pop.evolves_foldl v t r.reason r.handles ⟨e.on fun s => { s with stacked := s.stacked.mod t List.tail }, false, []⟩)
  split
  · exact h1
  · exact h1.trans ((Sched.evolves_allWaiting _ _).trans (Sched.evolves_notice _ _))

theorem examine_evolves (v : Base) (t : Tuner) : ∀ (n : Nat) (e : Ev), e.s.EvolvesIn d (examine n v t e).s
  | 0, e => .refl _
  | n + 1, e => by
    unfold examine
    split
    · exact .refl _
    · split
      · dsimp only
        split
        · exact e.evolves_pop v t _
        · exact (e.evolves_pop v t _).trans (examine_evolves v t n _)
      · exact .refl _

/-! ## The seek engine and the end of an event -/

theorem Sched.evolves_engine (s : Sched) (x : Engine) : s.EvolvesIn d { s with engine := x } := .ofSpoken rfl

theorem Sched.evolves_leaveSeek (s : Sched) (h : Nat) : s.EvolvesIn d (s.leaveSeek h) :=
  s.evolves_seekQueue _ (Nat.le_trans (List.length_filter_le _ _))

theorem Ev.evolves_giveUp (v : Base) (h : Nat) (e : Ev) : e.s.EvolvesIn d (e.giveUp v h).s :=
  (e.s.evolves_leaveSeek h).trans (Ev.evolves_place v _ h (e.on fun s => s.leaveSeek h))

theorem Ev.evolves_attemptEnds (v : Base) (h : Nat) (e : Ev) : e.s.EvolvesIn d (e.attemptEnds v h).s := by
  have h1 : e.s.EvolvesIn d e.engineIdle.s := e.s.evolves_engine .idle
  unfold Ev.attemptEnds
  dsimp only
  split
  · exact h1
  · split
    · exact h1.trans (Sched.evolves_seekQueue _ _ (by simp))
    · exact h1.trans (Ev.evolves_giveUp v h _)

theorem Ev.evolves_sendSeek (v : Base) (h : Nat) (e : Ev) : e.s.EvolvesIn d (e.sendSeek v h).s := by
  have h1 : e.s.EvolvesIn d (e.on fun s => s.modB h fun b => { b with attempts := b.attempts + 1 }).s :=
    e.s.evolves_modB' h _ (fun _ => rfl) (fun _ => rfl)
  unfold Ev.sendSeek
  dsimp only
  split
  · exact h1
  · split
    · exact h1.trans ((Sched.evolves_offer v _ _ _ _).trans (Sched.evolves_engine _ _))
    · exact h1.trans (Ev.evolves_attemptEnds v h _)

theorem Ev.evolves_look1 (v : Base) (e : Ev) : e.s.EvolvesIn d (e.look1 v).s := by
  unfold Ev.look1
  split
  · split
    · exact .refl _
    · split
      · exact e.evolves_sendSeek v _
      · exact e.evolves_giveUp v _
  · exact .refl _

theorem awardNext_evolves (v : Base) (h : Nat) : ∀ (n : Nat) (bids : List Bid) (e : Ev), e.s.EvolvesIn d (awardNext n v h bids e).s
  | 0, _, e => e.evolves_attemptEnds v h
  | n + 1, bids, e => by
    unfold awardNext
    dsimp only
    split
    · split
      · exact (e.s.evolves_offer v _ _ _).trans (Sched.evolves_engine _ _)
      · exact awardNext_evolves v h n _ e
    · exact e.evolves_attemptEnds v h

theorem Ev.evolves_award (v : Base) (h : Nat) (bids : List Bid) (e : Ev) : e.s.EvolvesIn d (e.award v h bids).s :=
  awardNext_evolves v h _ bids e

theorem Ev.evolves_awardeeOut (v : Base) (h station : Nat) (bids : List Bid) (e : Ev) :
    e.s.EvolvesIn d (e.awardeeOut v h station bids).s := e.evolves_award v h _

theorem work_evolves (v : Base) : ∀ (n : Nat) (e : Ev), e.s.EvolvesIn d (work n v e).s
  | 0, e => .refl _
  | n + 1, e => by
    unfold work
    split
    · exact (examine_evolves v .A 4 { e with exam := { e.exam with a := false } }).trans (work_evolves v n _)
    · split
      · exact (examine_evolves v .B 4 { e with exam := { e.exam with b := false } }).trans (work_evolves v n _)
      · split
        · rename_i keep _
          exact (Ev.evolves_retryAll v keep { e with retry := none }).trans (work_evolves v n _)
        · split
          · exact (Ev.evolves_look1 v { e with look := false }).trans (work_evolves v n _)
          · exact .refl _

theorem Ev.evolves_finish (v : Base) (e : Ev) : e.s.EvolvesIn d (e.finish v).s := work_evolves v 512 e

theorem Ev.evolves_close (v : Base) (e : Ev) : e.s.EvolvesIn d (e.close v).s :=
  (e.evolves_finish v).trans (Sched.evolves_reviseAll v _)

/-! ## The usable set -/

theorem TunerRec.unfit_captures (r : TunerRec) (_ : r.captures.length ≤ 4) : r.unfit.captures.length ≤ 4 := by
  simp [TunerRec.unfit]

theorem Sched.evolves_release (v : Base) (t : Tuner) (s : Sched) : s.EvolvesIn d (s.release v t) := by
  unfold Sched.release
  split
  · exact s.evolves_modTuner t _ TunerRec.unfit_captures
  · exact s.evolves_revise v t

theorem Ev.evolves_leaveUsable (v : Base) (t : Tuner) (cause : PushReason) (e : Ev) :
    e.s.EvolvesIn v.cfg.depth (e.leaveUsable v t cause).s := by
  unfold Ev.leaveUsable
  dsimp only
  refine Sched.EvolvesIn.trans ?_ (.trans (Sched.evolves_release v t _) (Sched.evolves_notice _ _))
  refine Sched.EvolvesIn.trans ?_ (Ev.evolves_placeEach v _ _ _)
  refine Sched.EvolvesIn.trans ?_ (Ev.evolves_foldl _ (fun e h => e.evolves_leavePlan h) _ _)
  refine Sched.EvolvesIn.trans ?_ (Ev.evolves_placePushed v _ _)
  refine Sched.EvolvesIn.trans ?_ (Ev.evolves_foldl _ (fun e (b : Booking) => e.evolves_giveBack v b.handle cause.back) _ _)
  refine Sched.EvolvesIn.trans ?_ (Ev.evolves_push v t cause none _ _)
  exact e.s.evolves_modTuner t _ fun _ h => h

theorem Ev.evolves_enterUsable (v : Base) (ts : List Tuner) (e : Ev) : e.s.EvolvesIn d (e.enterUsable v ts).s := by
  unfold Ev.enterUsable
  dsimp only
  split
  · exact .refl _
  · refine Sched.EvolvesIn.trans ?_ (Ev.evolves_foldl _ (fun e t => e.s.evolves_notice _) _ _)
    refine Sched.EvolvesIn.trans ?_ (Ev.evolves_finish v _)
    exact Ev.evolves_foldl _ (fun e t => e.evolves_endCauses t _) _ _

theorem Sched.evolves_mark (s : Sched) (t : Tuner) (f : TunerRec → TunerRec) (h : ∀ r, (f r).captures = r.captures) :
    s.EvolvesIn d (s.modTuner t f) := s.evolves_modTuner t f fun r hr => by rw [h]; exact hr

theorem Sched.evolves_budgetMarks (v : Base) (s : Sched) : s.EvolvesIn d (s.budgetMarks v) := by
  unfold Sched.budgetMarks
  dsimp only
  refine Sched.EvolvesIn.foldl _ (fun s t => ?_) _ _
  refine Sched.evolves_mark _ t _ ?_
  exact fun _ => rfl

theorem Ev.evolves_choose (v : Base) (before : Tuner → Bool) (e : Ev) : e.s.EvolvesIn v.cfg.depth (e.choose v before).s := by
  unfold Ev.choose
  dsimp only
  refine Sched.EvolvesIn.trans ?_ (Ev.evolves_enterUsable v _ _)
  refine Sched.EvolvesIn.trans ?_ (Ev.evolves_foldl _ (fun e t => e.evolves_leaveUsable v t .limit) _ _)
  exact e.s.evolves_budgetMarks v

theorem Ev.evolves_fail (v : Base) (t : Tuner) (e : Ev) : e.s.EvolvesIn v.cfg.depth (e.fail v t).s := by
  unfold Ev.fail
  dsimp only
  refine Sched.EvolvesIn.trans ?_ (Ev.evolves_choose v _ _)
  split
  · refine Sched.EvolvesIn.trans ?_ (Ev.evolves_leaveUsable v t .signal _)
    refine Sched.evolves_mark _ t _ ?_
    exact fun _ => rfl
  · refine Sched.EvolvesIn.trans ?_ (Sched.evolves_release v t _)
    refine Sched.evolves_mark _ t _ ?_
    exact fun _ => rfl

theorem Ev.evolves_recheck (v : Base) (t : Tuner) (e : Ev) : e.s.EvolvesIn v.cfg.depth (e.recheck v t).s := by
  unfold Ev.recheck
  dsimp only
  refine Sched.EvolvesIn.trans ?_ (Ev.evolves_choose v _ _)
  refine Sched.evolves_mark _ t _ ?_
  exact fun _ => rfl

theorem Ev.evolves_refit (v : Base) (e : Ev) : e.s.EvolvesIn v.cfg.depth (e.refit v).s := by
  unfold Ev.refit
  dsimp only
  split
  · refine Sched.EvolvesIn.trans ?_ (Ev.evolves_choose v _ _)
    split
    · refine Sched.EvolvesIn.trans ?_ (Ev.evolves_leaveUsable v .B .limit _)
      refine Sched.evolves_mark _ .B _ ?_
      exact fun _ => rfl
    · rw [Ev.on_s]
      refine Sched.EvolvesIn.trans ?_ (Sched.evolves_release v .B _)
      refine Sched.evolves_mark _ .B _ ?_
      exact fun _ => rfl
  · refine Sched.EvolvesIn.trans ?_ (Ev.evolves_choose v _ _)
    refine Sched.evolves_mark _ .B _ ?_
    exact fun _ => rfl

/-! ## Triggers -/

theorem Sched.evolves_clearPreempts (h : Nat) (s : Sched) : s.EvolvesIn d (s.clearPreempts h) := .ofSpoken rfl

/-- A booking whose check passes finds at most 3 occupants on its multiplex (R98), so that it makes at most a fourth. -/
theorem Sched.checkPasses_room {v : Base} {s : Sched} {b : Booking} {t : Tuner} (h : s.checkPasses v b t = true) :
    countOf (fun c => c.mux == b.mux) (s.occupants t) ≤ 3 := by
  simp only [Sched.checkPasses, Bool.and_eq_true, decide_eq_true_eq] at h
  exact h.2

theorem Ev.evolves_preparePassed (v : Base) (b : Booking) (t : Tuner) (e : Ev) : e.s.EvolvesIn v.cfg.depth (e.preparePassed v b t).s := by
  unfold Ev.preparePassed
  dsimp only
  refine Sched.EvolvesIn.trans ?_ (Ev.evolves_placePushed v _ _)
  refine Sched.EvolvesIn.trans ?_ (Ev.evolves_captureRule v _ _)
  refine Sched.EvolvesIn.trans ?_ (Sched.evolves_offerMark v _ _)
  refine Sched.EvolvesIn.trans ?_ (Ev.evolves_enterPreparing v _ _)
  refine Sched.EvolvesIn.trans ?_ (Sched.evolves_clearPreempts b.handle _)
  refine Sched.EvolvesIn.trans ?_ (Ev.evolves_foldl _ (fun e (c : Booking) => e.evolves_giveBack v c.handle .displaced) _ _)
  exact e.evolves_push v t _ _ _

theorem Ev.evolves_decline (v : Base) (h : Nat) (e : Ev) : e.s.EvolvesIn d (e.decline v h).s :=
  (e.s.evolves_leaveReferral h).trans (Ev.evolves_place v _ h (e.on fun s => s.leaveReferral h))

theorem Ev.evolves_firePrepare (v : Base) (h : Nat) (e : Ev) : e.s.EvolvesIn v.cfg.depth (e.firePrepare v h).s := by
  unfold Ev.firePrepare
  split
  · exact .refl _
  · split
    · split
      · exact e.evolves_preparePassed v _ _
      · exact (e.evolves_leavePlan h).trans (Ev.evolves_place v _ h _)
    · exact (e.evolves_abandon v h).trans (Ev.evolves_place v _ h _)
    · exact e.evolves_decline v h
    · exact .refl _

theorem Ev.evolves_fireStart (v : Base) (h : Nat) (e : Ev) : e.s.EvolvesIn d (e.fireStart v h).s := by
  unfold Ev.fireStart
  split
  · dsimp only
    split
    · exact (e.evolves_captureRule v h).trans (Ev.evolves_arm v h _)
    · exact e.evolves_captureRule v h
  · exact e.evolves_decline v h
  · exact .refl _

theorem Ev.evolves_fireStop (v : Base) (h : Nat) (e : Ev) : e.s.EvolvesIn d (e.fireStop v h).s := by
  unfold Ev.fireStop
  split
  · exact .refl _
  · split
    · exact e.evolves_arm v h
    · exact e.evolves_closeBooking v h

theorem Ev.evolves_fire (v : Base) (h : Nat) (k : TrigKind) (e : Ev) : e.s.EvolvesIn v.cfg.depth (e.fire v h k).s := by
  cases k
  · exact e.evolves_firePrepare v h
  · exact e.evolves_fireStart v h
  · exact e.evolves_fireStart v h
  · exact e.evolves_fireStop v h
  · exact e.evolves_closeBooking v h

theorem settleIn_evolves (v : Base) : ∀ (n : Nat) (s : Sched) (l : List Nat), s.EvolvesIn v.cfg.depth (settleIn n v s l)
  | 0, s, _ => .refl s
  | _ + 1, s, [] => .refl s
  | n + 1, s, h :: l => by
    unfold settleIn
    split
    · exact settleIn_evolves v n s l
    · split
      · rename_i t _ _
        have h1 := ((Ev.of s).evolves_fire v h t.kind).trans (Ev.evolves_close v _)
        exact h1.trans (settleIn_evolves v n _ _)
      · exact settleIn_evolves v n s l

theorem Ev.evolves_settle (v : Base) (e : Ev) : e.s.EvolvesIn v.cfg.depth (e.settle v) :=
  (e.evolves_close v).trans (settleIn_evolves v 1024 _ _)

/-- A whole event is within the relation when its own effects are. -/
theorem Sched.evolves_event (v : Base) (f : Ev → Ev) (s : Sched) (h : s.EvolvesIn v.cfg.depth (f (Ev.of s)).s) :
    s.EvolvesIn v.cfg.depth (s.event v f) :=
  h.trans (Ev.evolves_settle v _)

/-! ## A forward jump -/

theorem Sched.evolves_closeSegs (old : Nat) : ∀ (l : List Nat) (s : Sched),
    s.EvolvesIn d (l.foldl (fun s h => s.closeSeg h old) s)
  | [], s => .refl s
  | h :: l, s => (s.evolves_closeSeg h old).trans (Sched.evolves_closeSegs old l (s.closeSeg h old))

theorem Sched.evolves_interrupt (old : Nat) (s : Sched) : s.EvolvesIn d (s.interrupt old) := Sched.evolves_closeSegs old _ s

end Sys2Proof.Machine
end

