-- ==== Sys2Proof/Tests/Slice0.lean ====
section
/-! SUPPORT. The model's own tests: the ill-formed commands that WellFormed refuses, states and operands that meet the
hypotheses of each statement, clause by clause, and small runs of some commands. -/

namespace Sys2Proof.Tests

open Sys2Proof Sys2Proof.Machine

/-! ## States -/

/-- A TIMED station at midnight of epoch day 1200. -/
def s0 : State := { State.reset with base := { Base.reset with clock := 103680000, timed := true } }

/-- A state with its base changed. -/
def on (s : State) (f : Base → Base) : State := { s with base := f s.base }

/-- A state with its scheduling part changed. -/
def put (s : State) (f : Sched → Sched) : State := s.onSched f

/-- A MANUAL booking of handle 0 in a state: 01:00 to 02:00 of day 1200, pre-roll 1, post-roll 2, priority 3. -/
def bk0 (st : BState) (p : Plan) : Booking :=
  { newBooking .manual 7 9 none 103683600 103687200 1 2 3 false with state := st, plan := p, id := ⟨1, 1⟩, order := 1 }

/-- The same as a follow booking of the programme 7, 70. -/
def fb0 (st : BState) (p : Plan) : Booking :=
  { bk0 st p with cls := .event, event := some 70, follow := true, running := some .unknown }

/-- The station with one booking. -/
def one (b : Booking) : State := put s0 fun x => { x with bookings := [b], orderCtr := 2, serialCtr := 2 }

/-- The station with one booking that occupies tuner A, which is LOCKED on its multiplex under a settled directive. -/
def onA (b : Booking) (l : List Capture) : State :=
  put (one b) fun x =>
    { x with
      plans := ⟨[⟨0, false⟩], []⟩
      tuners := x.tuners.set .A
        { TunerRec.reset with state := .locked, captures := l, directive := ⟨1, some 9, none, l⟩ } }

/-- The station with the port READY, holding the response to a request. -/
def held : State := { s0 with port := ⟨.ready, false, some ⟨2, .ok, [7]⟩, []⟩ }

/-- A segment of the station on tuner A. -/
def seg (frm : Nat) (til : Option Nat) : Segment := ⟨1, some .A, frm, til⟩

/-- The capacities of a state, from the decidable ones. -/
theorem inv_of (s : State)
    (b : s.base.clock ≤ clockMax ∧ s.base.frac < 32768 ∧ s.base.window.length ≤ 16 ∧ s.base.goodRun ≤ 16 ∧
      s.base.incarnation ≤ 255 ∧ ∀ p ∈ s.base.peers, p.history.length ≤ s.base.cfg.window)
    (t : (s.sch.bookings.map Booking.handle).Pairwise (· < ·) ∧ (∀ b ∈ s.sch.bookings, b.handle < 128) ∧
      s.sch.bookings.length ≤ 128 ∧ s.sch.hostedInUse ≤ 16 ∧ (∀ b ∈ s.sch.bookings, b.segs.length ≤ 4) ∧
      (s.sch.triggers.map Trigger.handle).Nodup ∧ ∀ t ∈ s.sch.triggers, t.handle < 128)
    (l : (s.sch.links.map Link.slot).Pairwise (· < ·) ∧ (∀ l ∈ s.sch.links, l.slot < 32) ∧ s.sch.links.length ≤ 32 ∧
      (∀ l ∈ s.sch.links, l.episodes.length ≤ 48) ∧ (∀ l ∈ s.sch.links, l.episodes.Nodup) ∧
      ∀ l ∈ s.sch.links, ∀ c ∈ l.count, c.remaining ≤ c.initial)
    (u : s.sch.tuners.a.captures.length ≤ 4 ∧ s.sch.tuners.b.captures.length ≤ 4 ∧ s.sch.budget ≤ 2 ∧
      s.sch.stacked.a.length ≤ s.base.cfg.depth ∧ s.sch.stacked.b.length ≤ s.base.cfg.depth)
    (q : s.sch.txq.length ≤ 12 ∧ s.sch.seekQueue.length ≤ 16 ∧ s.sch.holds.length ≤ 4 ∧ s.sch.lapsed.length ≤ 4 ∧
      s.sch.tallies.length ≤ 8 ∧ s.sch.marks.length ≤ 64 ∧ s.sch.notices.length ≤ 32) : s.Inv where
  base := ⟨b.1, b.2.1, b.2.2.1, b.2.2.2.1, b.2.2.2.2.1, b.2.2.2.2.2⟩
  sch := ⟨t.1, t.2.1, t.2.2.1, t.2.2.2.1, t.2.2.2.2.1, t.2.2.2.2.2.1, t.2.2.2.2.2.2, l.1, l.2.1, l.2.2.1,
    l.2.2.2.1, l.2.2.2.2.1, l.2.2.2.2.2, u.1, u.2.1, u.2.2.1, q.1, q.2.1, q.2.2.1, q.2.2.2.1, q.2.2.2.2.1, q.2.2.2.2.2.1,
    q.2.2.2.2.2.2⟩
  depths
    | .A => u.2.2.2.1
    | .B => u.2.2.2.2

/-! ## WellFormed refuses, for each check, a term that fails it -/

/-- The default record as CONFIGURE carries it. -/
def c0 : ConfigFields :=
  ⟨1, 0, 2, 5, 8, 0, 10, List.replicate 4 1 ++ List.replicate 12 0, 1, 2, 1000, 2000, 3, 30, 8, 120, 15, 60⟩

theorem test_configure_wellFormed : (Instr.configure c0).wellFormed = true := by decide

theorem test_configure_illFormed :
    [{ c0 with station := 256 }, { c0 with household := 65536 }, { c0 with fitted := 256 }, { c0 with rollPeriod := 256 },
      { c0 with window := 256 }, { c0 with debounce := 256 }, { c0 with skew := 256 }, { c0 with clash := [] },
      { c0 with clash := List.replicate 16 256 }, { c0 with livePolicy := 256 }, { c0 with depth := 256 },
      { c0 with bidWindow := 65536 }, { c0 with takeTimeout := 65536 }, { c0 with seekLimit := 256 },
      { c0 with tuneLead := 256 }, { c0 with tuneTimeout := 256 }, { c0 with recheck := 65536 }, { c0 with grace := 256 },
      { c0 with overrun := 256 }].all (fun c => !(Instr.configure c).wellFormed) = true := by decide

/-- A BOOK that can be sent. -/
def f0 : BookFields := ⟨7, 9, none, 103683620, 103687170, 1, 2, 3, 0⟩

theorem test_book_wellFormed : (Instr.book f0).wellFormed = true := by decide

theorem test_book_illFormed :
    [{ f0 with service := 65536 }, { f0 with multiplex := 65536 }, { f0 with event := some 65536 },
      { f0 with start := 4294967296 }, { f0 with finish := 4294967296 }, { f0 with pre := 256 }, { f0 with post := 256 },
      { f0 with priority := 256 }, { f0 with follow := 256 }].all (fun f => !(Instr.book f).wellFormed) = true := by decide

/-- An AMEND that carries nothing. -/
def a0 : AmendFields := ⟨none, none, none, none, none, none⟩

theorem test_amend_illFormed :
    [Instr.amend 256 none a0, .amend 0 (some ⟨256, 0⟩) a0, .amend 0 (some ⟨0, 65536⟩) a0,
      .amend 0 none { a0 with priority := some 256 }, .amend 0 none { a0 with pre := some 256 },
      .amend 0 none { a0 with post := some 256 }, .amend 0 none { a0 with follow := some 256 },
      .amend 0 none { a0 with start := some 4294967296 }, .amend 0 none { a0 with finish := some 4294967296 }].all
      (fun i => !i.wellFormed) = true := by decide

/-- A LINK that can be sent. -/
def l0 : LinkFields := ⟨500, .any, 3, 1, 2, 0, 0, .number 2⟩

theorem test_link_illFormed :
    [{ l0 with series := 4294967296 }, { l0 with scope := .service 65536 }, { l0 with scope := .other 1 },
      { l0 with scope := .other 256 }, { l0 with priority := 256 }, { l0 with pre := 256 }, { l0 with post := 256 },
      { l0 with follow := 256 }, { l0 with firstRun := 256 }, { l0 with count := .number 256 },
      { l0 with count := .other 0 }, { l0 with count := .other 256 }].all (fun f => !(Instr.link f).wellFormed) = true := by
  decide

/-- A guide event that can be sent: programme 70 of service 7, an hour from 01:00. -/
def g0 : GuideFields := ⟨7, 9, 70, 103683600, 60, none, none, 0⟩

theorem test_guideEvent_illFormed :
    [{ g0 with service := 65536 }, { g0 with multiplex := 65536 }, { g0 with event := 65536 },
      { g0 with start := 4294967296 }, { g0 with duration := 65536 }, { g0 with series := some 4294967296 },
      { g0 with episode := some 4294967296 }, { g0 with repeated := 256 }].all
      (fun f => !(Instr.guideEvent f).wellFormed) = true := by decide

theorem test_requests_illFormed :
    [Instr.setClock 4294967296, .cancel 256 none, .cancel 0 (some ⟨256, 0⟩), .readBooking 256 none,
      .readBooking 0 (some ⟨0, 65536⟩), .nextBooking (some ⟨256, none⟩) 0,
      .nextBooking (some ⟨0, some ⟨256, 0⟩⟩) 0, .nextBooking none 256, .unlink ⟨256, 0⟩,
      .unlink ⟨0, 65536⟩, .readLink (.byId ⟨256, 0⟩), .readLink (.fromSlot 16777216), .readLink (.other 1),
      .readLink (.other 256), .running 65536 0 0, .running 0 65536 0, .running 0 0 256, .holdLive 65536 0 0,
      .holdLive 0 65536 0, .holdLive 0 0 256, .powerBudget 256, .readDirective 256, .readPeer 256, .readStation 256,
      .tunerReport 256 0 0, .tunerReport 0 65536 0, .tunerReport 0 0 256, .resolve 256 none 0,
      .resolve 0 (some ⟨256, 0⟩) 0, .resolve 0 none 256, .badFormRequest [], .badFormRequest [0], .busyRequest 0].all
      (fun i => !i.wellFormed) = true := by decide

theorem test_timedEvents_illFormed :
    [Instr.prepare 128, .start 128, .grace 128, .stop 128, .overrun 128, .seekReadyTime 128, .confirmDeadlineExpiry 128,
      .tuneTimerExpiry 2, .recheckTimerExpiry 2, .intervalDeadlineExpiry 0, .intervalDeadlineExpiry 9,
      .queuedBidRemoved ⟨256, 0⟩, .holdExpiry ⟨0, 65536⟩, .lapsedRecordDiscard ⟨256, 0⟩,
      .marksHeardExpiry 4294967296 0 1, .marksHeardExpiry 0 4294967296 1, .marksHeardExpiry 0 0 0,
      .marksHeardExpiry 0 0 9].all (fun i => !i.wellFormed) = true := by decide

/-- The head of a frame from station 2. -/
def h2 : FrameHead := ⟨0, 8, 2⟩

/-- A ROLL that can be sent. -/
def r0 : RollFields := ⟨0, 5, 0, 5, 103680000, 1200, 2, [⟨0, none, 0, 31⟩]⟩

theorem test_roll_illFormed :
    [Instr.rollArrival { h2 with household := 65536 } r0, .rollArrival { h2 with rank := 32 } r0,
      .rollArrival { h2 with sender := 0 } r0, .rollArrival { h2 with sender := 9 } r0,
      .rollArrival h2 { r0 with incarnation := 256 }, .rollArrival h2 { r0 with sequence := 256 },
      .rollArrival h2 { r0 with flags := 256 }, .rollArrival h2 { r0 with period := 256 },
      .rollArrival h2 { r0 with clock := 4294967296 }, .rollArrival h2 { r0 with day := 65536 },
      .rollArrival h2 { r0 with usable := 256 }, .rollArrival h2 { r0 with tuners := [] },
      .rollArrival h2 { r0 with tuners := [⟨128, none, 0, 31⟩] },
      .rollArrival h2 { r0 with tuners := [⟨0, some 65536, 0, 31⟩] },
      .rollArrival h2 { r0 with tuners := [⟨0, none, 65536, 31⟩] },
      .rollArrival h2 { r0 with tuners := [⟨0, none, 0, 256⟩] }].all (fun i => !i.wellFormed) = true := by decide

/-- A SEEK of station 2 that can be sent: 01:00 to 02:00 of day 1200 with padding. -/
def k0 : SeekFields := ⟨176, ⟨2, 40⟩, 1, 7, 9, 0, 1499, 1562, 1, 2, 8, 0, 1000⟩

theorem test_seek_illFormed :
    [{ k0 with tag := 256 }, { k0 with id := ⟨256, 0⟩ }, { k0 with number := 256 }, { k0 with service := 65536 },
      { k0 with multiplex := 65536 }, { k0 with event := 65536 }, { k0 with spanStart := 65536 },
      { k0 with spanEnd := 65536 }, { k0 with pre := 256 }, { k0 with post := 256 }, { k0 with rank := 256 },
      { k0 with flags := 256 }, { k0 with window := 65536 }].all (fun f => !(Instr.seekArrival h2 f).wellFormed) = true := by
  decide

theorem test_frames_illFormed :
    [Instr.bidArrival h2 ⟨⟨256, 0⟩, 1, 0, 0, 31⟩, .bidArrival h2 ⟨⟨1, 1⟩, 256, 0, 0, 31⟩,
      .bidArrival h2 ⟨⟨1, 1⟩, 1, 256, 0, 31⟩, .bidArrival h2 ⟨⟨1, 1⟩, 1, 0, 256, 31⟩,
      .bidArrival h2 ⟨⟨1, 1⟩, 1, 0, 0, 256⟩, .awardArrival h2 ⟨⟨256, 0⟩, 1, 1, 0⟩,
      .awardArrival h2 ⟨⟨2, 1⟩, 256, 1, 0⟩, .awardArrival h2 ⟨⟨2, 1⟩, 1, 256, 0⟩,
      .awardArrival h2 ⟨⟨2, 1⟩, 1, 1, 256⟩, .takeArrival h2 ⟨256, 0⟩ 1, .takeArrival h2 ⟨1, 1⟩ 256,
      .declineArrival h2 ⟨256, 0⟩ 1 0, .declineArrival h2 ⟨1, 1⟩ 256 0, .declineArrival h2 ⟨1, 1⟩ 1 256,
      .withdrawArrival h2 ⟨256, 0⟩ 1, .withdrawArrival h2 ⟨2, 1⟩ 256, .returnArrival h2 ⟨⟨256, 0⟩, 0, 0, []⟩,
      .returnArrival h2 ⟨⟨1, 1⟩, 256, 0, []⟩, .returnArrival h2 ⟨⟨1, 1⟩, 0, 256, []⟩,
      .returnArrival h2 ⟨⟨1, 1⟩, 0, 0, [(0, 1), (1, 2), (2, 3)]⟩, .returnArrival h2 ⟨⟨1, 1⟩, 0, 0, [(65536, 1)]⟩,
      .returnArrival h2 ⟨⟨1, 1⟩, 0, 0, [(0, 65536)]⟩, .tallyArrival h2 ⟨⟨256, 0⟩, 0, 0, 0, []⟩,
      .tallyArrival h2 ⟨⟨1, 1⟩, 256, 0, 0, []⟩, .tallyArrival h2 ⟨⟨1, 1⟩, 0, 256, 0, []⟩,
      .tallyArrival h2 ⟨⟨1, 1⟩, 0, 0, 256, []⟩, .tallyArrival h2 ⟨⟨1, 1⟩, 0, 0, 0, List.replicate 5 (0, 1)⟩,
      .markArrival h2 ⟨256, 0, 0, 8, 0, 0⟩, .markArrival h2 ⟨0, 4294967296, 0, 8, 0, 0⟩,
      .markArrival h2 ⟨0, 0, 4294967296, 8, 0, 0⟩, .markArrival h2 ⟨0, 0, 0, 256, 0, 0⟩,
      .markArrival h2 ⟨0, 0, 0, 8, 256, 0⟩, .markArrival h2 ⟨0, 0, 0, 8, 0, 65536⟩, .malformedFrame 65536 0,
      .malformedFrame 0 16].all (fun i => !i.wellFormed) = true := by decide

/-! ## No word of the table spells a command -/

theorem test_decodeTableWord_none : decodeTableWord 8 1 = none := by decide

/-! ## Witnesses: the machine and the box port -/

theorem witness_StepTakesTheFront : ({ s0 with pending := [.join, .leave] } : State).pending = .join :: [.leave] := rfl

theorem witness_TheClockCounts_counting : s0.pending = [] ∧ s0.base.frac + 1 < 32768 ∧ s0.resetLow = false := by decide

theorem witness_TheClockCounts_secondEnds :
    let s := on s0 fun v => { v with frac := 32767 }
    s.pending = [] ∧ s.base.frac < 32768 ∧ s.base.frac + 1 = 32768 ∧ s.base.clock < 4294967295 := by decide

theorem witness_TheClockCounts_atItsMaximum :
    let s := on s0 fun v => { v with frac := 32767, clock := 4294967295 }
    s.pending = [] ∧ s.base.frac < 32768 ∧ s.base.frac + 1 = 32768 ∧ 4294967295 ≤ s.base.clock := by decide

theorem witness_TheClockCounts_resetLow :
    let s : State := { s0 with resetLow := true }
    s.pending = [] ∧ s.base.frac < 32768 ∧ s.resetLow = true := by decide

theorem witness_TheClockCounts_epochDay :
    s0.resetLow = false ∧ s0.base.frac < 32768 ∧ (s0.base.clock / 86400 + 1) * 86400 ≤ 4294967295 := by decide

theorem witness_Resets :
    ({ s0 with resetLow := true } : State).resetLow = true ∧ Instr.join ≠ .coldReset ∧ Instr.join ≠ .resetnHeldLow := by
  decide

theorem reset_inv : State.reset.Inv := inv_of _ (by decide) (by decide) (by decide) (by decide) (by decide)

theorem witness_EveryStepKeepsTheCapacities : State.reset.Inv ∧ step State.reset = .next State.reset.idle :=
  ⟨reset_inv, rfl⟩

theorem witness_EveryStepKeepsBookingIdsDistinct :
    State.reset.Inv ∧ State.reset.Ids ∧ step State.reset = .next State.reset.idle :=
  ⟨reset_inv, ⟨by decide, by decide⟩, rfl⟩

theorem witness_RequestWhileHeldIsRefusedBusy_request :
    held.resetLow = false ∧ held.port.state ≠ .idle ∧ (Instr.join).code.isSome = true := by decide

theorem witness_RequestWhileHeldIsRefusedBusy_badForm :
    held.resetLow = false ∧ held.port.state ≠ .idle ∧ Instr.badFormRequest [25] = .badFormRequest ((25 : Byte) :: []) ∧
      (25 : Byte) ≠ 0 := by decide

theorem witness_RequestWhileHeldIsRefusedBusy_first :
    held.resetLow = false ∧ held.port.state ≠ .idle ∧ Instr.busyRequest 1 = .busyRequest (1 : Byte) ∧ (1 : Byte) ≠ 0 := by
  decide

theorem witness_RequestWhileHeldIsRefusedBusy_idle : s0.port.state = .idle := rfl

theorem witness_EveryRequestTakenIsAnswered : (Instr.join).code.isSome = true ∧ s0.Takes := by decide

theorem test_aRequestIsRefused : Refused .leave s0 .badState := ⟨_, ⟨rfl, rfl, rfl, rfl, rfl⟩, rfl, rfl⟩

theorem witness_BadFormIsAnswered :
    s0.Takes ∧ (25 : Byte) ≠ 0 ∧ 24 < (25 : Byte).toNat ∧ 64 < (65 : Byte).toNat ∧
      (3 : Byte).toNat ≠ fieldLength (5 : Byte).toNat ∧ ([0, 0, 0, 0] : List Byte).length < (4 : Byte).toNat + 1 ∧
      (∃ k ∈ presenceAt (8 : Byte).toNat, 1 < (([0, 2, 0, 0, 0, 0] : List Byte).getD k 0).toNat) ∧
      ([0] : List Byte).getD (0 : Byte).toNat 0 ≠ crc8 ((2 : Byte) :: 0 :: [].take (0 : Byte).toNat) := by
  refine ⟨by decide, by decide, by decide, by decide, by decide, by decide, ⟨1, by decide, by decide⟩, by decide⟩

theorem witness_BadFormIsAnswered_record :
    s0.Takes ∧ (Instr.book f0).wellFormed = true ∧ (Instr.book f0).code = some 6 := by decide

theorem witness_CollectionClocksOutTheResponse_idle : s0.resetLow = false ∧ s0.port.state ≠ .ready := by decide

theorem witness_CollectionClocksOutTheResponse_cutShort :
    held.resetLow = false ∧ held.port.state = .ready ∧ held.port.response = some ⟨2, .ok, [7]⟩ ∧
      4 < (Response.record ⟨2, .ok, [7]⟩).length := by decide

theorem witness_CollectionClocksOutTheResponse_complete :
    held.resetLow = false ∧ held.port.state = .ready ∧ held.port.response = some ⟨2, .ok, [7]⟩ ∧
      (Response.record ⟨2, .ok, [7]⟩).length ≤ 5 := by decide

/-- A notice. -/
def note : Notice := .station .joining .join

theorem witness_FetchNotice_empty : s0.Takes ∧ s0.sch.notices = [] := by decide

theorem witness_FetchNotice_alone :
    let s := put s0 fun x => { x with notices := [note] }
    s.Takes ∧ s.sch.notices = note :: [] ∧ ([] : List Notice).length < 32 ∧ s.sch.pendingOutcomes = [] := by decide

theorem witness_FetchNotice_pending :
    let b := { bk0 .ended .absent with outcome := some (.missed, .noTuner) }
    let s := put (one b) fun x => { x with notices := List.replicate 32 note, pendingOutcomes := [0] }
    s.Takes ∧ s.sch.notices = note :: List.replicate 31 note ∧ (List.replicate 31 note).length < 32 ∧
      s.sch.pendingOutcomes = 0 :: [] ∧ s.sch.bk 0 = some b := by decide

theorem witness_TheAttentionLine :
    s0.base.cfg.fitted = 2 ∧ (on s0 fun v => { v with cfg := { v.cfg with fitted := 1 } }).base.cfg.fitted = 1 := by decide

theorem witness_ReadingABooking_badValue : s0.Takes ∧ 127 < 128 := by decide

theorem witness_ReadingABooking_noSuch :
    s0.Takes ∧ 127 ≤ 127 ∧ (∀ b ∈ s0.sch.bookings, b.handle ≠ 127) ∧
      (one (bk0 .waiting .absent)).sch.bk 0 = some (bk0 .waiting .absent) ∧
      (∃ j, some ⟨1, 2⟩ = some j ∧ j ≠ (bk0 .waiting .absent).id) := by
  refine ⟨by decide, by decide, by decide, by decide, ⟨⟨1, 2⟩, by decide, by decide⟩⟩

theorem witness_ReadingABooking_record :
    let b := bk0 .waiting .absent
    (one b).Takes ∧ 0 ≤ 127 ∧ (one b).sch.bk 0 = some b ∧ some b.id = some b.id ∧ b.segs.length ≤ 4 := by decide

theorem witness_ReadingABooking_next :
    let b := bk0 .waiting .absent
    (one b).Takes ∧ ((one b).sch.bookings.map Booking.handle).Pairwise (· < ·) ∧ b ∈ (one b).sch.bookings ∧
      b.cls ≠ .hosted ∧ (∀ x ∈ (none : Option StartAt), x.handle < b.handle) := by decide

theorem witness_ReadingABooking_nextExpected :
    let s := put s0 fun x => { x with bookings := [bk0 .waiting .absent, { bk0 .waiting .absent with handle := 1 }] }
    let x : StartAt := ⟨0, some ⟨1, 1⟩⟩
    s.Takes ∧ x.handle ≤ 127 ∧ (∀ j ∈ x.expect, ∃ b ∈ s.sch.bookings, b.handle = x.handle ∧ b.id = j) ∧
      (∃ b ∈ s.sch.bookings, x.handle < b.handle) ∧
      ¬(∀ j ∈ some (⟨1, 2⟩ : BookingId), ∃ b ∈ s.sch.bookings, b.handle = x.handle ∧ b.id = j) := by decide

theorem witness_ReadingABooking_nextRefused :
    s0.Takes ∧ (∃ x ∈ some (⟨128, none⟩ : StartAt), 127 < x.handle) ∧ 2 < 3 ∧
      (∀ x ∈ some (⟨127, none⟩ : StartAt), x.handle ≤ 127) ∧ (∀ b ∈ s0.sch.bookings, b.handle ≤ 127) ∧
      (s0.sch.bookings.map Booking.handle).Pairwise (· < ·) := by
  refine ⟨by decide, ⟨_, rfl, by decide⟩, by decide, by decide, by decide, by decide⟩

theorem witness_ReadDirective :
    s0.Takes ∧ 1 < 2 ∧ 1 ≤ 1 ∧ 1 < s0.base.cfg.fitted ∧ (s0.sch.tuners.get .B).directive.captures.length ≤ 4 ∧
      (on s0 fun v => { v with cfg := { v.cfg with fitted := 1 } }).base.cfg.fitted ≤ 1 := by decide

theorem witness_ReadPeer :
    s0.Takes ∧ 8 < 9 ∧ 1 ≤ 1 ∧ (∀ p ∈ s0.base.peers, p.station ≠ 1) ∧ s0.base.peer 8 = some (Peer.absentOf 8 none) ∧
      s0.sch.engine = .idle ∧
      (put s0 fun x => { x with engine := .awaiting 0 2 none [] }).sch.engine = .awaiting 0 2 none [] ∧
      (put s0 fun x => { x with engine := .collecting 0 none [] }).sch.engine = .collecting 0 none [] := by decide

theorem witness_ReadStation : s0.Takes ∧ s0.base.cfg.clash.length = 16 ∧ 1 < 2 := by decide

/-! ## Witnesses: bookings -/

theorem witness_BookIsCheckedInOrder_refused :
    State.reset.Takes ∧ State.reset.base.timed = false ∧ s0.Takes ∧ s0.base.timed = true ∧ 30 < 31 ∧
      (103683600 + 59) / 60 * 60 ≤ 103683600 / 60 * 60 ∧ (103680000 + 59) / 60 * 60 ≤ s0.base.clock ∧
      s0.base.clock + 44640 * 60 < 106358460 / 60 * 60 ∧ 103676400 / 60 * 60 < (103680000 + 59) / 60 * 60 := by decide

theorem witness_BookIsCheckedInOrder_twice :
    let s := one (fb0 .waiting .absent)
    s.Takes ∧ s.base.timed = true ∧
      ∃ b ∈ s.sch.bookings, b.cls ≠ .hosted ∧ b.state ≠ .ended ∧ b.service = 7 ∧ b.event = some 70 := by decide

theorem witness_BookIsCheckedInOrder_full :
    let s := put s0 fun x => { x with bookings := List.replicate 128 (bk0 .waiting .absent) }
    s.Takes ∧ 128 ≤ s.sch.bookings.length ∧ s0.sch.bookings.length < 128 :=
  ⟨by decide, Nat.le_refl 128, by decide⟩

theorem s0_inv : s0.Inv := inv_of _ (by decide) (by decide) (by decide) (by decide) (by decide)

theorem witness_BookPlansAFreeTuner :
    s0.Takes ∧ s0.Inv ∧ s0.sch.Bare ∧ s0.sch.Settled ∧ s0.sch.holds = [] ∧ s0.sch.tuners.a.live = none ∧
      s0.sch.tuners.b.live = none ∧ s0.sch.usable .A = true ∧ s0.bookRefusal f0 = none ∧
      s0.base.clock < f0.start / 60 * 60 - 60 * f0.pre - s0.base.cfg.tuneLead :=
  ⟨by decide, s0_inv, by decide, by decide, by decide, by decide, by decide, by decide, by decide, by decide⟩

/-- The station with the BUDGET mark on tuner A, so that B alone is usable. -/
def onlyB : State := put s0 fun x => { x with tuners := x.tuners.set .A { TunerRec.reset with marks := ⟨false, false, true⟩ } }

theorem witness_BookPlansAFreeTuner_B :
    onlyB.Takes ∧ onlyB.Inv ∧ onlyB.sch.Bare ∧ onlyB.sch.Settled ∧ onlyB.sch.usable .B = true ∧
      onlyB.sch.usable .A = false ∧ onlyB.bookRefusal f0 = none :=
  ⟨by decide, inv_of _ (by decide) (by decide) (by decide) (by decide) (by decide), by decide, by decide, by decide,
    by decide, by decide⟩

theorem witness_Amend_refused :
    let b := bk0 .waiting .absent
    let c := bk0 .recording (.tuner .A)
    let e := fb0 .waiting .absent
    (one b).Takes ∧ 0 ≤ 127 ∧ (one b).sch.bk 0 = some b ∧ (one c).sch.bk 0 = some c ∧ c.state = .recording ∧
      (one e).sch.bk 0 = some e ∧ e.cls ≠ .manual ∧
      (one { b with cls := .hosted }).sch.bk 0 = some { b with cls := .hosted } ∧
      (103680000 + 59) / 60 * 60 ≤ (one b).base.clock ∧ (one b).base.clock + 44640 * 60 < 106358460 / 60 * 60 := by decide

theorem witness_Amend_lent :
    let b := bk0 (.lent) (.lent 2)
    let s := on (one b) fun v => { v with clock := 103683510 }
    s.Takes ∧ s.sch.bk 0 = some b ∧ b.start - 60 * b.pre - s.base.cfg.tuneLead ≤ s.base.clock ∧
      (one b).base.clock < b.start - 60 * b.pre - (one b).base.cfg.tuneLead := by decide

theorem witness_Amend_underWay :
    let b := bk0 .preparing (.tuner .A)
    let s := onA b []
    let c := { b with priority := min 7 ((some 9).getD b.priority), post := (some 30).getD b.post }
    s.Takes ∧ s.sch.bk 0 = some b ∧ s.sch.Settled ∧ b.cls ≠ .hosted ∧ b.state = .preparing ∧ b.pre ≤ 30 ∧ b.post ≤ 30 ∧
      b.start < b.finish ∧ b.finish ≤ b.start + 86400 ∧ b.running = none ∧ b.endedAt = none ∧
      c.post ≠ b.post ∧ c.armed s.base = some (.start, 103683540) ∧ s.base.clock < 103683540 ∧ (∀ y ∈ some 30, y ≤ 30) := by decide

/-- The station at START of a PREPARING booking, its START due and not fired. -/
def startDue : State :=
  put (on (onA (bk0 .preparing (.tuner .A)) []) fun v => { v with clock := 103683540 }) fun x =>
    { x with triggers := [⟨0, .start, 103683540⟩] }

theorem witness_Amend_keepsItsTrigger :
    let b := bk0 .preparing (.tuner .A)
    let c := bk0 .covered (.covered 2)
    startDue.Takes ∧ startDue.sch.bk 0 = some b ∧ startDue.sch.Settled ∧ b.start - 60 * b.pre = startDue.base.clock ∧
      (one c).sch.bk 0 = some c ∧ (one c).sch.Settled ∧ c.armed s0.base = some (.stop, 103687320) := by decide

/-- An AMEND of the priority alone leaves a START that is due to fire (R13, R32). -/
theorem test_amendKeepsStart :
    (match exec (.amend 0 none { a0 with priority := some 1 }) startDue with
      | .next t => (t.sch.triggers, t.sch.bookings.map fun b => (b.state, b.priority))
      | _ => ([], [])) = ([⟨0, .start, 103683540⟩], [(.preparing, 1)]) := by decide

theorem witness_CancelEndsTheBooking :
    let b := bk0 .waiting .absent
    let c := { b with cls := .hosted }
    (one b).Takes ∧ (one b).sch.bk 0 = some b ∧ b.cls ≠ .hosted ∧ b.state ≠ .ended ∧ (one c).sch.bk 0 = some c ∧
      c.cls = .hosted := by decide

/-- The station with no usable tuner and one booking. -/
def unusable (b : Booking) : State :=
  put (one b) fun x =>
    { x with tuners := ⟨{ TunerRec.reset with marks := ⟨false, false, true⟩ }, { TunerRec.reset with marks := ⟨false, false, true⟩ }⟩ }

theorem witness_Resolve :
    let b := bk0 .referred .absent
    let c := { b with state := .waiting, plan := .absent, confirm := none, peerLost := false }
    let s := put (unusable b) fun x => { x with referrals := [⟨0, .A, [], 103683510, .placement⟩] }
    s.Takes ∧ s.sch.bk 0 = some b ∧ 2 < 3 ∧ 2 ≤ 2 ∧ b.state = .referred ∧ b.cls ≠ .hosted ∧
      (one (bk0 .waiting .absent)).sch.bk 0 = some (bk0 .waiting .absent) ∧ s.sch.Bare ∧ s.sch.Settled ∧
      s.sch.usable .A = false ∧ s.sch.usable .B = false ∧ s.base.station ≠ .joined ∧ s.sch.Room 1 ∧
      b.attempts < s.base.cfg.seekLimit ∧ c.armed s.base = some (.stop, 103687320) ∧ s.base.clock < 103687320 := by decide

/-! ## Witnesses: series links, the guide, the clock and running status -/

/-- A link of slot 0. -/
def lk : Link := ⟨0, ⟨1, 1⟩, 500, none, 3, 1, 2, false, false, some ⟨1, 2⟩, false, false, [80]⟩

/-- The station with that link. -/
def linked (s : State) : State := put s fun x => { x with links := [lk], linkCtr := 2 }

/-- An EPISODE booking of that link. -/
def eb0 (st : BState) (p : Plan) : Booking :=
  { bk0 st p with cls := .episode, event := some 70, link := some ⟨1, 1⟩, episode := some 80 }

/-- A guide event of the series. -/
def g1 : GuideFields := { g0 with series := some 500, episode := some 81 }

/-- A full Booking Table, in order of handle. -/
def full : List Booking := (List.range 128).map fun n => { bk0 .waiting .absent with handle := n }

theorem witness_LinkMakesALink :
    s0.Takes ∧ s0.Inv ∧ State.reset.base.timed = false ∧ (ScopeField.other 2 = .other 2) ∧
      (∃ n, CountField.number 256 = .number n ∧ (n = 0 ∨ 255 < n)) ∧ l0.follow ≤ 1 ∧ l0.firstRun ≤ 1 ∧ l0.pre ≤ 30 ∧
      l0.post ≤ 30 ∧ (∃ l ∈ (linked s0).sch.links, l.series = l0.series ∧ l.scope = none) ∧ s0.sch.links.length < 32 :=
  ⟨by decide, s0_inv, by decide, rfl, ⟨256, by decide⟩, by decide, by decide, by decide, by decide,
    ⟨lk, by decide⟩, by decide⟩

/-- Links that fill every slot. -/
def links32 : List Link := (List.range 32).map fun n => { lk with slot := n, id := ⟨1, n⟩, series := n }

theorem witness_LinkMakesALink_full :
    let s := put s0 fun x => { x with links := links32 }
    s.Takes ∧ s.sch.links.length = 32 ∧ ∀ l ∈ s.sch.links, ¬(l.series = l0.series ∧ l.scope = none) := by decide

theorem witness_Unlink :
    let s := linked (one (eb0 .waiting .absent))
    let t := linked (one (eb0 .recording (.tuner .A)))
    s.Takes ∧ (∀ l ∈ s.sch.links, l.id ≠ ⟨1, 2⟩) ∧ lk ∈ s.sch.links ∧ (linked s0).sch.ofLink lk.id = [] ∧
      s.sch.ofLink lk.id = [0] ∧ s.sch.bk 0 = some (eb0 .waiting .absent) ∧ t.sch.ofLink lk.id = [0] ∧
      t.sch.bk 0 = some (eb0 .recording (.tuner .A)) := by decide

theorem witness_ReadLink :
    let s := linked s0
    s.Takes ∧ lk ∈ s.sch.links ∧ (∀ m ∈ s.sch.links, m.id = lk.id → m = lk) ∧ 31 < 32 ∧
      (∀ l ∈ s.sch.links, l.slot < 31) ∧ 0 ≤ lk.slot ∧ (∀ m ∈ s.sch.links, 0 ≤ m.slot → lk.slot ≤ m.slot) := by decide

theorem witness_ReadLink_inv : (linked s0).Inv :=
  inv_of _ (by decide) (by decide) (by decide) (by decide) (by decide)

theorem witness_GuideEventThatMakesNothing :
    s0.Takes ∧ State.reset.base.timed = false ∧ 1440 < 1441 ∧ g1.duration ≤ 1440 ∧ g1.repeated ≤ 1 ∧
      (∀ b ∈ (one (bk0 .waiting .absent)).sch.bookings, b.cls = .manual) ∧ g0.series = none ∧
      (∀ l ∈ (linked s0).sch.links, some 501 ≠ some l.series) := by decide

theorem witness_GuideEventThatMakesNothing_backlog :
    let s := put (linked s0) fun x => { x with bookings := full }
    s.Takes ∧ s.base.timed = true ∧ s.sch.links = [lk] ∧ g1.series = some lk.series ∧ lk.scope = none ∧
      lk.exhausted = false ∧ lk.firstRun = false ∧ (∀ c ∈ g1.episode, c ∉ lk.episodes) ∧
      s.sch.bookings.length = 128 ∧ s.sch.Room 1 ∧ s.base.clock < g1.start / 60 * 60 ∧
      g1.start / 60 * 60 ≤ s.base.clock + 44640 * 60 := by
  refine ⟨by decide, by decide, rfl, by decide, by decide, by decide, by decide, by decide, ?_, by decide, by decide,
    by decide⟩
  exact (List.length_map ..).trans List.length_range

theorem witness_GuideEventThatMakesNothing_noProgramme : ∀ b ∈ full, b.service ≠ g1.service ∨ b.event ≠ some g1.event := by
  intro b hb
  obtain ⟨n, _, rfl⟩ := List.mem_map.1 hb
  exact Or.inr nofun

theorem witness_GuideEventChangesABooking_withdraws :
    let b := { bk0 .planned (.tuner .A) with cls := .event, event := some 70 }
    (one b).Takes ∧ (one b).base.timed = true ∧ (one b).sch.bookings.filter (reached { g0 with duration := 0 }) = [b] ∧
      (one b).sch.bk b.handle = some b ∧ b.segs = [] ∧ b.state = .planned := by decide

theorem witness_GuideEventChangesABooking_movesTheEnd :
    let b := { bk0 .recording (.tuner .A) with cls := .event, event := some 70, segs := [seg 103683600 none] }
    let s := onA b [⟨7, 0⟩]
    let c := { b with finish := 103687140 }
    let f := { g0 with start := 103683540 }
    s.Takes ∧ s.sch.bookings.filter (reached f) = [b] ∧ s.sch.bk b.handle = some b ∧ s.sch.unplaced = [] ∧
      s.sch.Settled ∧ max (b.start + 60) (min (b.start + 86400) (min ((f.start + 60 * f.duration + 59) / 60 * 60)
        (f.start / 60 * 60 + 86400))) = 103687140 ∧ 103687140 ≠ b.finish ∧ b.follow = false ∧
      c.armed s.base = some (.stop, 103687260) ∧ s.base.clock < 103687260 := by decide

theorem witness_GuideEventMakesAnEpisode :
    let s := linked s0
    s.Takes ∧ s.base.timed = true ∧ s.sch.links = [lk] ∧ g1.series = some lk.series ∧ lk.scope = none ∧
      lk.exhausted = false ∧ lk.firstRun = false ∧ (∀ c ∈ g1.episode, c ∉ lk.episodes) ∧ s.sch.bookings = [] ∧
      s.sch.marks = [] ∧ s.base.station ≠ .joined ∧ s.sch.Bare ∧ s.sch.Settled ∧ s.sch.holds = [] ∧
      s.sch.usable .A = true ∧ s.sch.Room 2 ∧ s.base.clock < g1.start / 60 * 60 - 60 * lk.pre - s.base.cfg.tuneLead ∧
      g1.start / 60 * 60 ≤ s.base.clock + 44640 * 60 := by decide

theorem witness_SetClock :
    s0.Takes ∧ 86399 < 86400 ∧ 4290000000 < 4290000001 ∧ State.reset.base.timed = false ∧
      s0.base.clock + 2 ≤ 4290000000 ∧ 86400 + 2 ≤ s0.base.clock := by decide

theorem witness_SetClock_forward :
    let b := bk0 .waiting .absent
    (one b).sch.bookings = [b] ∧ b.cls ≠ .hosted ∧ b.closeTime (one b).base = 103687320 ∧
      (one b).base.clock + 2 ≤ 103687320 := by decide

theorem witness_SetClock_trim :
    s0.base.timed = true ∧ 103680001 < s0.base.clock + 2 ∧ s0.base.clock < 103680001 + 2 ∧
      (∀ x ∈ s0.sch.triggers, 103680001 < x.time) ∧ s0.sch.bookings = [] := by decide

/-- A RECORDING booking on tuner A with an open segment. -/
def rb : Booking := { bk0 .recording (.tuner .A) with segs := [seg 103679000 none] }

theorem witness_SetClock_forwardGap :
    let s := onA rb [⟨7, 0⟩]
    s.Takes ∧ s.base.clock + 2 ≤ 103680600 ∧ s.sch.bookings = [rb] ∧ rb.plan = .tuner .A ∧
      103680600 < rb.closeTime s.base ∧ rb.segs.length < 4 ∧ s.sch.stacked = ⟨[], []⟩ ∧ s.sch.Settled ∧
      (∀ x ∈ s.sch.triggers, 103680600 < x.time) := by decide

theorem witness_SetClock_backward :
    let s := onA rb [⟨7, 0⟩]
    let c := { rb with segs := [seg 103678000 none] }
    103678000 + 2 ≤ s.base.clock ∧ s.sch.bookings = [rb] ∧ c.armed s.base = some (.stop, 103687320) ∧
      103678000 < 103687320 ∧ s.sch.Settled ∧ rb.state ≠ .preparing := by decide

theorem witness_SetClock_backwardPlanned :
    let b := bk0 .preparing (.tuner .A)
    let s := on (onA b []) fun v => { v with clock := 103683520 }
    s.Takes ∧ 103683000 + 2 ≤ s.base.clock ∧ s.sch.bookings = [b] ∧ b.segs = [] ∧ s.sch.stacked = ⟨[], []⟩ ∧
      103683000 < b.start - 60 * b.pre - s.base.cfg.tuneLead := by decide

theorem witness_RunningStatus :
    let b := fb0 .waiting .absent
    let c := { b with running := some .running, endedAt := none }
    s0.Takes ∧ 3 < 4 ∧ (∀ x ∈ (one (bk0 .waiting .absent)).sch.bookings, x.follow = false) ∧
      Running.ofStatus 1 = some .running ∧ (one b).sch.bookings.filter (followsProgramme 7 70) = [b] ∧
      (one b).sch.bk b.handle = some b ∧ (one b).sch.Settled ∧ c.armed (one b).base = some (.stop, 103687320) ∧
      (one b).base.clock < 103687320 := by decide

theorem witness_RunningStatus_pauses :
    let b := { fb0 .recording (.tuner .A) with running := some .running, segs := [seg 103680000 none] }
    let s := onA b [⟨7, 0⟩]
    let c := { b with
      running := some .paused, endedAt := none, state := .paused, segs := closeOpen s.base.clock b.segs }
    s.Takes ∧ Running.ofStatus 2 = some .paused ∧ s.sch.bookings.filter (followsProgramme 7 70) = [b] ∧
      s.sch.bk b.handle = some b ∧ s.sch.Settled ∧ b.state = .recording ∧
      c.armed s.base = some (.stop, 103687320) ∧ (⟨b.service, b.handle⟩ : Capture) ∈ (s.sch.tuners.get .A).captures ∧
      (∀ y ∈ (s.sch.tuners.get Tuner.A.other).captures, y.handle ≠ b.handle) := by decide

/-- A follow booking RECORDING on tuner A under a handle, local or hosted. -/
def fr (h : Nat) (c : BClass) : Booking :=
  { fb0 .recording (.tuner .A) with
    handle := h, cls := c, id := ⟨h + 1, 1⟩, order := h + 1, prepSeq := h, segs := [seg 103680000 none] }

/-- Two bookings of one programme, a local and a hosted one, RECORDING on tuner A. -/
def pair : State :=
  put (onA (fr 0 .event) [⟨7, 0⟩, ⟨7, 1⟩]) fun x =>
    { x with bookings := [fr 0 .event, fr 1 .hosted], plans := ⟨[⟨0, false⟩, ⟨1, false⟩], []⟩ }

theorem witness_RunningStatus_pausesTwo :
    let halted (x : Booking) : Booking :=
      { x with running := some .paused, endedAt := none, state := .paused, segs := closeOpen pair.base.clock x.segs }
    pair.Takes ∧ pair.sch.bookings.filter (followsProgramme 7 70) = [fr 0 .event, fr 1 .hosted] ∧
      pair.sch.bk 0 = some (fr 0 .event) ∧ pair.sch.bk 1 = some (fr 1 .hosted) ∧ pair.sch.Settled ∧
      (pair.sch.tuners.get .A).captures = [⟨7, 0⟩, ⟨7, 1⟩] ∧ (pair.sch.tuners.get .B).captures = [] ∧
      (halted (fr 0 .event)).armed pair.base = some (.stop, 103687320) ∧
      (halted (fr 1 .hosted)).armed pair.base = some (.stop, 103687320) ∧ pair.base.clock < 103687320 := by decide

/-! ## Witnesses: tuners, live viewing and power -/

/-- The station with tuner A in a state, under directive 1 of multiplex 9 and no capture, for live viewing or not. -/
def tuned (st : TState) (live : Option Live) : State :=
  put s0 fun x =>
    { x with
      tuners := x.tuners.set .A
        { TunerRec.reset with
          state := st, live := live, directive := ⟨1, live.map (·.mux), live.map (·.service), []⟩
          tuneTimer := some (s0.base.now + 1, 1) } }

theorem witness_TunerReport :
    let s := tuned .tuning (some ⟨9, 7⟩)
    s.Takes ∧ 1 < 2 ∧ 1 ≤ 1 ∧ 1 < s.base.cfg.fitted ∧
      (on s fun v => { v with cfg := { v.cfg with fitted := 1 } }).base.cfg.fitted ≤ 1 ∧
      0 ≠ (s.sch.tuners.get .A).directive.serial ∧ 1 = (s.sch.tuners.get .A).directive.serial ∧ s.sch.Settled ∧
      (s.sch.tuners.get .A).state = .tuning ∧ (∀ b ∈ s.sch.occupants .A, b.state ≠ .preparing) ∧
      (tuned .locked (some ⟨9, 7⟩)).sch.Settled ∧ ((tuned .locked (some ⟨9, 7⟩)).sch.tuners.get .A).state = .locked := by
  decide

theorem witness_LossAndReturnOfATuner_loss :
    let s := tuned .tuning (some ⟨9, 7⟩)
    let r := s.sch.tuners.get .A
    0 < s.base.cfg.fitted ∧ s.base.cfg.fitted ≤ 2 ∧ s.sch.Bare ∧ s.sch.Settled ∧ s.sch.Room 1 ∧ s.sch.budget = 2 ∧
      s.sch.usable .A = true ∧ r.live = some ⟨9, 7⟩ ∧ r.captures = [] ∧ (s.sch.tuners.get .B).live = none ∧
      (s.sch.tuners.get .B).marks.budget = false ∧ s.Takes ∧ r.state = .tuning ∧
      r.tuneTimer = some (s0.base.now + 1, r.directive.serial) := by decide

/-- The station with tuner A FAILED and its recheck timer running. -/
def failed : State :=
  put s0 fun x =>
    { x with
      tuners := x.tuners.set .A
        { TunerRec.reset with
          state := .failed, directive := ⟨2, none, none, []⟩, recheck := some (s0.base.now + 5),
          marks := ⟨false, true, false⟩ } }

theorem witness_LossAndReturnOfATuner_return :
    let r := failed.sch.tuners.get .A
    failed.resetLow = false ∧ failed.base.cfg.fitted = 2 ∧ failed.sch.Bare ∧ failed.sch.Settled ∧ failed.sch.Room 1 ∧
      failed.sch.budget = 2 ∧ r.state = .failed ∧ r.recheck = some (s0.base.now + 5) ∧ r.live = none ∧
      r.marks = ⟨false, true, false⟩ ∧ (failed.sch.tuners.get .B).marks.budget = false ∧
      (s0.sch.tuners.get .A).state ≠ .failed := by decide

/-- A tuner out of use: FAILED, with the SIGNAL mark. -/
def dead : TunerRec := { TunerRec.reset with state := .failed, marks := ⟨false, true, false⟩ }

/-- Tuner A serves booking 0, and B is FAILED. -/
def lastTuner : State :=
  put (onA { bk0 .recording (.tuner .A) with segs := [seg 103679000 none] } [⟨7, 0⟩]) fun x =>
    { x with tuners := x.tuners.set .B dead }

/-- Booking 0 is SUSPENDED by a record of a reason on tuner A's stack, A has a record, and B is FAILED. -/
def suspended (r : PushReason) (a : TunerRec) : State :=
  put (one (bk0 .suspended .absent)) fun x =>
    { x with unplaced := [0], stacked := ⟨[⟨[0], 9, 103679000, r, none, false⟩], []⟩, tuners := ⟨a, dead⟩ }

/-- Tuner A FAILED with its recheck timer running. -/
def recheckA : TunerRec := { dead with recheck := some (s0.base.now + 5) }

/-- Tuner A LOCKED for live viewing on another multiplex. -/
def viewA : TunerRec :=
  { TunerRec.reset with state := .locked, live := some ⟨10, 5⟩, directive := ⟨1, some 10, some 5, []⟩ }

theorem witness_LossAndReturnOfATuner_push :
    let b := { bk0 .recording (.tuner .A) with segs := [seg 103679000 none] }
    let s := lastTuner
    let r := s.sch.tuners.get .A
    let c := { b with state := .suspended, plan := .absent, segs := closeOpen s.base.clock b.segs }
    s.Takes ∧ 0 < s.base.cfg.fitted ∧ s.base.cfg.fitted ≤ 2 ∧ s.sch.Settled ∧ s.sch.Room 1 ∧ s.base.station ≠ .joined ∧
      1 ≤ s.base.cfg.depth ∧ s.sch.usable .A = true ∧ r.live = none ∧ r.state = .locked ∧ s.sch.usable .B = false ∧
      (s.sch.tuners.get .B).state = .failed ∧ s.sch.plans.get .A = [⟨0, false⟩] ∧ s.sch.plans.get .B = [] ∧
      s.sch.stacked = ⟨[], []⟩ ∧ s.sch.unplaced = [] ∧ s.sch.bk 0 = some b ∧ b.cls ≠ .hosted ∧
      (∀ y ∈ r.captures, y.handle = 0) ∧ (∀ y ∈ (s.sch.tuners.get .B).captures, y.handle ≠ 0) ∧
      c.armed s.base = some (.stop, 103687320) ∧ s.base.clock < 103687320 := by decide

theorem witness_LossAndReturnOfATuner_pop :
    let b := bk0 .suspended .absent
    let s := suspended .signal recheckA
    let r := s.sch.tuners.get .A
    let v := (s.countTo (s0.base.now + 5)).base
    let c := { b with state := .preparing, plan := .tuner .A, prepSeq := s.sch.prepCtr }
    s.resetLow = false ∧ s.base.cfg.fitted = 2 ∧ s.sch.Settled ∧ s.sch.Room 1 ∧ 1 ≤ s.sch.budget ∧ r.state = .failed ∧
      r.recheck = some (s0.base.now + 5) ∧ r.live = none ∧ r.marks = ⟨false, true, false⟩ ∧ s.sch.usable .B = false ∧
      (s.sch.tuners.get .B).state = .failed ∧ s.sch.plans = ⟨[], []⟩ ∧
      s.sch.stacked.get .A = [⟨[0], b.mux, 103679000, .signal, none, false⟩] ∧ s.sch.stacked.get .B = [] ∧
      s.sch.unplaced = [0] ∧ s.sch.bk 0 = some b ∧ b.state = .suspended ∧ v.clock < b.closeTime v ∧
      c.armed v = some (.start, 103683540) ∧ v.clock < 103683540 := by decide

theorem witness_PowerBudget :
    s0.Takes ∧ 2 < 3 ∧ 2 ≤ 2 ∧ s0.base.cfg.fitted = 2 ∧ s0.sch.Bare ∧ s0.sch.Settled ∧ s0.sch.Room 2 ∧
      s0.sch.tuners.a.live = none ∧ s0.sch.tuners.b.live = none ∧ s0.sch.usable .A = true ∧ s0.sch.usable .B = true ∧
      s0.sch.tuners.a.state ≠ .failed ∧ s0.sch.tuners.b.state ≠ .failed := by decide

theorem witness_LiveViewing_hold :
    s0.Takes ∧ 1 < 2 ∧ (unusable (bk0 .waiting .absent)).sch.usable .A = false ∧
      (unusable (bk0 .waiting .absent)).sch.usable .B = false ∧ s0.sch.Bare ∧ s0.sch.Settled ∧
      s0.sch.tuners.a.live = none ∧ s0.sch.tuners.b.live = none ∧ s0.sch.usable .A = true ∧
      (s0.sch.tuners.get .A).state = .idle ∧ onlyB.sch.usable .B = true ∧ onlyB.sch.usable .A = false ∧
      (onlyB.sch.tuners.get .B).state = .idle := by decide

/-- The station with tuner B out of use, one booking on A, and the policy REFER. -/
def refers : State :=
  put (onA (bk0 .recording (.tuner .A)) [⟨7, 0⟩]) fun x =>
    { x with tuners := x.tuners.set .B { TunerRec.reset with marks := ⟨false, false, true⟩ } }

theorem witness_LiveViewing_conflict :
    refers.Takes ∧ refers.base.cfg.liveRefer = true ∧ refers.sch.usable .A = true ∧ refers.sch.usable .B = false ∧
      (refers.sch.tuners.get .A).live = none ∧ refers.sch.occupants .A ≠ [] ∧
      (∀ b ∈ refers.sch.occupants .A, b.mux ≠ 10) ∧
      ((refers.sch.occupants .A).map Booking.handle).Pairwise (· < ·) := by decide

theorem witness_LiveViewing_release :
    let s := tuned .locked (some ⟨9, 7⟩)
    s.Takes ∧ s0.sch.tuners.a.live = none ∧ s0.sch.tuners.b.live = none ∧ (s.sch.tuners.get .A).live = some ⟨9, 7⟩ ∧
      (s.sch.tuners.get .B).live = none ∧ s.sch.Bare ∧ s.sch.Settled ∧ (s.sch.tuners.get .A).state ≠ .failed := by decide

theorem witness_LiveViewing_forced :
    let b := { bk0 .recording (.tuner .A) with segs := [seg 103679000 none] }
    let s := lastTuner
    let c := { b with state := .suspended, plan := .absent, segs := closeOpen s.base.clock b.segs }
    s.Takes ∧ s.sch.Settled ∧ s.sch.usable .A = true ∧ (s.sch.tuners.get .B).live = none ∧
      (s.sch.tuners.get .A).state ≠ .failed ∧ s.sch.bk 0 = some b ∧ s.sch.plans.get .B = [] ∧ s.sch.usable .B = false ∧
      (s.sch.tuners.get .A).live = none ∧ s.base.station ≠ .joined ∧ 1 ≤ s.base.cfg.depth ∧
      s.sch.plans.get .A = [⟨0, false⟩] ∧ s.sch.stacked = ⟨[], []⟩ ∧ s.sch.unplaced = [] ∧ b.cls ≠ .hosted ∧
      b.mux ≠ 10 ∧ (∀ y ∈ (s.sch.tuners.get .A).captures, y.handle = 0) ∧
      (∀ y ∈ (s.sch.tuners.get .B).captures, y.handle ≠ 0) ∧ c.armed s.base = some (.stop, 103687320) ∧
      s.base.clock < 103687320 := by decide

theorem witness_LiveViewing_releasePops :
    let b := bk0 .suspended .absent
    let s := suspended .live viewA
    let c := { b with state := .preparing, plan := .tuner .A, prepSeq := s.sch.prepCtr }
    s.Takes ∧ s.sch.Settled ∧ s.sch.usable .A = true ∧ (s.sch.tuners.get .B).live = none ∧
      (s.sch.tuners.get .A).state ≠ .failed ∧ s.sch.bk 0 = some b ∧ s.sch.plans = ⟨[], []⟩ ∧
      (s.sch.tuners.get .A).live = some ⟨10, 5⟩ ∧ 10 ≠ b.mux ∧
      s.sch.stacked = ⟨[⟨[0], b.mux, 103679000, .live, none, false⟩], []⟩ ∧ s.sch.unplaced = [0] ∧
      s.base.clock < b.closeTime s.base ∧ c.armed s.base = some (.start, 103683540) ∧ s.base.clock < 103683540 := by
  decide

theorem witness_FiguresOfATuner :
    let b := bk0 .recording (.tuner .A)
    ((tuned .locked (some ⟨9, 7⟩)).sch.tuners.get .A).live = some ⟨9, 7⟩ ∧ (s0.sch.tuners.get .A).live = none ∧
      s0.sch.occupants .A = [] ∧ b ∈ refers.sch.occupants .A ∧
      (∀ c ∈ refers.sch.occupants .A, c = b ∨ b.prepSeq < c.prepSeq) ∧ (∀ b ∈ refers.sch.occupants .A, b.rank ≤ 31) := by
  decide

/-! ## Witnesses: triggers, starts and endings -/

theorem witness_SegmentsGiveTheOutcome :
    let b := { bk0 .recording (.tuner .A) with segs := [seg 103683600 (some 103687200)] }
    (bk0 .waiting .absent).segs = [] ∧ b.segs ≠ [] ∧
      (∀ g ∈ b.segs, g.frm ≤ b.start ∧ b.finish - 1 < g.til.getD g.frm) := by decide

/-- The station with one booking and its trigger. -/
def trig (s : State) (k : TrigKind) (d : Nat) : State := put s fun x => { x with triggers := [⟨0, k, d⟩] }

theorem witness_TimedEventsKeepTheRest :
    s0.resetLow = false ∧ Instr.bidWindowEnd ∈ [Instr.prepare 0, .bidWindowEnd] ∧ Instr.due s0 .bidWindowEnd = none ∧
      Instr.due (trig s0 .stop 103687320) (.stop 0) = some (103687320 * 4096000) ∧
      Instr.due failed (.recheckTimerExpiry 0) = some (s0.base.now + 5) := by decide

theorem witness_PrepareStartsTuning :
    let b := bk0 .planned (.tuner .A)
    let s := put (trig (one b) .prepare 103683510) fun x => { x with plans := ⟨[⟨0, true⟩], []⟩ }
    s.resetLow = false ∧ s.sch.trigger 0 = some ⟨0, .prepare, 103683510⟩ ∧ s.sch.bk 0 = some b ∧
      s.sch.plans.get .A = [⟨0, true⟩] ∧ s.sch.plans.get Tuner.A.other = [] ∧ s.sch.stacked = ⟨[], []⟩ ∧ s.sch.unplaced = [] ∧
      s.sch.Settled ∧ s.sch.usable .A = true ∧ (s.sch.tuners.get .A).live = none ∧ (s.sch.tuners.get .A).state = .idle ∧
      (s.countTo (103683510 * 4096000)).base.clock < b.start - 60 * b.pre ∧ s0.sch.trigger 0 = none := by decide

/-- Booking 0 RECORDING on tuner A, and booking 1 PLANNED on it on another multiplex with the pre-empts mark, its PREPARE
trigger armed; B is out of use. -/
def contested : State :=
  put (onA rb [⟨7, 0⟩]) fun x =>
    { x with
      bookings := [rb, { bk0 .planned (.tuner .A) with handle := 1, id := ⟨1, 2⟩, mux := 10, priority := 0, order := 2 }]
      plans := ⟨[⟨0, false⟩, ⟨1, true⟩], []⟩
      triggers := [⟨1, .prepare, 103683510⟩, ⟨0, .stop, 103687320⟩]
      tuners := x.tuners.set .B dead }

theorem witness_PrepareStartsTuning_displaces :
    let b := { bk0 .planned (.tuner .A) with handle := 1, id := ⟨1, 2⟩, mux := 10, priority := 0, order := 2 }
    let s := contested
    let v := (s.countTo (103683510 * 4096000)).base
    let c' := { rb with state := .suspended, plan := .absent, segs := closeOpen v.clock rb.segs }
    s.sch.trigger 1 = some ⟨1, .prepare, 103683510⟩ ∧ s.sch.bk 1 = some b ∧ b.state = .planned ∧ b.plan = .tuner .A ∧
      s.sch.plans.get .B = [] ∧ s.sch.stacked = ⟨[], []⟩ ∧ s.sch.unplaced = [] ∧ s.sch.Settled ∧
      s.sch.bk 0 = some rb ∧ s.sch.plans.get .A = [⟨0, false⟩, ⟨1, true⟩] ∧ s.sch.usable .A = true ∧
      (s.sch.tuners.get .A).live = none ∧ (s.sch.tuners.get .A).state ≠ .failed ∧ s.sch.usable .B = false ∧
      v.station ≠ .joined ∧ 1 ≤ v.cfg.depth ∧ b.start - 60 * b.pre - v.cfg.tuneLead ≤ v.clock ∧
      v.clock < b.start - 60 * b.pre ∧ v.clock < b.closeTime v ∧ rb.cls ≠ .hosted ∧ rb.mux ≠ b.mux ∧
      rb.start - 60 * rb.pre - v.cfg.tuneLead ≤ v.clock ∧ v.clock < rb.closeTime v ∧ b.rank < rb.rank ∧
      (∀ y ∈ (s.sch.tuners.get .A).captures, y.handle = 0) ∧ (∀ y ∈ (s.sch.tuners.get .B).captures, y.handle ≠ 0) ∧
      c'.armed v = some (.stop, 103687320) ∧ v.clock < 103687320 := by decide

theorem witness_PrepareStartsTuning_mark :
    let b := eb0 .planned (.tuner .A)
    let s := on (put (linked (trig (one b) .prepare 103683510)) fun x => { x with plans := ⟨[⟨0, false⟩], []⟩ }) fun v =>
      { v with station := .joined }
    s.sch.trigger 0 = some ⟨0, .prepare, 103683510⟩ ∧ s.sch.bk 0 = some b ∧ s.sch.plans.get .A = [⟨0, false⟩] ∧
      s.sch.Settled ∧ s.sch.usable .A = true ∧ (s.sch.tuners.get .A).live = none ∧ (s.sch.tuners.get .A).state = .idle ∧
      b.cls = .episode ∧ b.episode = some 80 ∧
      (b.link.bind fun j => (s.sch.links.find? fun l => l.id == j).map (·.series)) = some 500 ∧
      s.base.station = .joined ∧ s.sch.txq.length < 12 := by decide

theorem witness_PrepareStartsTuning_returns :
    let b := { bk0 .planned (.tuner .A) with cls := .hosted, id := ⟨2, 40⟩ }
    let s := put (trig (unusable b) .prepare 103683510) fun x => { x with plans := ⟨[⟨0, false⟩], []⟩ }
    s.sch.trigger 0 = some ⟨0, .prepare, 103683510⟩ ∧ s.sch.bk 0 = some b ∧ b.cls = .hosted ∧ b.segs.length ≤ 2 ∧
      s.sch.usable .A = false ∧ s.sch.usable .B = false ∧ s.sch.plans.get .A = [⟨0, false⟩] ∧ s.sch.plans.get .B = [] ∧
      s.sch.Settled ∧ s.sch.AtRest ∧ (∀ x ∈ s.sch.referrals, x.handle ≠ 0) ∧
      (∀ y ∈ (s.sch.tuners.get .A).captures ++ (s.sch.tuners.get .B).captures, y.handle ≠ 0) := by decide

theorem witness_StartAndGraceBeginTheCapture_ended :
    let b := { fb0 .preparing (.tuner .A) with running := some .ended, segs := [seg 103683000 (some 103683100)] }
    let s := trig (onA b []) .start 103683540
    let v := (s.countTo (103683540 * 4096000)).base
    let c := { b with state := .recording, segs := b.segs ++ [seg v.clock none] }
    s.sch.trigger 0 = some ⟨0, .start, 103683540⟩ ∧ s.sch.bk 0 = some b ∧ s.sch.Settled ∧ b.running = some .ended ∧
      b.segs ≠ [] ∧ c.armed v = some (.stop, 103687320) ∧ v.clock < 103687320 := by decide

theorem witness_StartAndGraceBeginTheCapture_pauses :
    let b := { fb0 .preparing (.tuner .A) with running := some .paused, segs := [seg 103683000 (some 103683100)] }
    let s := trig (onA b []) .grace 103684500
    let v := (s.countTo (103684500 * 4096000)).base
    s.sch.trigger 0 = some ⟨0, .grace, 103684500⟩ ∧ s.sch.bk 0 = some b ∧ s.sch.Settled ∧
      (s.sch.tuners.get .A).state = .locked ∧ (s.sch.tuners.get .A).directive.mux = some b.mux ∧
      b.start - 60 * b.pre ≤ v.clock ∧ b.follow = true ∧ b.running = some .paused ∧ b.segs ≠ [] ∧
      min (b.start + 60 * v.cfg.grace) (b.finish - 60) ≤ v.clock ∧
      ({ b with state := .paused } : Booking).armed v = some (.stop, 103687320) ∧ v.clock < 103687320 := by decide

theorem witness_StartAndGraceBeginTheCapture_start :
    let b := bk0 .preparing (.tuner .A)
    let s := trig (onA b []) .start 103683540
    let v := (s.countTo (103683540 * 4096000)).base
    let c := { b with state := .recording, segs := [seg v.clock none] }
    s.sch.trigger 0 = some ⟨0, .start, 103683540⟩ ∧ s.sch.bk 0 = some b ∧ s.sch.Settled ∧ v.clock < 103687320 ∧
      (s.sch.tuners.get .A).state = .locked ∧ (s.sch.tuners.get .A).directive.mux = some b.mux ∧
      (s.sch.tuners.get .A).captures.length < 4 ∧ b.start - 60 * b.pre ≤ v.clock ∧ b.follow = false ∧
      c.armed v = some (.stop, 103687320) := by decide

theorem witness_StartAndGraceBeginTheCapture_grace :
    let b := fb0 .preparing (.tuner .A)
    let s := trig (onA b []) .grace 103684500
    let v := (s.countTo (103684500 * 4096000)).base
    let c := { b with state := .recording, segs := [seg v.clock none] }
    s.sch.trigger 0 = some ⟨0, .grace, 103684500⟩ ∧ s.sch.bk 0 = some b ∧ s.sch.Settled ∧
      min (b.start + 60 * v.cfg.grace) (b.finish - 60) ≤ v.clock ∧ b.running ≠ some .paused ∧
      c.armed v = some (.stop, 103687320) := by decide

theorem witness_StartAndGraceBeginTheCapture_waits :
    let b := bk0 .preparing (.tuner .A)
    let s := put (trig (onA b []) .start 103683540) fun x =>
      { x with tuners := x.tuners.set .A { (x.tuners.get .A) with state := .tuning } }
    s.sch.trigger 0 = some ⟨0, .start, 103683540⟩ ∧ s.sch.bk 0 = some b ∧ s.sch.Settled ∧
      (s.sch.tuners.get .A).state ≠ .locked ∧
      b.armed (s.countTo (103683540 * 4096000)).base = some (.stop, 103687320) := by decide

theorem witness_StopAndOverrunEndTheBooking :
    let b := bk0 .waiting .absent
    let c := { fb0 .waiting .absent with running := some .running }
    let s := trig (one b) .stop 103687320
    let t := trig (one c) .stop 103687320
    s.sch.trigger 0 = some ⟨0, .stop, 103687320⟩ ∧ s.sch.bk 0 = some b ∧ b.state ≠ .ended ∧
      (trig (one b) .overrun 103687320).sch.trigger 0 = some ⟨0, .overrun, 103687320⟩ ∧ t.sch.bk 0 = some c ∧
      t.sch.Settled ∧ c.armed (t.countTo (103687320 * 4096000)).base = some (.overrun, 103690800) := by decide

/-! ## Witnesses: station life -/

/-- A station state. -/
def life (st : StationState) (s : State) : State := on s fun v => { v with station := st }

theorem witness_Configure :
    let b := { bk0 .planned (.tuner .A) with cls := .hosted, id := ⟨1, 1⟩ }
    s0.Takes ∧ s0.base.station = .detached ∧ s0.sch.bookings = [] ∧ s0.sch.Bare ∧ s0.sch.Settled ∧
      c0.fitted = s0.base.cfg.fitted ∧ c0.clash.length = 16 ∧ (∀ n ∈ c0.clash, n = 0 ∨ n = 1) ∧
      (life .joining s0).base.station = .joining ∧ b ∈ (one b).sch.bookings ∧ b.cls = .hosted ∧
      b.id.origin = c0.station := by decide

/-- Records with one setting just outside its range. -/
def outside : List ConfigFields :=
  [{ c0 with station := 0 }, { c0 with station := 9 }, { c0 with fitted := 0 }, { c0 with fitted := 3 },
    { c0 with rollPeriod := 1 }, { c0 with rollPeriod := 31 }, { c0 with window := 7 }, { c0 with debounce := 2 },
    { c0 with skew := 1 }, { c0 with skew := 61 }, { c0 with clash := [] }, { c0 with clash := List.replicate 16 2 },
    { c0 with livePolicy := 2 }, { c0 with depth := 4 }, { c0 with bidWindow := 249 }, { c0 with bidWindow := 4001 },
    { c0 with takeTimeout := 499 }, { c0 with takeTimeout := 4001 }, { c0 with seekLimit := 0 },
    { c0 with seekLimit := 6 }, { c0 with tuneLead := 9 }, { c0 with tuneLead := 121 }, { c0 with tuneTimeout := 1 },
    { c0 with tuneTimeout := 31 }, { c0 with recheck := 29 }, { c0 with recheck := 601 }, { c0 with grace := 61 },
    { c0 with overrun := 181 }]

theorem test_configure_outsideItsRanges :
    outside.all (fun c => s0.configureRefusal c == some Code.badValue) = true := by decide

theorem witness_Join :
    s0.Takes ∧ s0.base.station = .detached ∧ s0.sch.txq = [] ∧ s0.sch.Room 1 ∧
      (life .isolated s0).base.station ≠ .detached := by decide

/-- A station JOINING with its timers running. -/
def joining : State :=
  on s0 fun v => { v with station := .joining, rollTimer := some (v.now + 5), joinTimer := some (v.now + 15) }

theorem witness_JoinTimer :
    joining.resetLow = false ∧ joining.base.station = .joining ∧ joining.base.joinTimer = some (s0.base.now + 15) ∧
      joining.sch.txq = [] ∧ joining.sch.unplaced = [] ∧ joining.sch.Settled ∧ joining.sch.Room 1 ∧
      s0.base.station ≠ .joining := by decide

theorem witness_Leave :
    let s := life .joined s0
    s.Takes ∧ s.base.station = .joined ∧ s.sch.bookings = [] ∧ s.sch.seekQueue = [] ∧ s.sch.txq = [] ∧ s.sch.Bare ∧
      s.sch.Settled ∧ s.sch.Room 1 ∧ joining.base.station = .joining ∧ s0.base.station = .detached := by decide

/-- A station LEAVING with its leave timer running. -/
def leaving : State := on s0 fun v => { v with station := .leaving, leaveTimer := some (v.now + 10 * 4096000) }

theorem witness_LeaveTimer :
    leaving.resetLow = false ∧ leaving.base.leaveTimer = some (s0.base.now + 10 * 4096000) ∧
      leaving.base.station = .leaving ∧ leaving.sch.bookings = [] ∧ leaving.sch.seekQueue = [] ∧
      leaving.sch.tallies = [] ∧ leaving.sch.Bare ∧ leaving.sch.Settled ∧ leaving.sch.Room 1 := by decide

theorem witness_Restart :
    let s := on s0 fun v => { v with incarnation := 255 }
    s.Takes ∧ s.base.station = .detached ∧ s.base.cfg.fitted = 2 ∧ s.sch.bookings = [] ∧ s.sch.Bare ∧
      s.sch.budget = 2 ∧ s.sch.tuners.a.marks = ⟨false, false, false⟩ ∧ s.sch.tuners.b.marks = ⟨false, false, false⟩ ∧
      (life .joined s0).base.station = .joined := by decide

/-! ## Witnesses: the link and presence -/

/-- A TAKE of station 2's booking and a ROLL, as composed for the queue. -/
def qTake : QMsg := ⟨0, 1, 8, .take ⟨2, 1⟩ 1, none, false⟩
def qRoll : QMsg := ⟨0, 1, 31, .roll ⟨0, 0, ⟨false, false, false, false⟩, 5, 0, 1200, 2, []⟩, none, false⟩
def qBid (u : Nat) : QMsg := ⟨0, 1, 8, .bid ⟨⟨2, 40⟩, 1, 0, 0, 31⟩, some u, false⟩

/-- A station with messages that wait, JOINED. -/
def queued (l : List QMsg) : State := put (on (life .joined s0) fun v => { v with idleBits := 10 }) fun x => { x with txq := l }

/-- The same with the first of them in an attempt. -/
def inAttempt (q : QMsg) (l : List QMsg) : State :=
  put (queued ({ q with att := true } :: l)) fun x => { x with attempt := some [true] }

theorem witness_Restart_stands :
    let b := bk0 .lent (.lent 2)
    let c := bk0 .covered (.covered 2)
    let s := one b
    s.Takes ∧ s.sch.bookings = [b] ∧ s.base.station ≠ .leaving ∧ s.base.station ≠ .isolated ∧ s.sch.Bare ∧
      b.armed s.base = some (.overrun, 103691220) ∧ s.base.clock < 103691220 ∧ (one c).sch.bookings = [c] ∧
      c.armed s.base = some (.stop, 103687320) := by decide

theorem witness_Restart_seeks :
    let b := bk0 .seeking .absent
    let s := put (one b) fun x => { x with budget := 0 }
    let c := { b with state := .waiting, plan := .absent, confirm := none, peerLost := false }
    s.Takes ∧ s.sch.bookings = [b] ∧ s.base.cfg.fitted = 2 ∧ s.sch.budget = 0 ∧ s.sch.Bare ∧
      c.armed s.base = some (.stop, 103687320) ∧ s.base.clock < 103687320 := by decide

theorem witness_Restart_prepares :
    let s := onA rb [⟨7, 0⟩]
    let c := { rb with state := .preparing, segs := closeOpen s.base.clock rb.segs }
    s.Takes ∧ s.sch.bookings = [rb] ∧ rb.plan = .tuner .A ∧ s.base.clock < rb.closeTime s.base ∧ s.base.cfg.fitted = 2 ∧
      s.sch.budget = 2 ∧ s.sch.tuners.a.marks.fitted = false ∧ s.sch.tuners.b.marks.fitted = false ∧
      s.sch.plans.get .A = [⟨0, false⟩] ∧ s.sch.plans.get .B = [] ∧ s.sch.stacked = ⟨[], []⟩ ∧
      c.armed s.base = some (.start, 103683540) ∧ s.base.clock < 103683540 := by decide

theorem witness_TurnBitsAreRemoved_turnFault :
    true :: [false, false, false, false, false, true] = [true] ++ List.replicate 5 false ++ [true] := by decide

theorem witness_CountedFrames :
    s0.resetLow = false ∧ s0.sch.attempt = none ∧ Instr.badFrameReceived .crc = .badFrameReceived .crc ∧
      (1 : Nat) ≠ s0.base.cfg.household := by decide

theorem witness_CountedFrames_faultBegins :
    let v := { s0.base with window := [false, true, false] }
    v.rxFault = false ∧ (v.countFrame false).rxFault = true := by decide

theorem witness_CountedFrames_faultEnds :
    let v := { s0.base with window := List.replicate 16 true, goodRun := 15, rxFault := true }
    (v.countFrame true).rxFault = false := by decide

theorem witness_AttemptsBeginAndAreSent_none :
    s0.resetLow = false ∧ s0.sch.txq = [] ∧ (inAttempt qTake []).sch.attempt ≠ none := by decide

theorem witness_AttemptsBeginAndAreSent_begins :
    let s := queued [qRoll, qTake, qTake]
    s.sch.attempt = none ∧ s.base.idleBits = 10 ∧ s.sch.txq = [qRoll] ++ qTake :: [qTake] ∧
      (∀ x ∈ [qRoll], qTake.msg.cls < x.msg.cls ∨ (qTake.msg.cls = x.msg.cls ∧ qTake.rank < x.rank)) ∧
      (∀ x ∈ [qTake], qTake.msg.cls < x.msg.cls ∨ (qTake.msg.cls = x.msg.cls ∧ qTake.rank ≤ x.rank)) := by decide

theorem witness_AttemptsBeginAndAreSent_sent :
    let s := inAttempt qRoll [qTake]
    s.sch.attempt = some [true] ∧ s.sch.txq = [] ++ { qRoll with att := true } :: [qTake] ∧
      (∀ x ∈ [] ++ [qTake], x.att = false) ∧ s.base.station ≠ .leaving ∧ s.sch.engine = .idle := by decide

/-- An engine that waits for its message to be sent. -/
def engaged (e : Engine) (m : Msg) (b : Booking) : State :=
  put (inAttempt ⟨0, 1, 8, m, none, false⟩ []) fun x => { x with engine := e, bookings := [b] }

/-- The SEEK and the AWARD of booking 0. -/
def sk : SeekFields := ⟨176, ⟨1, 1⟩, 1, 7, 9, 0, 1499, 1562, 1, 2, 8, 0, 1000⟩
def aw : AwardFields := ⟨⟨1, 1⟩, 1, 2, 0⟩

theorem witness_AttemptsBeginAndAreSent_seek :
    let b := { bk0 .seeking .absent with attempts := 1 }
    let s := engaged (.collecting 0 none []) (.seek sk) b
    s.sch.txq = [⟨0, 1, 8, .seek sk, none, true⟩] ∧ s.sch.waitingRoll = none ∧ s.sch.bk 0 = some b ∧ b.id = sk.id ∧
      b.attempts = sk.number := by decide

theorem witness_AttemptsBeginAndAreSent_award :
    let b := { bk0 .seeking .absent with attempts := 1 }
    let s := engaged (.awaiting 0 2 none []) (.award aw) b
    s.sch.txq = [⟨0, 1, 8, .award aw, none, true⟩] ∧ s.sch.bk 0 = some b ∧ b.id = aw.id ∧ b.attempts = aw.number ∧
      2 = aw.awardee := by decide

/-- A TALLY that is offered, and its record. -/
def tf : TallyFields := ⟨⟨2, 1⟩, BOutcome.missed.code, Reason.noTuner.code, 176, []⟩
def tr : TallyRec := ⟨⟨2, 1⟩, .missed, .noTuner, 8, [], true, 4⟩

theorem witness_AttemptsBeginAndAreSent_tally :
    let s := put (inAttempt ⟨0, 1, 8, .tally tf 4, none, false⟩ []) fun x => { x with tallies := [tr] }
    s.sch.attempt = some [true] ∧ s.sch.txq = [⟨0, 1, 8, .tally tf 4, none, true⟩] ∧ s.sch.tallies = [tr] ∧
      tr.record = 4 := by decide

theorem witness_AttemptsFailAndBidsGo :
    let s := inAttempt qTake [qTake]
    let t := inAttempt (qBid 0) []
    s.sch.attempt = some [true] ∧ s.sch.txq = [] ++ { qTake with att := true } :: [qTake] ∧
      (∀ x ∈ [] ++ [qTake], x.att = false) ∧ s.base.station ≠ .leaving ∧ s.sch.waitingRoll = none ∧
      s0.sch.attempt = none ∧ t.sch.txq = [] ++ { qBid 0 with att := true } :: [] ∧ 0 ≤ t.base.now ∧
      (put s fun x => { x with waitingRoll := some qRoll }).sch.waitingRoll = some qRoll := by decide

theorem witness_AttemptsFailAndBidsGo_bid :
    let q := qBid (s0.base.now + 5)
    let s := queued [qTake, q, qBid (s0.base.now + 500)]
    let v := (s.countTo (s0.base.now + 5)).base
    s.resetLow = false ∧ s.base.station ≠ .leaving ∧ s.sch.txq = [qTake] ++ q :: [qBid (s0.base.now + 500)] ∧
      q.att = false ∧ s0.base.now + 5 ≤ v.now ∧ s0.base.now + 5 ≤ s0.base.now + 500 ∧ v.now < s0.base.now + 500 := by decide

theorem witness_AttemptsFailAndBidsGo_noBid : (queued [qTake]).sch.txq = [qTake] ∧ qTake.msg.bidId = none := by decide

theorem witness_RollSequence :
    let s := queued [qRoll]
    let t := inAttempt qRoll [qTake]
    s.resetLow = false ∧ s.sch.attempt = none ∧ s.sch.txq = [] ++ qRoll :: [] ∧ t.sch.attempt = some [true] ∧
      t.sch.txq = [] ++ { qRoll with att := true } :: [qTake] ∧
      (Peer.absentOf 2 (some 4)).incarnation ≠ some r0.incarnation := by decide

theorem witness_RollTimerExpiry :
    let s := on (queued [qTake]) fun v => { v with rollTimer := some (v.now + 5) }
    s.resetLow = false ∧ s.base.rollTimer = some (s0.base.now + 5) ∧ s.base.station = .joined ∧ s.sch.txq.length < 12 ∧
      (∀ q ∈ s.sch.txq, q.msg.isRoll = false) ∧ s.sch.tallies = [] := by decide

/-- A peer that is PRESENT. -/
def peer2 (miss : Nat) (h : List Interval) : Peer :=
  { Peer.absentOf 2 (some 0) with
    presence := .present, lastSeq := some 4, period := some 5, day := some 1200, history := h, good := 3, missing := miss
    deadline := some (s0.base.now + 5) }

/-- The station, JOINED, with one peer in its table. -/
def peered (p : Peer) : State := on (life .joined s0) fun v => { v with peers := [p] }

theorem witness_IntervalResults :
    [(peer2 0 [.good, .faulty]).settled 8 .faulty, (peer2 2 []).settled 8 .missing, (peer2 0 []).settled 8 .good].map
      Peer.presence = [.suspect, .absent, .present] := by decide

theorem witness_DeadlinesOfPeers_interval :
    let p := peer2 2 [.missing, .missing]
    let s := peered p
    let v := (s.countTo (s0.base.now + 5)).base
    s.resetLow = false ∧ s.base.peer 2 = some p ∧ p.deadline = some (s0.base.now + 5) ∧ s.sch.Settled ∧
      (({ p with deadline := some 0 } : Peer).settled v.cfg.window .missing).presence = .absent ∧
      (({ peer2 0 [] with deadline := some 0 } : Peer).settled v.cfg.window .missing).presence ≠ .absent ∧
      p.presence ≠ .absent ∧ s.sch.bookings = [] ∧ s.sch.engine = .idle ∧ s.sch.Room 1 := by decide

theorem witness_DeadlinesOfPeers_confirm :
    let b := { bk0 .lent (.lent 2) with confirm := some (103683511 * 4096000) }
    let s := one b
    let t := put (peered (peer2 0 [])) fun x => { x with bookings := [b] }
    s.sch.bk 0 = some b ∧ b.plan = .lent 2 ∧ s.sch.Settled ∧
      (s.countTo (103683511 * 4096000)).base.isPresent 2 = false ∧
      b.start - 60 * b.pre - s.base.cfg.tuneLead ≤ (s.countTo (103683511 * 4096000)).base.clock ∧
      (s.countTo (103683511 * 4096000)).base.clock < b.finish + 60 * b.post + 60 * s.base.cfg.overrun ∧
      t.sch.bk 0 = some b ∧ (t.countTo (103683511 * 4096000)).base.isPresent 2 = true := by decide

theorem witness_RollArrival_peer :
    let s := peered (peer2 0 [])
    rollAdmitted r0 = true ∧ s.sch.Settled ∧ s.Hears h2 ∧ s.base.peer h2.sender = some (peer2 0 []) ∧
      r0.flags / 4 % 2 = 0 ∧ (peer2 0 []).incarnation = some r0.incarnation ∧
      r0.sequence = ((peer2 0 []).lastSeq.getD 0 + 1) % 256 ∧ r0.clock = s.base.clock ∧ (peer2 0 []).eligible = true ∧
      (peered (Peer.absentOf 2 none)).base.peer h2.sender = some (Peer.absentOf 2 none) := by decide

theorem witness_RollArrival_own :
    let s := life .joined s0
    let h : FrameHead := ⟨0, 31, 1⟩
    s.resetLow = false ∧ h.household = s.base.cfg.household ∧ h.sender = s.base.cfg.station ∧ s.sch.attempt = none ∧
      s.base.rxFault = false ∧ s.sch.bookings = [] ∧ s.sch.seekQueue = [] ∧ s.sch.tallies = [] ∧ s.sch.Bare ∧
      s.sch.Room 1 := by decide

/-! ## Witnesses: the household -/

/-- Station 2 PRESENT to a JOINED station. -/
def hears : State := peered (peer2 0 [])

/-- A booking that SEEKs, its engine in a state, alone in the seek queue. -/
def seeks (e : Engine) (ready : Option Nat) (b : Booking) : State :=
  put hears fun x => { x with bookings := [b], engine := e, seekQueue := [⟨0, ready⟩] }

/-- Booking 0 on its first attempt. -/
def sb : Booking := { bk0 .seeking .absent with attempts := 1 }

theorem witness_BidArrival :
    let s := seeks (.collecting 0 (some (s0.base.now + 5)) []) none sb
    let f : BidFields := ⟨⟨1, 1⟩, 1, 0, 0, 31⟩
    s.Hears h2 ∧ bidAdmitted h2 f = true ∧ f.id.origin = s.base.cfg.station ∧ s.sch.bk 0 = some sb ∧ sb.id = f.id ∧
      sb.attempts = f.number ∧ s.base.now ≤ s0.base.now + 5 ∧ s.base.isEligible h2.sender = true ∧
      bidAdmitted h2 ⟨⟨1, 1⟩, 2, 0, 0, 31⟩ = true := by decide

theorem witness_TakeArrival :
    let s := seeks (.awaiting 0 2 none []) none sb
    s.Hears h2 ∧ takeAdmitted h2 sb.id 1 = true ∧ sb.id.origin = s.base.cfg.station ∧ s.sch.Settled ∧
      s.sch.bk 0 = some sb ∧ sb.state = .seeking ∧ s.sch.seekQueue = [⟨0, none⟩] ∧ 1 = sb.attempts ∧
      s.base.clock < sb.finish + 60 * sb.post + 60 * s.base.cfg.overrun + 300 ∧ takeAdmitted h2 sb.id 2 = true := by decide

theorem witness_TheEngineMovesOn_window :
    let x : Bid := ⟨2, 0, 0, 31⟩
    let s := seeks (.collecting 0 (some (s0.base.now + 5)) [x]) none sb
    s.base.station = .joined ∧ s.sch.Settled ∧ s.sch.txq.length < 11 ∧ s.sch.bk 0 = some sb ∧
      (s.countTo (s0.base.now + 5)).base.isEligible x.station = true ∧ (∀ y ∈ [x], y = x) := by decide

theorem witness_TheEngineMovesOn_take :
    let x : Bid := ⟨2, 0, 0, 31⟩
    let s := seeks (.awaiting 0 3 (some (s0.base.now + 5)) [⟨3, 0, 0, 31⟩, x]) none sb
    s.sch.bk 0 = some sb ∧ x ∈ ([⟨3, 0, 0, 31⟩, x] : List Bid).filter (fun y => y.station != 3) ∧
      (s.countTo (s0.base.now + 5)).base.isEligible x.station = true := by decide

/-- The peer table of a station with two peers. -/
def hears3 : State := on hears fun v => { v with peers := [peer2 0 [], { peer2 0 [] with station := 3 }] }

theorem witness_TheEngineMovesOn_decline :
    let x : Bid := ⟨3, 0, 0, 31⟩
    let s := put hears3 fun y => { y with bookings := [sb], engine := .awaiting 0 2 none [⟨2, 0, 0, 31⟩, x] }
    s.Hears h2 ∧ takeAdmitted h2 sb.id sb.attempts = true ∧ sb.id.origin = s.base.cfg.station ∧
      x ∈ ([⟨2, 0, 0, 31⟩, x] : List Bid).filter (fun y => y.station != h2.sender) ∧
      s.base.heard.isEligible x.station = true := by decide

theorem witness_TheEngineMovesOn_noBid :
    let s := seeks (.collecting 0 (some (s0.base.now + 5)) []) none sb
    let t := seeks (.awaiting 0 3 (some (s0.base.now + 5)) [⟨3, 0, 0, 31⟩]) none sb
    let u := seeks (.awaiting 0 2 none [⟨2, 0, 0, 31⟩]) none sb
    let v := (s.countTo (s0.base.now + 5)).base
    s.resetLow = false ∧ s.base.station = .joined ∧ s.sch.Settled ∧ s.sch.txq.length < 12 ∧ s.sch.bk 0 = some sb ∧
      sb.state = .seeking ∧ s.sch.seekQueue = [⟨0, none⟩] ∧ sb.attempts < s.base.cfg.seekLimit ∧
      v.now < v.now + (10 * sb.attempts + v.cfg.station) * 4096000 ∧
      ([⟨3, 0, 0, 31⟩] : List Bid).filter (fun y => y.station != 3) = [] ∧ t.sch.bk 0 = some sb ∧ u.Hears h2 ∧
      takeAdmitted h2 sb.id sb.attempts = true ∧ sb.id.origin = u.base.cfg.station := by decide

theorem witness_TheEngineMovesOn_atTheLimit :
    let b := { sb with attempts := 3 }
    let s := put (seeks (.collecting 0 (some (s0.base.now + 5)) []) none b) fun x => { x with tuners := ⟨dead, dead⟩ }
    let v := (s.countTo (s0.base.now + 5)).base
    let c := { b with state := .waiting, plan := .absent, confirm := none, peerLost := false }
    s.base.cfg.seekLimit ≤ b.attempts ∧ s.sch.Settled ∧ s.sch.bk 0 = some b ∧ s.sch.Bare ∧ s.sch.Room 1 ∧
      s.sch.usable .A = false ∧ s.sch.usable .B = false ∧ b.cls ≠ .hosted ∧ c.armed v = some (.stop, 103687320) ∧
      v.clock < 103687320 := by decide

theorem witness_SeekReadyTime :
    let b := bk0 .seeking .absent
    let p := { peer2 0 [] with view := some ⟨1, [⟨0, none, none, 31⟩]⟩ }
    let s := on (seeks .idle (some (s0.base.now + 5)) b) fun v => { v with peers := [p] }
    let v := (s.countTo (s0.base.now + 5)).base
    s.resetLow = false ∧ s.sch.Settled ∧ s.sch.seekQueue = [⟨0, some (s0.base.now + 5)⟩] ∧ s.sch.bk 0 = some b ∧
      s.base.station = .joined ∧ s.sch.txq.length < 12 ∧ b.cls ≠ .hosted ∧ s0.base.now + 5 ≤ v.now ∧
      v.maySeek b = true := by decide

theorem witness_SeekArrival :
    let s := hears
    let d : SeekDetails := ⟨7, 9, none, 103683540, 103687320, 1, 2, 8, false⟩
    s.Hears h2 ∧ seekAdmitted h2 k0 = true ∧ s.sch.Settled ∧ s.base.resolveDay h2.sender k0.tag = some 1200 ∧
      s.sch.bookings = [] ∧ s.sch.holds ++ s.sch.lapsed = [] ∧ (1200 - 1) * 86400 + 60 * k0.spanStart = d.spanStart ∧
      s.base.timed = true ∧ s.base.heard.isEligible h2.sender = true ∧ s.sch.hostedInUse < 16 ∧ s.sch.holds.length < 4 ∧
      s.sch.txq.length < 12 ∧ (s.sch.trial s.base.heard none k0.id d).isSome = true := by decide

theorem witness_SeekArrival_unanswered :
    (on hears fun v => { v with timed := false }).base.timed = false ∧
      (put hears fun x => { x with tuners := (unusable (bk0 .waiting .absent)).sch.tuners }).sch.trial hears.base.heard none
        k0.id ⟨7, 9, none, 103683540, 103687320, 1, 2, 8, false⟩ = none := by decide

/-- An AWARD to this station, the hold that it names, and the hosted entry that it makes. -/
def aw1 : AwardFields := ⟨⟨2, 40⟩, 1, 1, 0⟩
def hold1 : Hold := ⟨⟨2, 40⟩, 1, ⟨7, 9, none, 103683540, 103687320, 1, 2, 8, false⟩, .A, 3, 4⟩
def hb (st : BState) : Booking := { bk0 st (.tuner .A) with cls := .hosted, id := ⟨2, 40⟩ }

theorem witness_AwardArrival_answered :
    let s := put hears fun x => { x with bookings := [hb .planned] }
    let t := put hears fun x => { x with bookings := [hb .ended] }
    s.Hears h2 ∧ awardAdmitted h2 aw1 = true ∧ aw1.awardee = s.base.cfg.station ∧ s.sch.Settled ∧
      s.sch.txq.length < 12 ∧ (∃ b ∈ s.sch.bookings, b.cls = .hosted ∧ b.id = aw1.id ∧ b.state ≠ .ended) ∧
      ¬(∃ b ∈ t.sch.bookings, b.cls = .hosted ∧ b.id = aw1.id ∧ b.state ≠ .ended) ∧
      (∃ b ∈ t.sch.bookings, b.id = aw1.id) ∧ ¬(∃ b ∈ hears.sch.bookings, b.id = aw1.id) ∧ hears.base.timed = true ∧
      (hears.sch.holds ++ hears.sch.lapsed).find? (fun x => x.id == aw1.id && x.number == aw1.number) = none := by decide

/-- HOSTED entries of other SEEKs. -/
def hosted16 : List Booking := (List.range 16).map fun n => { hb .planned with handle := n, id := ⟨3, n⟩ }

theorem witness_AwardArrival_declined :
    let s := put hears fun x => { x with holds := [hold1], bookings := hosted16 }
    let t := put hears fun x => { x with holds := [hold1], tuners := ⟨dead, dead⟩ }
    s.Hears h2 ∧ awardAdmitted h2 aw1 = true ∧ aw1.awardee = s.base.cfg.station ∧ s.sch.Settled ∧
      s.sch.txq.length < 12 ∧ s.base.timed = true ∧ (∀ b ∈ s.sch.bookings, b.id ≠ aw1.id) ∧
      (s.sch.holds ++ s.sch.lapsed).find? (fun x => x.id == aw1.id && x.number == aw1.number) = some hold1 ∧
      16 ≤ (s.sch.bookings.filter fun b => b.cls == .hosted).length ∧ t.sch.Settled ∧ t.sch.bookings = [] ∧
      ({ t.sch with holds := [], lapsed := [] } : Sched).trial t.base.heard (some .A) aw1.id hold1.details = none := by
  decide

theorem hears_inv : (put hears fun x => { x with holds := [hold1] }).Inv :=
  inv_of _ (by decide) (by decide) (by decide) (by decide) (by decide)

theorem witness_AwardArrival_taken :
    let s := put hears fun x => { x with holds := [hold1] }
    s.Hears h2 ∧ awardAdmitted h2 aw1 = true ∧ aw1.awardee = s.base.cfg.station ∧ s.sch.Settled ∧ s.sch.Bare ∧
      s.sch.txq.length < 12 ∧ s.base.timed = true ∧ s.sch.bookings = [] ∧ s.sch.hostedInUse < 16 ∧
      s.sch.holds = [hold1] ∧ s.sch.lapsed = [] ∧ hold1.id = aw1.id ∧ hold1.number = aw1.number ∧
      aw1.tuner = Tuner.A.index ∧ s.sch.usable .A = true ∧ s.sch.tuners.a.live = none ∧ s.sch.tuners.b.live = none ∧
      s.base.clock < hold1.details.spanStart - s.base.cfg.tuneLead := by decide

theorem witness_HostedBookingsHoldsAndMarksEnd :
    let s := put hears fun x => { x with bookings := [hb .planned], holds := [hold1], lapsed := [hold1] }
    let m : MarkHeard := ⟨500, 80, 2, 8, false, 103600000⟩
    s.Hears h2 ∧ withdrawAdmitted h2 ⟨2, 40⟩ 1 = true ∧ 1 = s.base.cfg.station ∧ s.sch.Settled ∧
      (∀ b ∈ hears.sch.bookings, b.id ≠ ⟨2, 40⟩) ∧ s.sch.bookings.filter (Booking.hosts ⟨2, 40⟩) = [hb .planned] ∧
      s.sch.bk (hb .planned).handle = some (hb .planned) ∧ s.sch.tallies.length < 8 ∧ s.sch.holds = [hold1] ∧
      s.sch.lapsed = [hold1] ∧ (put hears fun x => { x with marks := [m] }).sch.marks = [m] := by decide

theorem witness_StopAndOverrunEndTheBooking_hosted :
    let s := put (trig hears .stop 103687320) fun x => { x with bookings := [hb .waiting] }
    let v := (s.countTo (103687320 * 4096000)).base
    s.sch.trigger 0 = some ⟨0, .stop, 103687320⟩ ∧ s.sch.bk 0 = some (hb .waiting) ∧ (hb .waiting).cls = .hosted ∧
      s.sch.tallies.length < 8 ∧ s.sch.AtRest ∧ v.isPresent 2 = true ∧ v.station = .joined ∧ s.sch.txq.length < 12 := by
  decide

theorem witness_HostedBookingsHoldsAndMarksEnd_tallied :
    let s := put hears fun x => { x with bookings := [hb .planned] }
    s.sch.AtRest ∧ s.sch.tallies.length < 8 ∧ s.sch.bookings.filter (Booking.hosts ⟨2, 40⟩) = [hb .planned] := by decide

/-- A RETURN and a TALLY of booking 0, which is LENT to station 2. -/
def rf (l : List (Nat × Nat)) : ReturnFields := ⟨⟨1, 1⟩, 0, 176, l⟩
def tf1 (l : List (Nat × Nat)) : TallyFields := ⟨⟨1, 1⟩, BOutcome.complete.code, Reason.none.code, 176, l⟩

/-- The station with that booking and no usable tuner. -/
def lent (b : Booking) : State :=
  put hears fun x => { x with bookings := [b], tuners := (unusable (bk0 .waiting .absent)).sch.tuners }

theorem witness_ReturnAndTallyArrivals_return :
    let b := bk0 .lent (.lent 2)
    let s := lent b
    let c := { b with segs := [], state := .waiting, plan := .absent, confirm := none, peerLost := false, attempts := 0 }
    s.Hears h2 ∧ returnAdmitted h2 (rf []) = true ∧ (rf []).id.origin = s.base.cfg.station ∧ s.sch.Settled ∧
      s.base.resolveDay h2.sender (rf []).tag = some 1200 ∧ s.sch.lentWith (rf []).id h2.sender = some b ∧
      s.sch.bk b.handle = some b ∧ b.cls ≠ .hosted ∧ s.sch.Bare ∧ s.sch.usable .A = false ∧ s.sch.usable .B = false ∧
      s.sch.Room 1 ∧ 1 ≤ s.base.cfg.seekLimit ∧ c.armed s.base.heard = some (.stop, 103687320) ∧
      s.base.heard.clock < 103687320 := by decide

theorem witness_ReturnAndTallyArrivals_tally :
    let b := bk0 .lent (.lent 2)
    let s := lent b
    s.Hears h2 ∧ tallyAdmitted h2 (tf1 [(1500, 1560)]) = true ∧ s.sch.Settled ∧
      s.base.resolveDay h2.sender 176 = some 1200 ∧ s.sch.lentWith ⟨1, 1⟩ h2.sender = some b ∧
      s.sch.bk b.handle = some b ∧ BOutcome.code .complete = (tf1 []).outcome ∧ Reason.code .none = (tf1 []).reason ∧
      (∀ c ∈ hears.sch.bookings, c.id ≠ ⟨1, 1⟩) := by decide

/-- A MARK of station 2 for the episode of booking 0. -/
def mf : MarkFields := ⟨176, 500, 80, 7, 0, 1500⟩

theorem witness_MarkArrival :
    let b := eb0 .waiting .absent
    let s := put hears fun x => { x with bookings := [b], links := [lk], unplaced := [0] }
    s.Hears h2 ∧ markAdmitted mf = true ∧ s.sch.Settled ∧ s.base.resolveDay h2.sender mf.tag = some 1200 ∧
      s.sch.bookings = [b] ∧ s.sch.links = [lk] ∧ b.episode = some mf.episode ∧ b.link = some lk.id ∧
      lk.series = mf.series ∧ b.plan = .absent ∧ b.segs = [] ∧ s.sch.seekQueue = [] ∧ s.sch.engine = .idle ∧
      s.sch.unplaced = [b.handle] ∧ s.base.isPresent h2.sender = true ∧ mf.rank < 2 + 2 * b.priority ∧
      s.base.clock < b.finish + 60 * b.post ∧ hears.sch.bookings = [] := by decide

/-- The booking of the episode in a state, before a station that hears stations 2 and 3. -/
def marked (b : Booking) (l : List MarkHeard) : State :=
  put (on hears fun v => { v with peers := [peer2 0 [], { peer2 0 [] with station := 3 }] }) fun x =>
    { x with bookings := [b], links := [lk], marks := l }

/-- A mark heard of an episode of the series, from a station, of a rank. -/
def heardOf (episode station rank : Nat) : MarkHeard := ⟨500, episode, station, rank, false, 103683600⟩

theorem witness_MarkArrival_answered :
    let s := marked (eb0 .waiting .absent) []
    ¬({ mf with rank := 8 }.rank < 8 ∨ h2.sender < s.base.cfg.station) ∧ markAdmitted { mf with rank := 8 } = true ∧
      s.sch.Settled ∧ s.base.isPresent h2.sender = true ∧ s.sch.txq.length < 12 ∧
      (peered { peer2 0 [] with presence := .hearing }).base.isPresent h2.sender = false := by decide

theorem witness_MarkArrival_stays :
    let b := { eb0 .waiting .absent with segs := [seg 103679000 (some 103679060)] }
    let c := eb0 .lent (.lent 4)
    let s := on (marked c []) fun v => { v with clock := 103683510 }
    b.segs.isEmpty = false ∧ markAdmitted { mf with rank := 6, started := 1 } = true ∧ 6 < 2 + 2 * b.priority ∧
      (marked b []).sch.Settled ∧ c.start - 60 * c.pre - s.base.cfg.tuneLead ≤ s.base.clock ∧ s.sch.Settled ∧
      mf.rank < 2 + 2 * c.priority := by decide

theorem witness_MarkArrival_repoints :
    let b := eb0 .covered (.covered 3)
    let s := marked b [heardOf 80 3 7]
    mf.rank < 2 + 2 * b.priority ∧ s.base.isPresent 3 = true ∧ mf.rank = (heardOf 80 3 7).rank ∧ h2.sender < 3 ∧
      s.base.clock < b.finish + 60 * b.post ∧ s.sch.Settled ∧ (marked b [heardOf 80 3 6]).sch.Settled ∧
      ¬(mf.rank < (heardOf 80 3 6).rank ∨ mf.rank = (heardOf 80 3 6).rank) := by decide

theorem witness_MarkArrival_lent :
    let b := eb0 .lent (.lent 4)
    let s := marked b []
    s.base.clock < b.start - 60 * b.pre - s.base.cfg.tuneLead ∧ s.sch.engine = .idle ∧ s.sch.stacked = ⟨[], []⟩ ∧
      (∀ c ∈ s.sch.tuners.a.captures ++ s.sch.tuners.b.captures, c.handle ≠ b.handle) ∧ b.segs = [] ∧
      s.sch.txq.length < 12 ∧ s.sch.Settled := by decide

/-- The AWARD of the episode's booking to station 4, waiting in the transmit queue. -/
def award4 : QMsg := ⟨0, 1, 8, .award ⟨⟨1, 1⟩, 1, 4, 0⟩, none, false⟩

theorem witness_MarkArrival_seeking :
    let b := { eb0 .seeking .absent with attempts := 1 }
    let s (e : Engine) (q : List QMsg) := put (marked b []) fun x => { x with engine := e, seekQueue := [⟨0, none⟩], txq := q }
    [s (.collecting 0 none []) [], s (.awaiting 0 4 none []) [award4], s (.awaiting 0 4 none []) []].all
        (fun s => decide (s.sch.Settled ∧ (∀ q ∈ s.sch.seekQueue, q.handle = b.handle) ∧ s.sch.txq.length < 12)) = true ∧
      award4.att = false ∧ award4.msg.isAwardOf b.id 4 = true ∧
      (put (marked b []) fun x => { x with seekQueue := [⟨0, none⟩] }).sch.engine = .idle := by decide

theorem witness_GuideEventMakesAnEpisode_offersItsMark :
    let s := put (linked hears) fun x => { x with marks := [heardOf 80 2 1, heardOf 81 2 8, heardOf 81 3 1] }
    s.Takes ∧ s.base.timed = true ∧ s.base.station = .joined ∧ g1.episode = some 81 ∧ s.base.isPresent 3 = false ∧
      s.base.isPresent 2 = true ∧ ¬(8 < 2 + 2 * lk.priority) ∧ ¬2 < s.base.cfg.station ∧ s.sch.txq.length < 12 ∧
      s.sch.Bare ∧ s.sch.Settled ∧ s.sch.usable .A = true ∧ s.sch.Room 2 := by decide

theorem witness_GuideEventMakesAnEpisode_covered :
    let s := marked (bk0 .waiting .absent) [heardOf 81 3 7, heardOf 81 2 7]
    let m := heardOf 81 2 7
    let finish := min ((g1.start + 60 * g1.duration + 59) / 60 * 60) (g1.start / 60 * 60 + 86400)
    s.Takes ∧ s.base.timed = true ∧ s.sch.links = [lk] ∧ m ∈ s.sch.marks ∧ m.series = lk.series ∧
      g1.episode = some m.episode ∧ s.base.isPresent m.station = true ∧ m.rank < 2 + 2 * lk.priority ∧
      (∀ x ∈ s.sch.marks, x ≠ m → m.rank = x.rank ∧ m.station < x.station) ∧ s.base.clock < finish ∧
      g1.start / 60 * 60 ≤ s.base.clock + 44640 * 60 ∧ s.sch.Settled ∧ s.sch.Room 2 ∧
      (∀ b ∈ s.sch.bookings, b.event ≠ some g1.event) := by decide

theorem witness_GuideEventMakesAnEpisode_inv :
    (linked s0).Inv ∧ (marked (bk0 .waiting .absent) [heardOf 81 3 7, heardOf 81 2 7]).Inv :=
  ⟨inv_of _ (by decide) (by decide) (by decide) (by decide) (by decide),
    inv_of _ (by decide) (by decide) (by decide) (by decide) (by decide)⟩

/-- A ROLL with LEAVING. -/
def leaves : RollFields := { r0 with flags := 4 }

/-- A tally record of a booking of station 2. -/
def tally2 : TallyRec := ⟨⟨2, 9⟩, .complete, .none, 8, [], false, 1⟩

theorem witness_RollArrival_leaving :
    let s (e : Engine) := put (seeks e none sb) fun x => { x with txq := [] }
    rollAdmitted leaves = true ∧ leaves.flags / 4 % 2 = 1 ∧ (peer2 0 []).presence ≠ .absent ∧
      [s .idle, s (.collecting 0 none [⟨2, 0, 0, 31⟩]), s (.awaiting 0 4 none [⟨2, 0, 0, 31⟩]),
        s (.awaiting 0 2 none [⟨2, 0, 0, 31⟩])].all
        (fun s => decide (s.Hears h2 ∧ s.sch.Settled ∧ s.sch.Room 1 ∧ s.sch.bookings = [sb] ∧ sb.state = .seeking ∧
          s.sch.bk 0 = some sb ∧ sb.attempts < s.base.cfg.seekLimit ∧ s.sch.seekQueue = [⟨0, none⟩])) = true := by decide

theorem witness_RollArrival_afterAbsence :
    let p := Peer.absentOf 2 (some 3)
    let s := put (peered p) fun x => { x with tallies := [tally2] }
    let b := { bk0 .lent (.lent 2) with peerLost := true }
    let t := put (peered p) fun x => { x with bookings := [b] }
    s.Hears h2 ∧ s.sch.Settled ∧ s.base.peer 2 = some p ∧ p.incarnation ≠ some 0 ∧ r0.incarnation = 0 ∧
      s.sch.bookings = [] ∧ s.sch.Room 1 ∧ t.Hears h2 ∧ t.sch.Settled ∧ b.cls ≠ .hosted ∧ t.sch.Bare ∧ t.sch.AtRest ∧
      t.sch.referrals = [] ∧ t.sch.tuners.a.captures ++ t.sch.tuners.b.captures = [] ∧ t.sch.tallies = [] ∧
      t.sch.Room 1 := by decide

theorem witness_RollArrival_moves :
    let v := hears.base.heard
    let p := { peer2 0 [] with presence := .hearing, good := 2 }
    (p.afterRoll v r0).presence = .present ∧ (p.afterRoll v { r0 with clock := 103680011 }).presence = .absent ∧
      (p.afterRoll v { r0 with clock := 103680010, incarnation := 7, sequence := 99 }).presence = .present ∧
      ((peer2 0 [.faulty]).afterRoll v { r0 with sequence := 6 }).presence = .suspect ∧ v.cfg.skew = 10 ∧
      (peered p).sch.bookings = [] ∧ (peered p).sch.tallies = [] ∧ (peered p).sch.unplaced = [] ∧
      (peered p).sch.Room 2 := by decide

theorem witness_RollArrival_restarts :
    let p := { peer2 0 [] with incarnation := some 3 }
    let s := put (peered p) fun x => { x with tallies := [tally2] }
    p.incarnation ≠ some r0.incarnation ∧ p.incarnation ≠ some 4 ∧ s.Hears h2 ∧ s.sch.Settled ∧
      (p.afterRoll s.base.heard r0).presence = p.presence ∧
      (p.afterRoll s.base.heard { r0 with incarnation := 4 }).presence = p.presence ∧ p.eligible = true ∧
      s.sch.bookings = [] ∧ s.sch.engine = .idle ∧ s.sch.Room 3 := by decide

/-! ## Witnesses: placement -/

/-- A booking to place beside booking 0, at the same time. -/
def wants (mux priority : Nat) : Booking :=
  { bk0 .waiting .absent with handle := 1, id := ⟨1, 2⟩, mux := mux, priority := priority, order := 2 }

theorem witness_BookPlansAFreeTuner_shares :
    let s := refers.sch
    let w : Want := ⟨103683510, 103687320, 9, 8, .manual⟩
    let meets := (s.occs refers.base .A).filter fun o => o.overlaps w
    (wants 9 3).want refers.base = some w ∧ s.usable .A = true ∧ meets.length = 1 ∧ (∀ o ∈ meets, o.mux = w.mux) ∧
      ∀ u, (meets.filter fun o => o.counts && o.standsAt u).length ≤ 3 :=
  ⟨rfl, by decide, by decide, by decide, fun u => Nat.le_trans (List.length_filter_le ..) (by decide)⟩

theorem witness_BookPlansAFreeTuner_free :
    let w : Want := ⟨103683510, 103687320, 9, 8, .manual⟩
    (wants 9 3).want s0.base = some w ∧ s0.sch.usable .A = true ∧
      ∀ k, (s0.sch.occs s0.base k).filter (fun o => o.overlaps w) = [] :=
  ⟨rfl, by decide, fun k => by cases k <;> rfl⟩

theorem witness_BookPlansAFreeTuner_displaces :
    let s := refers.sch
    let w : Want := ⟨103683510, 103687320, 10, 2, .manual⟩
    let others := ((s.occs refers.base .A).filter fun o => o.overlaps w).filter fun o => o.mux != w.mux
    (wants 10 0).want refers.base = some w ∧ s.usable .A = true ∧ s.usable .B = false ∧ others.length = 1 ∧
      (∀ o ∈ others, ∃ c, o.who = .booking c ∧ w.rank < o.rank ∧ o.rank = 7) ∧
      ((s.occs refers.base .A).filter fun o => o.overlaps w && o.mux == w.mux).length = 0 :=
  ⟨rfl, by decide, by decide, by decide, fun o h => ⟨bk0 .recording (.tuner .A), by
    have e : o = ⟨103683510, some 103687320, 9, 7, .booking (bk0 .recording (.tuner .A))⟩ := List.mem_singleton.1 h
    subst e
    exact ⟨rfl, by decide, rfl⟩⟩, by decide⟩

theorem witness_BookPlansAFreeTuner_noPlace :
    ((wants 9 3).want (unusable (bk0 .waiting .absent)).base).isSome = true ∧
      ∀ k, (unusable (bk0 .waiting .absent)).sch.usable k = false :=
  ⟨by decide, fun k => by cases k <;> rfl⟩

/-- The station with no usable tuner and a peer that can help. -/
def seekable : State :=
  put (on hears fun v => { v with peers := [{ peer2 0 [] with view := some ⟨1, [⟨0, none, none, 31⟩]⟩ }] }) fun x =>
    { x with tuners := ⟨dead, dead⟩ }

theorem witness_BookPlansAFreeTuner_seeks :
    seekable.Takes ∧ seekable.Inv ∧ seekable.sch.Bare ∧ seekable.sch.Settled ∧ seekable.sch.seekQueue = [] ∧
      seekable.sch.engine = .idle ∧ seekable.sch.txq.length < 12 ∧ seekable.sch.usable .A = false ∧
      seekable.sch.usable .B = false ∧ seekable.bookRefusal f0 = none ∧ 1 ≤ seekable.base.cfg.seekLimit ∧
      ∀ h i, seekable.base.maySeek { wants 9 3 with handle := h, id := i, state := .seeking } = true := by
  refine ⟨by decide, inv_of _ (by decide) (by decide) (by decide) (by decide) (by decide), by decide, by decide,
    by decide, by decide, by decide, by decide, by decide, by decide, by decide, fun h i => ?_⟩
  have e : seekable.base.maySeek { wants 9 3 with handle := h, id := i, state := .seeking } =
      seekable.base.maySeek { wants 9 3 with state := .seeking } := by
    simp only [Base.maySeek, Booking.hosted, Booking.spanStart, Booking.spanEnd, Booking.prepareTime,
      Booking.startTime]
    rfl
  exact e.trans (by decide)

/-- A BOOK on another multiplex, of the best priority. -/
def f1 : BookFields := { f0 with multiplex := 10, priority := 0 }

theorem witness_BookPlansAFreeTuner_refers :
    let c := bk0 .recording (.tuner .A)
    refers.Takes ∧ refers.sch.Settled ∧ refers.bookRefusal f1 = none ∧ refers.base.station ≠ .joined ∧
      refers.sch.holds = [] ∧ refers.sch.Room 1 ∧ refers.sch.usable .A = true ∧ refers.sch.usable .B = false ∧
      (refers.sch.tuners.get .A).live = none ∧ refers.sch.plans.get .A = [⟨0, false⟩] ∧ refers.sch.plans.get .B = [] ∧
      refers.sch.stacked = ⟨[], []⟩ ∧ refers.sch.bk 0 = some c ∧ refers.sch.unplaced = [] ∧ c.mux ≠ f1.multiplex ∧
      2 + 2 * min 7 f1.priority < c.rank ∧ refers.base.auto c.cls .manual = false ∧
      c.tuned refers.base = some (103683510, 103687320) := by
  decide

theorem refers_inv : refers.Inv := inv_of _ (by decide) (by decide) (by decide) (by decide) (by decide)

/-! ## Small runs -/

/-- What a command leaves of the scheduling part; the reset one where it leaves nothing. -/
def left (i : Instr) (s : State) : Sched := match exec i s with | .next t => t.sch | _ => Sched.reset

/-- What a command leaves of the port. -/
def leftPort (i : Instr) (s : State) : Port := match exec i s with | .next t => t.port | _ => Port.reset

theorem test_book_plans : (left (.book f0) s0).bookings.map (fun b => (b.handle, b.state, b.plan)) =
    [(0, .planned, .tuner .A)] := by decide

theorem test_book_isAnswered : (leftPort (.book f0) s0).response = some ⟨6, .ok, [0, 1, 0, 1, 1, 1, 0]⟩ := by decide

theorem test_prepare_tunes :
    let s := put (trig (one (bk0 .planned (.tuner .A))) .prepare 103683510) fun x => { x with plans := ⟨[⟨0, true⟩], []⟩ }
    (left (.prepare 0) s).tuners.a.state = .tuning := by decide

theorem test_start_records :
    let s := trig (onA (bk0 .preparing (.tuner .A)) []) .start 103683540
    (left (.start 0) s).bookings.map Booking.segs = [[seg 103683540 none]] := by decide

theorem test_stop_completes :
    let b := { bk0 .recording (.tuner .A) with segs := [seg 103683540 none] }
    (left (.stop 0) (trig (onA b [⟨7, 0⟩]) .stop 103687320)).notices =
      [b.endedNotice 103687320 (.complete, .none)] := by decide

theorem test_cancel_frees : (left (.cancel 0 none) (one (bk0 .waiting .absent))).bookings = [] := by decide

theorem test_holdLive_tunes : (left (.holdLive 9 7 0) s0).tuners.a.directive = ⟨1, some 9, some 7, []⟩ := by decide

theorem test_join_offersARoll : (left .join s0).txq.map (fun q => q.msg.isRoll) = [true] := by decide

theorem test_seekArrival_bids : (left (.seekArrival h2 k0) hears).txq.map (fun q => (q.rank, q.msg.isRoll)) = [(8, false)] := by
  decide

theorem test_takeArrival_lends :
    (left (.takeArrival h2 sb.id 1) (seeks (.awaiting 0 2 none []) none sb)).bookings.map (fun b => (b.state, b.plan)) =
      [(.lent, .lent 2)] := by decide

theorem test_badForm_isAnswered : (leftPort (.badFormRequest [25]) s0).response = some ⟨25, .badForm, []⟩ := by decide

theorem test_collection_freesThePort : (leftPort (.collection 6) held).state = .idle := by decide

theorem test_setClock_forward_leavesAGap :
    (left (.setClock 103680600) (onA { bk0 .recording (.tuner .A) with segs := [seg 103679000 none] } [⟨7, 0⟩])).bookings.map
      (fun b => (b.state, b.segs)) = [(.recording, [seg 103679000 (some 103680000), seg 103680600 none])] := by decide

theorem test_setClock_forward_endsWithReasonClock :
    (left (.setClock 103690000) (onA { bk0 .recording (.tuner .A) with segs := [seg 103679000 none] } [⟨7, 0⟩])).notices =
      [.outcome 0 ⟨1, 1⟩ .manual none 7 103683600 103687200 .partly .clock [seg 103679000 (some 103680000)]] := by decide

theorem test_passingBytes_areTheirRequest :
    (left (.badFormRequest (requestRecord 2 [])) s0).txq.map (fun q => q.msg.isRoll) = [true] := by decide +kernel

theorem test_powerBudget_popsBeforeTheRetry :
    let r : TunerRec := { TunerRec.reset with marks := ⟨false, false, true⟩ }
    let s := put (one (bk0 .suspended .absent)) fun x =>
      { x with
        budget := 0, tuners := ⟨r, r⟩, unplaced := [0]
        stacked := ⟨[], [⟨[0], 9, 103680000, .limit, none, false⟩]⟩ }
    (left (.powerBudget 2) s).bookings.map (fun b => (b.state, b.plan)) = [(.preparing, .tuner .B)] := by decide

theorem test_queuedBidRemoved_keepsTheNewerHold :
    let newer : Hold := { hold1 with number := 2, bidEnd := 9000 * 103680000000 }
    let bid2 : QMsg := { qBid (9000 * 103680000000) with msg := .bid ⟨⟨2, 40⟩, 2, 0, 0, 31⟩ }
    let s := put (queued [qBid 3, bid2]) fun x => { x with holds := [hold1, newer] }
    (left (.queuedBidRemoved ⟨2, 40⟩) s).holds = [newer] ∧ (left (.queuedBidRemoved ⟨2, 40⟩) s).txq = [bid2] := by decide

theorem test_aWorseMark_doesNotRepoint :
    let s := put hears fun x => { x with bookings := [eb0 .covered (.covered 3)], links := [lk] }
    (left (.markArrival h2 { mf with rank := 14 }) s).bookings = s.sch.bookings := by decide

theorem test_nextBooking_expects :
    (leftPort (.nextBooking (some ⟨0, some ⟨1, 2⟩⟩) 0) (one (bk0 .waiting .absent))).response = some ⟨10, .noSuch, []⟩ := by
  decide

theorem test_seekSent_opensItsWindow :
    let older : QMsg := ⟨0, 1, 12, .seek { sk with rank := 12, number := 2 }, none, false⟩
    let s := put (seeks (.collecting 0 none []) none sb) fun x =>
      { x with attempt := some [true], txq := [older, ⟨0, 1, 8, .seek sk, none, true⟩] }
    (left .messageSent s).txq = [older] ∧ (left .messageSent s).engine ≠ .collecting 0 none [] := by decide

theorem test_restart_emptiesTheQueueAgain :
    let s := { Sched.reset with txq := [qTake] }
    (Ev.restartStation s0.base .joined (Ev.of s)).s.txq.all (·.msg.isRoll) = true := by decide

/-- One RUNNING that pauses two bookings of a tuner issues one directive (R65). -/
theorem test_running_issuesOneDirective :
    let s := left (.running 7 70 2) pair
    s.tuners.a.directive = ⟨2, some 9, none, []⟩ ∧ s.bookings.map (·.state) = [.paused, .paused] := by decide

/-- A capture list of 4 refuses a hosted booking; with no tuner to go to it is returned at the rank of an unstarted booking
of its priority (R64, R100, R128). -/
theorem test_captureRefused_returnsUnstarted :
    let b := { bk0 .preparing (.tuner .A) with cls := .hosted, id := ⟨2, 40⟩ }
    let s := put (trig (onA b [⟨7, 9⟩, ⟨7, 8⟩, ⟨7, 6⟩, ⟨7, 5⟩]) .start 103683540) fun x =>
      { x with tuners := x.tuners.set .B dead }
    let t := left (.start 0) (on s fun v => { v with station := .joined })
    t.bookings = [] ∧ t.txq.map (·.rank) = [8] := by decide

/-- Four occupants on the booking's multiplex fail its check, though one has reached its end (R98, log entry 44). -/
theorem test_checkCountsAnOccupantAtItsEnd :
    let l := (List.range 4).map fun h => { fr h .event with finish := if h = 0 then 103680060 else 103687200, follow := false }
    let s := (put s0 fun x =>
      { x with bookings := l, plans := ⟨(List.range 4).map fun h => ⟨h, false⟩, []⟩ }).sch
    let v := { s0.base with clock := 103683510 }
    (l.map fun b => decide (v.clock < b.closeTime v)) = [false, true, true, true] ∧
      s.checkPasses v (bk0 .planned (.tuner .A)) .A = false := by decide

/-- An AWARD whose PREPARE time has passed: the entry prepares at once over a hosted occupant, whose RETURN is offered before
the TAKE (R99, R170). -/
theorem test_award_takesAfterItsLatePrepare :
    let c := { hb .recording with id := ⟨3, 9⟩, mux := 10, segs := [seg 103679000 none] }
    let x := { hold1 with details := { hold1.details with spanStart := 103680000, rank := 2 } }
    let s := { hears with sch := { (onA c [⟨7, 0⟩]).sch with holds := [x] } }
    let t := left (.awardArrival h2 aw1) (put s fun y => { y with tuners := y.tuners.set .B dead })
    t.bookings.map (fun b => (b.id, b.state)) = [(⟨2, 40⟩, .preparing)] ∧ t.txq.map (·.rank) = [7, 2] := by decide

end Sys2Proof.Tests
end

section
/-! How a request that the port takes is answered, for every request whose effect leaves the port, RESETN, the queue and
the counter of free values; and READ-DIRECTIVE with the bytes of a directive (R67). -/

namespace Sys2Proof.Machine

/-! ## A request that the port takes -/

/-- The state that a request's answer leaves is answered as R182 to R184 say when the request's own effect leaves the port,
RESETN, the counter of free values and the queue. -/
theorem State.Takes.answered {i : Instr} {c : Nat} {f : State → Answer} {s : State} (takes : s.Takes)
    (code : i.code = some c) (run : exec i s = s.request c f) (port : (f s).s.port = s.port)
    (resetLow : (f s).s.resetLow = s.resetLow) (free : (f s).s.free = s.free) (pending : (f s).s.pending = s.pending) :
    Answered i s ((f s).place c (3 + fieldLength c) s.port) (f s).code (f s).result where
  run := run.trans (State.request_taken c f s takes.1 takes.2)
  port := by
    have width : 3 + fieldLength c - 1 = 2 + fieldLength c := by omega
    simp [port, code, width]
  resetLow := resetLow
  free := free
  pending := pending

/-- A request whose answer is a refusal is refused. -/
theorem State.Takes.refused {i : Instr} {c : Nat} {f : State → Answer} {s : State} {code : Code} (takes : s.Takes)
    (hcode : i.code = some c) (run : exec i s = s.request c f) (answer : f s = s.refuse code) : Refused i s code := by
  have answered := takes.answered hcode run
  rw [answer] at answered
  exact ⟨_, answered rfl rfl rfl rfl, rfl, rfl⟩

/-! ## Fields in bytes -/

theorem byte_eq_field1 (n : Nat) : byte n = field1 n := by simp [byte, bytesOf, field1]

theorem bytesOf_two_eq_field2 (n : Nat) : bytesOf 2 n = field2 n := by simp [bytesOf, field2]

theorem idField_eq_fields (i : BookingId) : idField i = field1 i.origin ++ field2 i.serial := by
  simp only [idField, byte_eq_field1, bytesOf_two_eq_field2]

@[simp] theorem field1_length (n : Nat) : (field1 n).length = 1 := rfl

@[simp] theorem field2_length (n : Nat) : (field2 n).length = 2 := rfl

/-- Bytes that fit are padded at their end. -/
theorem padTo_eq_append {n : Nat} {l : List Byte} (h : l.length ≤ n) :
    padTo n l = l ++ List.replicate (n - l.length) 0 := by
  simp [padTo, List.take_append, List.take_of_length_le h, List.take_replicate]

/-! ## The bytes of a directive -/

theorem Sched.captureBytes_eq (s : Sched) (c : Capture) :
    let id := ((s.bk c.handle).map (·.id)).getD ⟨0, 0⟩
    s.captureBytes c = field2 c.service ++ field1 c.handle ++ field1 id.origin ++ field2 id.serial := by
  simp only [captureBytes, idField_eq_fields, byte_eq_field1, bytesOf_two_eq_field2, List.append_assoc]

@[simp] theorem Sched.captureBytes_length (s : Sched) (c : Capture) : (s.captureBytes c).length = 6 := by
  simp [captureBytes_eq]

/-- The slots of the captures take 6 bytes each. -/
theorem Sched.slots_length (s : Sched) (l : List Capture) : (l.flatMap s.captureBytes).length = 6 * l.length := by
  induction l with
  | nil => rfl
  | cons c l ih =>
    simp only [List.flatMap_cons, List.length_append, captureBytes_length, ih, List.length_cons]
    omega

/-- The directive of a tuner with at most four captures, field by field in the layout of R67. -/
theorem Sched.directiveBytes_eq (s : Sched) (k : Tuner) (h : (s.tuners.get k).directive.captures.length ≤ 4) :
    let r := s.tuners.get k
    let d := r.directive
    s.directiveBytes k =
      field1 k.index ++ field2 d.serial ++ field1 (d.mux.isSome.toNat + 2 * d.live.isSome.toNat + 4 * r.unread.toNat) ++
      field2 (d.mux.getD 0) ++ field2 (d.live.getD 0) ++ field1 r.state.code ++
      field1 (r.captures.length + r.live.isSome.toNat) ++ field1 d.captures.length ++
      d.captures.flatMap s.captureBytes ++ List.replicate (24 - 6 * d.captures.length) 0 := by
  intro r d
  have fits : (d.captures.flatMap s.captureBytes).length ≤ 24 := by
    rw [slots_length]
    exact Nat.mul_le_mul_left 6 h
  simp only [directiveBytes, TunerRec.holdCount, byte_eq_field1, bytesOf_two_eq_field2, padTo_eq_append fits, slots_length,
    List.append_assoc, r, d]

theorem Sched.directiveBytes_length (s : Sched) (k : Tuner) (h : (s.tuners.get k).directive.captures.length ≤ 4) :
    (s.directiveBytes k).length = 35 := by
  rw [directiveBytes_eq s k h]
  simp only [List.length_append, field1_length, field2_length, slots_length, List.length_replicate]
  omega

/-! ## READ-DIRECTIVE -/

theorem exec_readDirective (n : Nat) (s : State) : exec (.readDirective n) s = s.request 19 (State.readDirective n) := rfl

theorem State.readDirective_badIndex {n : Nat} (s : State) (h : 1 < n) : s.readDirective n = s.refuse .badValue :=
  if_pos h

theorem State.readDirective_notFitted {n : Nat} (s : State) (h : n ≤ 1) (k : s.base.cfg.fitted ≤ n) :
    s.readDirective n = s.refuse .noSuch := by
  simp [readDirective, Base.isFitted, Nat.not_lt.mpr h, Nat.not_lt.mpr k]

/-- The directive of a fitted tuner is answered as it stood, and its unread mark is cleared. -/
theorem State.readDirective_fitted {n : Nat} (s : State) (h : n ≤ 1) (k : n < s.base.cfg.fitted) :
    s.readDirective n =
      (s.onSched fun x => x.modTuner (Tuner.ofIndex n) fun r => { r with unread := false }).done
        (s.sch.directiveBytes (Tuner.ofIndex n)) := by
  simp [readDirective, Base.isFitted, Nat.not_lt.mpr h, k]

theorem Tuner.index_ofIndex {n : Nat} (h : n ≤ 1) : (Tuner.ofIndex n).index = n := by
  unfold Tuner.ofIndex
  split
  · exact Eq.symm ‹n = 0›
  · have : n = 1 := by omega
    exact this.symm

/-- READ-DIRECTIVE of a fitted tuner is answered OK with its directive, and only its unread mark changes. -/
theorem State.Takes.readDirective_answered {n : Nat} {s : State} (takes : s.Takes) (h : n ≤ 1)
    (k : n < s.base.cfg.fitted) :
    ∃ t, Answered (.readDirective n) s t .ok (s.sch.directiveBytes (Tuner.ofIndex n)) ∧ t.base = s.base ∧
      t.sch = s.sch.modTuner (Tuner.ofIndex n) fun r => { r with unread := false } := by
  have answered := takes.answered rfl (exec_readDirective n s)
  rw [State.readDirective_fitted s h k] at answered
  exact ⟨_, answered rfl rfl rfl rfl, rfl, rfl⟩

/-- Settles O15: the two refusals and the answer are the branches of the request; the record is the layout of R67, whose
captures fill at most the 24 bytes of their slots. -/
theorem readDirectiveClearsTheUnreadMark : Obligations.ReadDirectiveClearsTheUnreadMark := by
  unfold Obligations.ReadDirectiveClearsTheUnreadMark
  intro n s takes
  refine ⟨fun h => ?badIndex, fun h k => ?notFitted, fun h k => ?fitted⟩
  case badIndex => exact takes.refused rfl (exec_readDirective n s) (s.readDirective_badIndex h)
  case notFitted => exact takes.refused rfl (exec_readDirective n s) (s.readDirective_notFitted h k)
  case fitted =>
    intro t r d captures slot record
    have slots : s.sch.captureBytes = slot := funext s.sch.captureBytes_eq
    have layout : s.sch.directiveBytes t = record := by
      rw [Sched.directiveBytes_eq s.sch t captures, slots, show t.index = n from Tuner.index_ofIndex h]
    rw [← layout]
    exact ⟨s.sch.directiveBytes_length t captures, takes.readDirective_answered h k⟩

end Sys2Proof.Machine
end

section
/-! The roll sequence (R143): which message an attempt takes from the queue, what each way by which a command reaches the
state can leave, and what becomes of the last sent sequence. -/

namespace Sys2Proof.Machine

/-! ## The message that an attempt takes -/

/-- A message's key is below another's: its class, then its rank (R132). -/
def QMsg.KeyBelow (q x : QMsg) : Prop := q.msg.cls < x.msg.cls ∨ (q.msg.cls = x.msg.cls ∧ q.rank < x.rank)

/-- A message's key is not above another's (R132). -/
def QMsg.KeyUpTo (q x : QMsg) : Prop := q.msg.cls < x.msg.cls ∨ (q.msg.cls = x.msg.cls ∧ q.rank ≤ x.rank)

theorem QMsg.KeyBelow.irrefl (q : QMsg) : ¬ q.KeyBelow q := by simp [KeyBelow]

theorem QMsg.KeyBelow.not_keyUpTo {q x : QMsg} (h : q.KeyBelow x) : ¬ x.KeyUpTo q := by
  unfold KeyBelow at h
  unfold KeyUpTo
  omega

/-- The lowest of the rest is taken before the first message where its key is below. -/
theorem lowestKey_cons_of_keyBelow {q r : QMsg} {rest : List QMsg} (h : lowestKey rest = some r) (below : r.KeyBelow q) :
    lowestKey (q :: rest) = some r := by
  unfold QMsg.KeyBelow at below
  simp [lowestKey, h, below]

theorem lowestKey_cons_of_not_keyBelow {q r : QMsg} {rest : List QMsg} (h : lowestKey rest = some r)
    (notBelow : ¬ r.KeyBelow q) : lowestKey (q :: rest) = some q := by
  unfold QMsg.KeyBelow at notBelow
  simp [lowestKey, h, notBelow]

theorem lowestKey_cons_of_none {q : QMsg} {rest : List QMsg} (h : lowestKey rest = none) :
    lowestKey (q :: rest) = some q := by
  simp [lowestKey, h]

theorem mem_of_lowestKey {r : QMsg} {l : List QMsg} (h : lowestKey l = some r) : r ∈ l := by
  induction l with
  | nil => cases h
  | cons q rest ih =>
    cases k : lowestKey rest with
    | none =>
      rw [lowestKey_cons_of_none k] at h
      cases h
      exact List.mem_cons_self
    | some x =>
      by_cases below : x.KeyBelow q
      · rw [lowestKey_cons_of_keyBelow k below] at h
        cases h
        exact List.mem_cons_of_mem q (ih k)
      · rw [lowestKey_cons_of_not_keyBelow k below] at h
        cases h
        exact List.mem_cons_self

/-- A message stays the lowest with later ones whose keys are not below its own. -/
theorem lowestKey_cons_of_keyUpTo {q : QMsg} {after : List QMsg} (h : ∀ x ∈ after, q.KeyUpTo x) :
    lowestKey (q :: after) = some q := by
  cases k : lowestKey after with
  | none => exact lowestKey_cons_of_none k
  | some r =>
    have notBelow : ¬ r.KeyBelow q := fun below => below.not_keyUpTo (h r (mem_of_lowestKey k))
    exact lowestKey_cons_of_not_keyBelow k notBelow

/-- A message stays the lowest with earlier ones whose keys are above its own. -/
theorem lowestKey_append_of_keyBelow {q : QMsg} {before l : List QMsg} (h : ∀ x ∈ before, q.KeyBelow x)
    (lowest : lowestKey l = some q) : lowestKey (before ++ l) = some q := by
  induction before with
  | nil => exact lowest
  | cons x rest ih =>
    obtain ⟨below, others⟩ := List.forall_mem_cons.mp h
    exact lowestKey_cons_of_keyBelow (ih others) below

theorem modFirst_append_cons {q : QMsg} {before : List QMsg} (f : QMsg → QMsg) (after : List QMsg) (h : q ∉ before) :
    modFirst q f (before ++ q :: after) = before ++ f q :: after := by
  induction before with
  | nil => simp [modFirst]
  | cons x rest ih =>
    obtain ⟨other, others⟩ := List.ne_and_not_mem_of_not_mem_cons h
    rw [List.cons_append, modFirst, if_neg (Ne.symm other), ih others, List.cons_append]

/-- An attempt begins with the first message of the lowest key, which stays in its place, marked and written. -/
theorem State.startAttempt_of_lowest {s : State} {before after : List QMsg} {q : QMsg} (free : s.sch.attempt = none)
    (queue : s.sch.txq = before ++ q :: after) (above : ∀ x ∈ before, q.KeyBelow x)
    (upTo : ∀ x ∈ after, q.KeyUpTo x) :
    let v := s.base.awaitIdle
    s.startAttempt =
      { s with
        base := { v with idleBits := 0 }
        sch := { s.sch with txq := before ++ q.begun v :: after, attempt := some (q.begun v).wire } } := by
  have lowest := lowestKey_append_of_keyBelow above (lowestKey_cons_of_keyUpTo upTo)
  have fresh : q ∉ before := fun inside => QMsg.KeyBelow.irrefl q (above q inside)
  simp [State.startAttempt, free, queue, lowest, modFirst_append_cons _ after fresh]

theorem QMsg.begun_roll {q : QMsg} {r : RollMsg} (v : Base) (h : q.msg = .roll r) :
    (q.begun v).msg = .roll { r with sequence := (v.lastSent + 1) % 256, clock := v.clock } := by
  simp [QMsg.begun, h]

@[simp] theorem QMsg.begun_att (v : Base) (q : QMsg) : (q.begun v).att = true := rfl

/-- The message in the attempt is the first that is marked. -/
theorem Sched.inAttempt_of_first {s : Sched} {before after : List QMsg} {q : QMsg} (queue : s.txq = before ++ q :: after)
    (marked : q.att = true) (others : ∀ x ∈ before, x.att = false) : s.inAttempt = some q := by
  have skipped : before.find? (·.att) = none := List.find?_eq_none.mpr fun x inside => by simp [others x inside]
  simp [Sched.inAttempt, queue, List.find?_append, skipped, marked]

/-! ## What a command can leave -/

/-- A request leaves the state, the mark of a BUSY refusal, or its own answer. -/
theorem State.request_cases {c : Nat} {f : State → Answer} {s t : State} (h : s.request c f = .next t) :
    t = s ∨ t = s.busy (3 + fieldLength c) ∨ t = (f s).place c (3 + fieldLength c) s.port := by
  unfold State.request at h
  split at h
  · cases h
    exact .inl rfl
  · split at h
    · cases h
      exact .inr (.inr rfl)
    · cases h
      exact .inr (.inl rfl)

theorem State.happens_cases {f : State → State} {s t : State} (h : s.happens f = .next t) : t = s ∨ t = f s := by
  unfold State.happens at h
  split at h
  · cases h
    exact .inl rfl
  · cases h
    exact .inr rfl

/-- A time-driven event leaves the state, or its effect at the instant that was due. -/
theorem State.atInstant_cases {due : State → Option Nat} {f : State → State} {s t : State}
    (h : s.atInstant due f = .next t) : t = s ∨ ∃ u, due s = some u ∧ t = f (s.countTo u) := by
  cases k : due s with
  | none =>
    rw [State.atInstant_stopped due f s k] at h
    cases h
    exact .inl rfl
  | some u =>
    have ran := State.happens_cases h
    simp only [k] at ran
    exact ran.imp_right fun e => ⟨u, rfl, e⟩

/-! ## The last sent sequence -/

/-- A request keeps the last sent sequence where its own answer does. -/
theorem State.request_lastSent {c : Nat} {f : State → Answer} {s t : State}
    (keeps : (f s).s.base.lastSent = s.base.lastSent) (h : s.request c f = .next t) :
    t.base.lastSent = s.base.lastSent := by
  obtain rfl | rfl | rfl := State.request_cases h
  · rfl
  · rfl
  · exact keeps

/-- A time-driven event keeps it where its effect does. -/
theorem State.atInstant_lastSent {due : State → Option Nat} {f : State → State} {s t : State}
    (keeps : ∀ u : State, (f u).base.lastSent = u.base.lastSent) (h : s.atInstant due f = .next t) :
    t.base.lastSent = s.base.lastSent := by
  obtain rfl | ⟨u, -, rfl⟩ := State.atInstant_cases h
  · rfl
  · exact (keeps _).trans (s.countTo_lastSent u)

@[simp] theorem Base.awaitIdle_lastSent (v : Base) : v.awaitIdle.lastSent = v.lastSent := by
  unfold Base.awaitIdle
  split
  · rfl
  · exact v.countTo_lastSent _

theorem Base.rollSent_lastSent {m : Msg} {r : RollMsg} (v : Base) (h : m = .roll r) :
    (v.rollSent m).lastSent = r.sequence := by
  subst h
  rfl

@[simp] theorem Base.detach_lastSent (v : Base) : v.detach.lastSent = v.lastSent := rfl

@[simp] theorem Base.startJoining_lastSent (v : Base) : v.startJoining.lastSent = v.lastSent := rfl

@[simp] theorem Base.startLeaving_lastSent (v : Base) : v.startLeaving.lastSent = v.lastSent := rfl

@[simp] theorem Base.restarting_lastSent (v : Base) : v.restarting.lastSent = v.lastSent := rfl

/-- A warm restart keeps it, whether the station joins again or stays detached (R196). -/
@[simp] theorem Base.restart_lastSent (v : Base) : v.restart.lastSent = v.lastSent := by
  unfold Base.restart
  split <;> simp

@[simp] theorem State.goDetached_lastSent (cause : StationCause) (s : State) :
    (s.goDetached cause).base.lastSent = s.base.lastSent := rfl

/-- The entry into DETACHED on the drain report keeps it. -/
@[simp] theorem State.drain_lastSent (s : State) : s.drain.base.lastSent = s.base.lastSent := by
  unfold State.drain
  split
  · simp
  · rfl

/-- A message sent is told to Station life before the drain report is. -/
theorem State.attemptSent_lastSent {s : State} {bits : List Bool} {q : QMsg} (standing : s.sch.attempt = some bits)
    (marked : s.sch.inAttempt = some q) : s.attemptSent.base.lastSent = (s.base.rollSent q.msg).lastSent := by
  simp [State.attemptSent, standing, marked]

theorem State.attemptFails_lastSent (s : State) : s.attemptFails.base.lastSent = s.base.lastSent := by
  unfold State.attemptFails
  split
  · simp
  · rfl

theorem State.join_lastSent (s : State) : s.join.s.base.lastSent = s.base.lastSent := by
  unfold State.join
  split <;> simp

theorem State.enterJoined_lastSent (s : State) : s.enterJoined.base.lastSent = s.base.lastSent := rfl

theorem State.leave_lastSent (s : State) : s.leave.s.base.lastSent = s.base.lastSent := by
  unfold State.leave
  split <;> simp

theorem State.rollExpires_lastSent (s : State) : s.rollExpires.base.lastSent = s.base.lastSent := rfl

theorem State.restart_lastSent (s : State) : s.restart.s.base.lastSent = s.base.lastSent := s.base.restart_lastSent

/-! ## ROLLs -/

theorem exec_rollTimerExpiry (s : State) :
    exec .rollTimerExpiry s = s.atInstant (fun s => s.base.rollTimer) State.rollExpires := rfl

theorem exec_joinTimerExpiry (s : State) : exec .joinTimerExpiry s =
    s.atInstant (fun s => if s.base.station = .joining then s.base.joinTimer else none) State.enterJoined := rfl

theorem rollSequence_wraps (n : Nat) : (n + 1) % 256 = if n = 255 then 0 else (n + 1) % 256 := by
  split
  · subst n
    rfl
  · rfl

/-- ATTEMPT_START on a ROLL of the lowest key writes its sequence and its clock. -/
theorem exec_attemptStart_roll {s : State} {before after : List QMsg} {q : QMsg} {r : RollMsg}
    (high : s.resetLow = false) (free : s.sch.attempt = none) (queue : s.sch.txq = before ++ q :: after)
    (roll : q.msg = .roll r) (above : ∀ x ∈ before, q.KeyBelow x) (upTo : ∀ x ∈ after, q.KeyUpTo x) :
    ∃ t q', exec .attemptStart s = .next t ∧ t.sch.txq = before ++ q' :: after ∧ q'.att = true ∧
      q'.msg = .roll { r with sequence := (s.base.lastSent + 1) % 256, clock := t.base.clock } ∧
      t.base.lastSent = s.base.lastSent := by
  have run : exec .attemptStart s = .next s.startAttempt := s.happens_high State.startAttempt high
  rw [State.startAttempt_of_lowest free queue above upTo] at run
  have written := q.begun_roll s.base.awaitIdle roll
  rw [Base.awaitIdle_lastSent] at written
  exact ⟨_, _, run, rfl, q.begun_att _, written, s.base.awaitIdle_lastSent⟩

/-- MESSAGE_SENT on a ROLL makes its sequence the last sent one. -/
theorem exec_messageSent_roll {s : State} {before after : List QMsg} {q : QMsg} {r : RollMsg} {bits : List Bool}
    (high : s.resetLow = false) (standing : s.sch.attempt = some bits) (queue : s.sch.txq = before ++ q :: after)
    (marked : q.att = true) (others : ∀ x ∈ before, x.att = false) (roll : q.msg = .roll r) :
    ∃ t, exec .messageSent s = .next t ∧ t.base.lastSent = r.sequence :=
  ⟨_, s.happens_high State.attemptSent high,
    (State.attemptSent_lastSent standing (Sched.inAttempt_of_first queue marked others)).trans
      (s.base.rollSent_lastSent roll)⟩

theorem exec_attemptFailed_lastSent {s t : State} {why : AttemptEnd} (h : exec (.attemptFailed why) s = .next t) :
    t.base.lastSent = s.base.lastSent := by
  obtain rfl | rfl := State.happens_cases (f := State.attemptFails) h
  · rfl
  · exact s.attemptFails_lastSent

/-- The sequence of a ROLL whose incarnation is not the peer's is not weighed (R147). -/
theorem Peer.judge_of_otherIncarnation {p : Peer} {f : RollFields} (v : Base) (n : Nat)
    (h : p.incarnation ≠ some f.incarnation) : p.judge v { f with sequence := n } = p.judge v f := by
  have other : (p.incarnation == some f.incarnation) = false := beq_false_of_ne h
  simp only [Peer.judge, other, Bool.false_and]
  rfl

/-- Settles O48: the sequence is written and taken over by the ROLL of the attempt alone; each of the other commands goes
through one of the ways by which a command reaches the state, and its effect leaves the field. -/
theorem rollSequence : Obligations.RollSequence := by
  unfold Obligations.RollSequence
  refine ⟨?started, ?sent, fun s t why h => exec_attemptFailed_lastSent h, ?offered, ?cold,
    fun v f p n h => Peer.judge_of_otherIncarnation v n h⟩
  case started =>
    intro s before q after r high free queue roll above upTo
    rw [← rollSequence_wraps]
    exact exec_attemptStart_roll high free queue roll above upTo
  case sent =>
    intro s before q after r bits high standing queue marked others roll
    exact exec_messageSent_roll high standing queue marked others roll
  case offered =>
    intro s t i listed run
    simp only [List.mem_cons, List.not_mem_nil, or_false] at listed
    obtain rfl | rfl | rfl | rfl | rfl := listed
    · exact State.atInstant_lastSent State.rollExpires_lastSent ((exec_rollTimerExpiry s).symm.trans run)
    · exact State.request_lastSent s.join_lastSent run
    · exact State.atInstant_lastSent State.enterJoined_lastSent ((exec_joinTimerExpiry s).symm.trans run)
    · exact State.request_lastSent s.leave_lastSent run
    · exact State.request_lastSent s.restart_lastSent run
  case cold =>
    intro s t run
    cases run
    rfl

end Sys2Proof.Machine
end

section
/-! What the blocks' operations above a single event may do (`Sched.Evolves`): requests of the Booking Table and the guide,
the Broker's hand-offs, running status, the clock and live viewing. -/

namespace Sys2Proof.Machine

variable {d : Nat}

/-! ## Requests of the Booking Table and the guide -/

theorem Ev.evolves_placeAgain (v : Base) (o : Open) (h : Nat) (e : Ev) : e.s.EvolvesIn d (e.placeAgain v o h).s := by
  unfold Ev.placeAgain
  refine Sched.EvolvesIn.trans ?_ (Ev.evolves_place v o h _)
  refine Sched.EvolvesIn.trans ?_ (Sched.evolves_modB' _ h _ (fun _ => rfl) (fun _ => rfl))
  refine Sched.EvolvesIn.trans ?_ (Ev.evolves_abandon v h _)
  exact ((e.s.evolves_leaveUnplaced h).trans (Sched.evolves_leaveReferral _ h)).trans
    (Ev.evolves_leavePlan h (e.on fun s => (s.leaveUnplaced h).leaveReferral h))

theorem Ev.evolves_comeHome (v : Base) (h : Nat) (e : Ev) : e.s.EvolvesIn d (e.comeHome v h).s := by
  unfold Ev.comeHome
  refine Sched.EvolvesIn.trans ?_ (Ev.evolves_place v Open.new h _)
  exact e.s.evolves_modB' h _ (fun _ => rfl) (fun _ => rfl)

theorem Ev.evolves_afterAmend (v : Base) (f : AmendFields) (b : Booking) (e : Ev) :
    e.s.EvolvesIn d (e.afterAmend v f b).s := by
  unfold Ev.afterAmend
  dsimp only
  split
  · split
    · exact e.evolves_arm v _
    · exact e.evolves_placeAgain v _ _
  · split
    · exact e.evolves_arm v _
    · exact e.evolves_placeAgain v _ _
  · exact e.evolves_placeAgain v _ _
  · exact e.evolves_placeAgain v _ _
  · exact (e.evolves_withdraw v _ _).trans (Ev.evolves_comeHome v _ _)
  · split
    · exact .refl _
    · exact e.evolves_arm v _

theorem Ev.evolves_resolve (v : Base) (decision h : Nat) (e : Ev) : e.s.EvolvesIn d (e.resolve v decision h).s := by
  unfold Ev.resolve
  split
  · exact (e.s.evolves_leaveReferral h).trans (Ev.evolves_place v _ h (e.on fun s => s.leaveReferral h))
  · exact e.evolves_decline v h
  · exact e.evolves_cancel v h _

theorem Ev.evolves_withdrawLent (v : Base) (b : Booking) (e : Ev) : e.s.EvolvesIn d (e.withdrawLent v b).s := by
  unfold Ev.withdrawLent
  split
  · exact e.evolves_withdraw v _ _
  · exact .refl _

theorem Ev.evolves_afterMove (v : Base) (f : GuideFields) (b : Booking) (e : Ev) :
    e.s.EvolvesIn d (e.afterMove v f b).s := by
  have home : e.s.EvolvesIn d ((e.withdrawLent v b).comeHome v b.handle).s :=
    (e.evolves_withdrawLent v b).trans (Ev.evolves_comeHome v _ _)
  unfold Ev.afterMove
  split
  · exact (e.evolves_withdrawLent v b).trans (Ev.evolves_endNow v _ _ _)
  · split
    · exact e.evolves_placeAgain v _ _
    · exact e.evolves_placeAgain v _ _
    · exact e.evolves_placeAgain v _ _
    · exact e.evolves_placeAgain v _ _
    · split
      · exact e.evolves_arm v _
      · exact home
    · exact e.evolves_arm v _

theorem Ev.evolves_placeEpisode (v : Base) (series h : Nat) (e : Ev) : e.s.EvolvesIn d (e.placeEpisode v series h).s := by
  unfold Ev.placeEpisode
  split
  · exact .refl _
  · split
    · refine Sched.EvolvesIn.trans ?_ (Ev.evolves_arm v h _)
      exact e.s.evolves_inState h .covered _
    · exact (e.evolves_place v _ h).trans (Sched.evolves_offerMark v h _)

theorem Sched.evolves_episodeNotice (h : Nat) (l : Link) (event : Nat) (s : Sched) :
    s.EvolvesIn d (s.episodeNotice h l event) := by
  unfold Sched.episodeNotice
  split
  · exact .refl s
  · exact s.evolves_notice _

/-! ## The Broker's hand-offs -/

theorem Ev.evolves_lostHost (v : Base) (e : Ev) (h : Nat) : e.s.EvolvesIn d (e.lostHost v h).s := by
  unfold Ev.lostHost
  split
  · exact .refl _
  · split
    · exact e.evolves_comeHome v h
    · refine Sched.EvolvesIn.trans ?_ (Ev.evolves_arm v h _)
      exact e.s.evolves_modB' h _ (fun _ => rfl) (fun _ => rfl)

theorem Ev.evolves_lostCover (v : Base) (e : Ev) (h : Nat) : e.s.EvolvesIn d (e.lostCover v h).s := by
  unfold Ev.lostCover
  split
  · exact .refl _
  · split
    · refine Sched.EvolvesIn.trans ?_ (Ev.evolves_place v _ h _)
      refine Sched.EvolvesIn.trans ?_ (Sched.evolves_offerMark v h _)
      exact e.s.evolves_modB' h _ (fun _ => rfl) (fun _ => rfl)
    · exact .refl _

theorem Ev.evolves_lostStation (v : Base) (e : Ev) (h : Nat) : e.s.EvolvesIn d (e.lostStation v h).s := by
  unfold Ev.lostStation
  split
  · exact e.evolves_lostHost v h
  · exact e.evolves_lostCover v h
  · exact .refl _

theorem Ev.evolves_lostBookings (v : Base) (p : Nat → Bool) (e : Ev) : e.s.EvolvesIn d (e.lostBookings v p).s :=
  Ev.evolves_foldl _ (fun e h => e.evolves_lostStation v h) _ _

theorem Sched.evolves_filterHolds (s : Sched) (p q : Hold → Bool) :
    s.EvolvesIn d { s with holds := s.holds.filter p, lapsed := s.lapsed.filter q } :=
  s.evolves_holds _ _ (Nat.le_trans (List.length_filter_le _ _)) (Nat.le_trans (List.length_filter_le _ _))

theorem Ev.evolves_voidShared (v : Base) (n : Nat) (lost : Bool) (e : Ev) :
    e.s.EvolvesIn d (e.voidShared v n lost).s := by
  unfold Ev.voidShared
  refine Sched.EvolvesIn.trans ?_ (Sched.evolves_filterHolds _ _ _)
  split
  · exact .refl _
  · exact e.s.evolves_engine _
  · split
    · refine Sched.EvolvesIn.trans ?_ (Ev.evolves_awardeeOut v _ _ _ _)
      split
      · exact e.evolves_withdraw v _ _
      · exact .refl _
    · exact e.s.evolves_engine _

theorem Ev.evolves_peerLost (v : Base) (n : Nat) (e : Ev) : e.s.EvolvesIn d (e.peerLost v n).s :=
  (e.evolves_lostBookings v _).trans (Ev.evolves_voidShared v n true _)

theorem Ev.evolves_dropTallies (n : Nat) (e : Ev) : e.s.EvolvesIn d (e.dropTallies n).s := e.s.evolves_orphan _ _

theorem Ev.evolves_coldAfterAbsence (v : Base) (n : Nat) (e : Ev) : e.s.EvolvesIn d (e.coldAfterAbsence v n).s :=
  (e.evolves_dropTallies n).trans (Ev.evolves_foldl _ (fun e h => e.evolves_endNow v h _) _ _)

theorem Ev.evolves_hostPresent (v : Base) (n : Nat) (e : Ev) (h : Nat) : e.s.EvolvesIn d (e.hostPresent v n h).s := by
  have cleared : e.s.EvolvesIn d (e.s.modB h fun b => { b with confirm := none, peerLost := false }) :=
    e.s.evolves_modB' h _ (fun _ => rfl) (fun _ => rfl)
  unfold Ev.hostPresent
  dsimp only
  split
  · refine Sched.EvolvesIn.trans ?_ (Ev.evolves_arm v h _)
    exact cleared
  · exact cleared

theorem Ev.evolves_peerPresent (v : Base) (n : Nat) (e : Ev) : e.s.EvolvesIn d (e.peerPresent v n).s :=
  (Ev.evolves_foldl _ (fun e h => e.evolves_hostPresent v n h) _ e).trans (Sched.evolves_offerTallies v _ _)

theorem Sched.evolves_dropHolds (s : Sched) : s.EvolvesIn d s.dropHolds :=
  s.evolves_holds [] [] (fun _ => Nat.zero_le _) (fun _ => Nat.zero_le _)

theorem Ev.evolves_endSeeking (v : Base) (e : Ev) : e.s.EvolvesIn d (e.endSeeking v).s :=
  (Ev.evolves_foldl _ (fun e h => e.evolves_abandon v h) _ e).trans
    (Ev.evolves_foldl _ (fun e h => e.evolves_place v _ h) _ _)

theorem Ev.evolves_leaveHosted (v : Base) (e : Ev) (h : Nat) : e.s.EvolvesIn d (e.leaveHosted v h).s := by
  unfold Ev.leaveHosted
  split
  · exact .refl _
  · dsimp only
    split
    · refine Sched.EvolvesIn.trans ?_ (Ev.evolves_endAt v h _ _ _ _)
      exact e.s.evolves_offer v _ _ _
    · exact e.evolves_endNow v h _

theorem Ev.evolves_callHome (v : Base) (e : Ev) (h : Nat) : e.s.EvolvesIn d (e.callHome v h).s := by
  unfold Ev.callHome
  split
  · exact (e.evolves_withdraw v h _).trans (Ev.evolves_comeHome v h _)
  · exact .refl _

theorem Ev.evolves_brokerLeaving (v : Base) (e : Ev) : e.s.EvolvesIn d (e.brokerLeaving v).s := by
  unfold Ev.brokerLeaving
  dsimp only
  refine Sched.EvolvesIn.trans ?_ (Ev.evolves_foldl _ (fun e h => e.evolves_leaveHosted v h) _ _)
  refine Sched.EvolvesIn.trans ?_ (Ev.evolves_foldl _ (fun e h => e.evolves_lostCover v h) _ _)
  refine Sched.EvolvesIn.trans ?_ (Ev.evolves_foldl _ (fun e h => e.evolves_callHome v h) _ _)
  exact (e.evolves_endSeeking v).trans (Sched.evolves_dropHolds _)

theorem Ev.evolves_brokerIsolated (v : Base) (e : Ev) : e.s.EvolvesIn d (e.brokerIsolated v).s :=
  (e.evolves_endSeeking v).trans (Sched.evolves_dropHolds _)

theorem Ev.evolves_handPresence (v : Base) (p q : Peer) (cause : PeerCause) (e : Ev) :
    e.s.EvolvesIn d (e.handPresence v p q cause).s := by
  unfold Ev.handPresence
  split
  · dsimp only
    refine Sched.EvolvesIn.trans ?_ (Sched.evolves_notice _ _)
    split
    · refine Sched.EvolvesIn.trans ?_ (Ev.evolves_finish v _)
      exact e.evolves_peerPresent v _
    · exact e.evolves_peerPresent v _
  · split
    · exact .refl _
    · split
      · exact ((e.evolves_peerLost v _).trans (Ev.evolves_finish v _)).trans (Sched.evolves_notice _ _)
      · exact .refl _

theorem Ev.evolves_handIncarnation (v : Base) (p q : Peer) (e : Ev) : e.s.EvolvesIn d (e.handIncarnation v p q).s := by
  unfold Ev.handIncarnation
  split
  · exact .refl _
  · split
    · exact .refl _
    · dsimp only
      refine Sched.EvolvesIn.trans ?_ (Sched.evolves_notice _ _)
      refine Sched.EvolvesIn.trans ?_ (Ev.evolves_finish v _)
      split
      · exact (e.evolves_peerLost v _).trans (Ev.evolves_dropTallies _ _)
      · exact e.evolves_voidShared v _ _

theorem Ev.evolves_handAfterAbsence (v : Base) (p : Peer) (n : Nat) (e : Ev) :
    e.s.EvolvesIn d (e.handAfterAbsence v p n).s := by
  unfold Ev.handAfterAbsence
  split
  · exact e.evolves_coldAfterAbsence v _
  · exact .refl _

theorem Ev.evolves_confirmPasses (v : Base) (h : Nat) (e : Ev) : e.s.EvolvesIn d (e.confirmPasses v h).s := by
  have cleared : e.s.EvolvesIn d (e.s.modB h fun b => { b with confirm := none }) :=
    e.s.evolves_modB' h _ (fun _ => rfl) (fun _ => rfl)
  unfold Ev.confirmPasses
  dsimp only
  split
  · exact cleared
  · split
    · split
      · exact cleared
      · refine Sched.EvolvesIn.trans ?_ (Ev.evolves_lostHost v _ h)
        exact cleared
    · split
      · exact cleared
      · refine Sched.EvolvesIn.trans ?_ (Ev.evolves_lostCover v _ h)
        exact cleared
    · exact cleared

/-! ## Exchanges with other stations -/

theorem Ev.evolves_windowEnds (v : Base) (e : Ev) : e.s.EvolvesIn d (e.windowEnds v).s := by
  unfold Ev.windowEnds
  split
  · exact e.evolves_award v _ _
  · exact .refl _

theorem Ev.evolves_takeEnds (v : Base) (e : Ev) : e.s.EvolvesIn d (e.takeEnds v).s := by
  unfold Ev.takeEnds
  split
  · exact (e.evolves_withdraw v _ _).trans (Ev.evolves_awardeeOut v _ _ _ _)
  · exact .refl _

theorem Ev.evolves_takeArrives (v : Base) (sender : Nat) (i : BookingId) (number : Nat) (e : Ev) :
    e.s.EvolvesIn d (e.takeArrives v sender i number).s := by
  unfold Ev.takeArrives
  split
  · split
    · refine Sched.EvolvesIn.trans ?_ (Sched.evolves_engine _ .idle)
      refine Sched.EvolvesIn.trans ?_ (Ev.evolves_arm v _ _)
      exact (e.s.evolves_leaveSeek _).trans (Sched.evolves_inState _ _ .lent _)
    · exact .refl _
  · exact .refl _

theorem Ev.evolves_declineArrives (v : Base) (sender : Nat) (i : BookingId) (number : Nat) (e : Ev) :
    e.s.EvolvesIn d (e.declineArrives v sender i number).s := by
  unfold Ev.declineArrives
  split
  · split
    · exact e.evolves_awardeeOut v _ _ _
    · exact .refl _
  · exact .refl _

theorem Sched.evolves_dropHoldOf (s : Sched) (q : QMsg) : s.EvolvesIn d (s.dropHoldOf q) :=
  s.evolves_holds _ _ (Nat.le_trans (List.length_filter_le _ _)) id

theorem Ev.evolves_withdrawn (v : Base) (i : BookingId) (e : Ev) : e.s.EvolvesIn d (e.withdrawn v i).s := by
  unfold Ev.withdrawn
  refine Sched.EvolvesIn.trans (t := Ev.s (match e.s.bookings.find? (Booking.hosts i) with
    | some b => e.endNow v b.handle fun _ => (.cancelled, .cancelled)
    | none => e)) ?_ (Sched.evolves_filterHolds _ _ _)
  split
  · exact e.evolves_endNow v _ _
  · exact .refl _

theorem Sched.evolves_bid (v : Base) (i : BookingId) (number window : Nat) (k : SeekDetails) (p : Nat × Tuner × Nat)
    (s : Sched) (room : s.holds.length < 4) : s.EvolvesIn d (s.bid v i number window k p) := by
  have kept : ∀ m b, (s.offer v k.rank m b).holds = s.holds := fun m b => by
    unfold Sched.offer
    split
    · rfl
    · rfl
    · rfl
    · split <;> rfl
  unfold Sched.bid
  dsimp only
  split
  · refine (s.evolves_offer v _ _ _).trans (Sched.evolves_holds _ _ _ (fun _ => ?_) id)
    rw [List.length_append, kept]
    exact room
  · exact .refl s

theorem Ev.evolves_seekArrives (v : Base) (sender day : Nat) (f : SeekFields) (e : Ev) :
    e.s.EvolvesIn d (e.seekArrives v sender day f).s := by
  have ended : e.s.EvolvesIn d ((e.withdrawn v f.id).finish v).s := (e.evolves_withdrawn v _).trans (Ev.evolves_finish v _)
  unfold Ev.seekArrives
  dsimp only
  split
  · rename_i may
    split
    · refine ended.trans (Sched.evolves_bid v _ _ _ _ _ _ ?_)
      simp only [Sched.mayBid, Bool.and_eq_true, decide_eq_true_eq] at may
      exact may.2
    · exact ended
  · exact ended

theorem Sched.evolves_consume (i : BookingId) (number : Nat) (s : Sched) : s.EvolvesIn d (s.consume i number) :=
  s.evolves_filterHolds _ _

theorem Sched.evolves_takeAward (v : Base) (f : AwardFields) (held : Option Hold) (s : Sched) :
    s.EvolvesIn d (s.takeAward v f held) := s.evolves_offer v _ _ _

theorem Sched.evolves_declineAward (v : Base) (f : AwardFields) (r : DeclineReason) (held : Option Hold) (s : Sched) :
    s.EvolvesIn d (s.declineAward v f r held) := by
  unfold Sched.declineAward
  dsimp only
  refine Sched.EvolvesIn.trans ?_ (Sched.evolves_offer v _ _ _ _)
  split
  · exact s.evolves_consume _ _
  · exact .refl s

theorem lastN_length {α : Type} (n : Nat) (l : List α) : (lastN n l).length ≤ n := by
  unfold lastN
  rw [List.length_drop]
  omega

theorem Sched.evolves_lapse (i : BookingId) (s : Sched) : s.EvolvesIn d (s.lapse i) := by
  unfold Sched.lapse
  split
  · exact .refl s
  · exact s.evolves_holds _ _ (Nat.le_trans List.length_erase_le) (fun _ => lastN_length 4 _)

theorem Sched.evolves_appendSegments (h : Nat) (l : List Segment) (s : Sched) : s.EvolvesIn d (s.appendSegments h l) :=
  s.evolves_modB h _ (fun _ => rfl) (fun b _ => by simp [Nat.min_le_left])

theorem Ev.evolves_returned (v : Base) (sender day : Nat) (f : ReturnFields) (e : Ev) :
    e.s.EvolvesIn d (e.returned v sender day f).s := by
  unfold Ev.returned
  split
  · exact .refl _
  · dsimp only
    split
    · refine Sched.EvolvesIn.trans ?_ (Ev.evolves_endNow v _ _ _)
      exact Sched.evolves_appendSegments _ _ e.s
    · refine Sched.EvolvesIn.trans ?_ (Ev.evolves_comeHome v _ _)
      exact Sched.evolves_appendSegments _ _ e.s

theorem Ev.evolves_tallied (v : Base) (sender day : Nat) (f : TallyFields) (e : Ev) :
    e.s.EvolvesIn d (e.tallied v sender day f).s := by
  unfold Ev.tallied
  split
  · exact .refl _
  · refine Sched.EvolvesIn.trans ?_ (Ev.evolves_endNow v _ _ _)
    exact Sched.evolves_appendSegments _ _ e.s

theorem Ev.evolves_cover (v : Base) (h station : Nat) (e : Ev) : e.s.EvolvesIn d (e.cover v h station).s := by
  unfold Ev.cover
  refine Sched.EvolvesIn.trans ?_ (Ev.evolves_arm v h _)
  refine (e.evolves_leaveAll v h).trans ?_
  exact Sched.evolves_modB' _ h _ (fun _ => rfl) (fun _ => rfl)

theorem Ev.evolves_repoint (v : Base) (m : MarkHeard) (b : Booking) (old : Nat) (e : Ev) :
    e.s.EvolvesIn d (e.repoint v m b old).s := by
  unfold Ev.repoint
  dsimp only
  split
  · refine Sched.EvolvesIn.trans ?_ (Ev.evolves_arm v _ _)
    exact e.s.evolves_inState _ .covered _
  · exact .refl _

theorem Ev.evolves_weighMark (v : Base) (m : MarkHeard) (e : Ev) (h : Nat) : e.s.EvolvesIn d (e.weighMark v m h).s := by
  unfold Ev.weighMark
  split
  · exact .refl _
  · dsimp only
    split
    · split
      · exact e.evolves_repoint v m _ _
      · exact .refl _
    · split
      · exact e.s.evolves_offerMark v h
      · split
        · exact .refl _
        · split
          · split
            · exact (e.evolves_withdraw v h _).trans (Ev.evolves_cover v h _ _)
            · exact .refl _
          · exact .refl _
          · exact e.evolves_cover v h _

/-! ## The clock, running status and live viewing -/

theorem Ev.evolves_gap (v : Base) (old : Nat) (b : Booking) (e : Ev) : e.s.EvolvesIn d (e.gap v old b).s := by
  unfold Ev.gap
  split
  · exact e.evolves_endAt v _ _ _ _
  · split
    · exact e.s.evolves_modB _ _ (fun _ => rfl) fun c hc => c.addSegment_length _ hc
    · exact .refl _

theorem Ev.evolves_back (v : Base) (b : Booking) (e : Ev) : e.s.EvolvesIn d (e.back v b).s := by
  unfold Ev.back
  split
  · exact .refl _
  · split
    · exact (e.evolves_setState _ .planned).trans (Ev.evolves_arm v _ _)
    · exact e.evolves_arm v _
  · refine Sched.EvolvesIn.trans ?_ (Ev.evolves_arm v _ _)
    exact e.s.evolves_modB _ _ (fun _ => rfl) (fun c hc => by simpa using hc)
  · exact e.evolves_arm v _

theorem Ev.evolves_pause (v : Base) (h : Nat) (e : Ev) : e.s.EvolvesIn d (e.pause v h).s := by
  unfold Ev.pause
  refine Sched.EvolvesIn.trans ?_ (Ev.evolves_arm v h _)
  exact ((e.s.evolves_closeSeg h v.clock).trans (Sched.evolves_leaveCapture _ h)).trans (Sched.evolves_setState _ h .paused)

theorem Ev.evolves_unpause (v : Base) (b : Booking) (e : Ev) : e.s.EvolvesIn d (e.unpause v b).s := by
  unfold Ev.unpause
  split
  · split
    · exact e.evolves_capture v b _
    · exact (e.evolves_setState _ .preparing).trans (Ev.evolves_arm v _ _)
  · exact .refl _

theorem Ev.evolves_statusEffect (v : Base) (r : Running) (b : Booking) (e : Ev) :
    e.s.EvolvesIn d (e.statusEffect v r b).s := by
  unfold Ev.statusEffect
  split
  · exact e.evolves_captureRule v _
  · split
    · exact e.evolves_pause v _
    · exact .refl _
  · split
    · exact e.evolves_unpause v b
    · exact .refl _
  · exact .refl _

theorem Ev.evolves_status (v : Base) (r : Running) (b : Booking) (e : Ev) : e.s.EvolvesIn d (e.status v r b).s := by
  unfold Ev.status
  refine Sched.EvolvesIn.trans ?_ (Ev.evolves_statusEffect v r _ _)
  refine Sched.EvolvesIn.trans ?_ (Ev.evolves_arm v _ _)
  exact e.s.evolves_modB' _ _ (fun _ => rfl) (fun _ => rfl)

theorem Ev.evolves_statusOf (v : Base) (service event : Nat) (r : Running) (e : Ev) (h : Nat) :
    e.s.EvolvesIn d (e.statusOf v service event r h).s := by
  unfold Ev.statusOf
  split
  · exact .refl _
  · split
    · exact e.evolves_status v r _
    · exact .refl _

theorem Ev.evolves_report (v : Base) (t : Tuner) (status : Nat) (e : Ev) :
    e.s.EvolvesIn v.cfg.depth (e.report v t status).s := by
  have locked : e.s.EvolvesIn v.cfg.depth (e.lock v t).s := by
    refine Sched.EvolvesIn.trans ?_ (Ev.evolves_captureAll v t _)
    refine Sched.evolves_mark _ t _ ?_
    exact fun _ => rfl
  unfold Ev.report
  split
  · exact .refl _
  · exact .refl _
  · exact locked
  · exact locked
  · exact .refl _
  · exact e.evolves_fail v t

theorem Ev.evolves_takeHold (v : Base) (t : Tuner) (mux service : Nat) (e : Ev) :
    e.s.EvolvesIn v.cfg.depth (e.takeHold v t mux service).s := by
  unfold Ev.takeHold
  dsimp only
  refine Sched.EvolvesIn.trans ?_ (Ev.evolves_placeEach v _ _ _)
  refine Sched.EvolvesIn.trans ?_ (Ev.evolves_foldl _ (fun e h => e.evolves_leavePlan h) _ _)
  refine Sched.EvolvesIn.trans ?_ (Ev.evolves_placePushed v _ _)
  refine Sched.EvolvesIn.trans ?_ (Sched.evolves_mark _ t (fun r => { r with live := some ⟨mux, service⟩ }) fun _ => rfl)
  refine Sched.EvolvesIn.trans ?_ (Ev.evolves_foldl _ (fun e (b : Booking) => e.evolves_giveBack v b.handle .displaced) _ _)
  exact e.evolves_push v t .live none _

theorem Ev.evolves_releaseHold (t : Tuner) (e : Ev) : e.s.EvolvesIn d (e.releaseHold t).s := by
  unfold Ev.releaseHold
  rw [Ev.askRetry_s]
  refine Sched.EvolvesIn.trans ?_ (Ev.evolves_endCauses t _ _)
  refine Sched.evolves_mark _ t _ ?_
  exact fun _ => rfl

theorem Ev.evolves_holdLive (v : Base) (t : Tuner) (mux service : Nat) (e : Ev) :
    e.s.EvolvesIn v.cfg.depth (e.holdLive v t mux service).s := by
  unfold Ev.holdLive
  split
  · exact e.evolves_takeHold v t mux service
  · split
    · split
      · exact e.s.evolves_mark t _ fun _ => rfl
      · exact e.evolves_takeHold v t mux service
    · exact (e.evolves_takeHold v t mux service).trans (Ev.evolves_releaseHold _ _)

/-! ## Station life -/

theorem Ev.evolves_armAll (v : Base) (e : Ev) : e.s.EvolvesIn d (e.armAll v).s :=
  Ev.evolves_foldl _ (fun e h => e.evolves_arm v h) _ _

theorem Ev.evolves_restartBooking (v : Base) (e : Ev) (h : Nat) : e.s.EvolvesIn d (e.restartBooking v h).s := by
  have again : e.s.EvolvesIn d (((e.s.closeSeg h v.clock).leaveCapture h).modB h fun b => { b with state := .preparing }) :=
    ((e.s.evolves_closeSeg h v.clock).trans (Sched.evolves_leaveCapture _ h)).trans (Sched.evolves_setState _ h .preparing)
  have waits : e.s.EvolvesIn d (e.s.modB h fun b => { b with confirm := some ((v.clock + 4 * v.cfg.rollPeriod) * unit) }) :=
    e.s.evolves_modB' h _ (fun _ => rfl) (fun _ => rfl)
  unfold Ev.restartBooking
  split
  · exact .refl _
  · split
    · split
      · exact again
      · exact e.evolves_endNow v h _
    · split
      · exact again
      · exact e.evolves_endNow v h _
    · split
      · exact again
      · exact e.evolves_endNow v h _
    · exact e.s.evolves_inState h .waiting .absent
    · exact waits
    · exact waits
    · exact .refl _

theorem Sched.evolves_restartTuners (v : Base) (s : Sched) : s.EvolvesIn d (s.restartTuners v) := by
  unfold Sched.restartTuners
  dsimp only
  refine Sched.EvolvesIn.trans (s.evolves_tuners (s.tuners.both fun r => { r with live := none }) id id) ?_
  refine Sched.EvolvesIn.foldl _ (fun s t => s.evolves_modTuner t _ fun r _ => ?_) _ _
  rw [TunerRec.restart, TunerRec.issue_captures]
  exact Nat.zero_le _

theorem Sched.evolves_rebuildUnplaced (s : Sched) : s.EvolvesIn d s.rebuildUnplaced := .ofSpoken rfl

theorem Ev.evolves_restart (v : Base) (e : Ev) : e.s.EvolvesIn v.cfg.depth (e.restart v).s := by
  unfold Ev.restart
  dsimp only
  refine Sched.EvolvesIn.trans ?_ (Ev.evolves_armAll v _)
  refine Sched.EvolvesIn.trans ?_ (Ev.evolves_foldl _ (fun e t => e.s.evolves_notice _) _ _)
  refine Sched.EvolvesIn.trans ?_ (Ev.evolves_finish v _)
  rw [Ev.askRetry_s]
  refine Sched.EvolvesIn.trans ?_ (Sched.evolves_rebuildUnplaced _)
  refine Sched.EvolvesIn.trans ?_ (Ev.evolves_foldl Ev.restartCauses (fun e t => e.evolves_endCauses t _) _ _)
  refine Sched.EvolvesIn.trans ?_ (Ev.evolves_foldl _ (fun e t => e.evolves_leaveUsable v t .limit) _ _)
  refine Sched.EvolvesIn.trans ?_ (Sched.evolves_budgetMarks v _)
  refine Sched.EvolvesIn.trans ?_ (Sched.evolves_restartTuners v _)
  exact Ev.evolves_foldl _ (fun e h => e.evolves_restartBooking v h) _ _

end Sys2Proof.Machine
end

section
/-! The table's own numbers: the lowest free handle or slot, the first free serial, and what a record made under them does
to the capacities and to the booking ids in use (R1 to R4, R43). -/

namespace Sys2Proof.Machine

/-! ## The lowest free number -/

/-- Different numbers that all stand in a list are no more than the list's entries. -/
theorem le_length_of_inj_mem {f : Nat → Nat} : ∀ (n : Nat) {l : List Nat}, (∀ i < n, f i ∈ l) →
    (∀ i < n, ∀ j < n, f i = f j → i = j) → n ≤ l.length
  | 0, _, _, _ => Nat.zero_le _
  | n + 1, l, inside, distinct => by
    have last : f n ∈ l := inside n (Nat.lt_succ_self n)
    have others : n ≤ (l.erase (f n)).length := by
      refine le_length_of_inj_mem n (fun i hi => ?_) fun i hi j hj => distinct i (by omega) j (by omega)
      refine (List.mem_erase_of_ne fun same => ?_).mpr (inside i (by omega))
      have := distinct i (by omega) n (by omega) same
      omega
    rw [List.length_erase_of_mem last] at others
    have := List.length_pos_of_mem last
    omega

theorem lowestFree_spec {n : Nat} {used : List Nat} (room : used.length < n) :
    lowestFree n used < n ∧ lowestFree n used ∉ used ∧ ∀ i < lowestFree n used, i ∈ used := by
  have some_free : ∃ i, i < n ∧ i ∉ used := by
    apply Classical.byContradiction
    intro none_free
    have inside : ∀ i < n, i ∈ used := fun i hi => Classical.byContradiction fun h => none_free ⟨i, hi, h⟩
    have := le_length_of_inj_mem (f := fun i => i) n inside fun _ _ _ _ same => same
    omega
  obtain ⟨i, below, free⟩ := some_free
  cases found : (List.range n).find? fun i => !used.contains i with
  | none => exact absurd (List.find?_eq_none.mp found i (List.mem_range.mpr below)) (by simp [free])
  | some k =>
    have value : lowestFree n used = k := by rw [lowestFree, found]; rfl
    rw [value]
    refine ⟨List.mem_range.mp (List.mem_of_find?_eq_some found), by simpa using List.find?_some found, fun j hj => ?_⟩
    obtain ⟨-, before, after, split, earlier⟩ := List.find?_eq_some_iff_append.mp found
    have place : before.length = k ∧ before = List.range before.length := by
      have prefixed : before = (List.range n).take before.length := by simp [split]
      have size : before.length < n := by
        have := congrArg List.length split
        simp at this
        omega
      have here : (List.range n)[before.length]? = some k := by simp [split]
      rw [List.getElem?_range size] at here
      refine ⟨Option.some.inj here, ?_⟩
      rw [List.take_range, Nat.min_eq_left (Nat.le_of_lt size)] at prefixed
      exact prefixed
    have := earlier j (by rw [place.2]; exact List.mem_range.mpr (place.1.symm ▸ hj))
    simpa using this

/-! ## The first free serial -/

/-- The serial that the search meets in round `i` of a search from `n`. -/
def serialNth (n : Nat) : Nat → Nat
  | 0 => n
  | i + 1 => serialAfter (serialNth n i)

theorem serialNth_serialAfter (n : Nat) : ∀ i, serialNth (serialAfter n) i = serialNth n (i + 1)
  | 0 => rfl
  | i + 1 => congrArg serialAfter (serialNth_serialAfter n i)

theorem serialNth_eq (n : Nat) : ∀ i, i ≤ 65535 → serialNth n i =
    if i = 0 then n else if min n 65535 + i ≤ 65535 then min n 65535 + i else min n 65535 + i - 65535
  | 0, _ => rfl
  | i + 1, h => by
    rw [serialNth, serialNth_eq n i (by omega), if_neg (Nat.succ_ne_zero i)]
    unfold serialAfter
    repeat' split
    all_goals omega

theorem serialNth_inj {n i j : Nat} (hi : i < 65535) (hj : j < 65535)
    (same : serialNth n i = serialNth n j) : i = j := by
  rw [serialNth_eq n i (by omega), serialNth_eq n j (by omega)] at same
  repeat' split at same
  all_goals omega

/-- The search stops at a free serial that it reaches within its rounds. -/
theorem findSerial_free {used : Nat → Bool} : ∀ (fuel n : Nat), (∃ i < fuel, used (serialNth n i) = false) →
    used (findSerial used fuel n) = false
  | 0, _, ⟨_, h, _⟩ => absurd h (Nat.not_lt_zero _)
  | fuel + 1, n, ⟨i, below, free⟩ => by
    unfold findSerial
    by_cases taken : used n = true
    · rw [if_pos taken]
      refine findSerial_free fuel _ ?_
      cases i with
      | zero =>
        rw [serialNth, taken] at free
        cases free
      | succ i => exact ⟨i, by omega, by rwa [serialNth_serialAfter]⟩
    · rw [if_neg taken]
      exact Bool.eq_false_iff.mpr taken

/-- With fewer serials in use than rounds, the search finds a free one. -/
theorem findSerial_not_used {used : Nat → Bool} {l : List Nat} {fuel : Nat} (n : Nat)
    (listed : ∀ m, used m = true → m ∈ l) (few : l.length < fuel) (rounds : fuel ≤ 65535) :
    used (findSerial used fuel n) = false := by
  apply findSerial_free
  apply Classical.byContradiction
  intro none_free
  have inside : ∀ i < fuel, serialNth n i ∈ l := fun i hi =>
    listed _ (Bool.not_eq_false _ ▸ fun free => none_free ⟨i, hi, free⟩)
  have := le_length_of_inj_mem fuel inside fun i hi j hj => serialNth_inj (by omega) (by omega)
  omega

/-- No local entry has the serial of the next local record (R4). -/
theorem Sched.nextSerial_fresh {s : Sched} (room : s.bookings.length ≤ 128) {b : Booking} (hb : b ∈ s.bookings)
    (locally : b.cls ≠ .hosted) : b.id.serial ≠ s.nextSerial := by
  intro same
  have free := findSerial_not_used (fuel := 129) (l := s.bookings.map (·.id.serial)) s.serialCtr
    (used := fun n => s.bookings.any fun b => b.cls != .hosted && b.id.serial == n)
    (fun m hm => by
      obtain ⟨c, hc, k⟩ := List.any_eq_true.mp hm
      simp only [Bool.and_eq_true, beq_iff_eq] at k
      exact List.mem_map.mpr ⟨c, hc, k.2⟩)
    (by rw [List.length_map]; omega) (by omega)
  have taken : (s.bookings.any fun b => b.cls != .hosted && b.id.serial == s.nextSerial) = true :=
    List.any_eq_true.mpr ⟨b, hb, by simp [locally, same]⟩
  rw [show findSerial (fun n => s.bookings.any fun b => b.cls != .hosted && b.id.serial == n) 129 s.serialCtr =
    s.nextSerial from rfl] at free
  rw [free] at taken
  cases taken

/-! ## The Booking Table in order of handle -/

theorem insertBooking_perm (b : Booking) : ∀ l, (insertBooking b l).Perm (b :: l)
  | [] => .refl _
  | c :: l => by
    unfold insertBooking
    split
    · exact .refl _
    · exact ((insertBooking_perm b l).cons c).trans (.swap b c l)

theorem insertBooking_sorted {b : Booking} {l : List Booking} (fresh : b.handle ∉ l.map Booking.handle)
    (sorted : (l.map Booking.handle).Pairwise (· < ·)) : ((insertBooking b l).map Booking.handle).Pairwise (· < ·) := by
  induction l with
  | nil => simp [insertBooking]
  | cons c l ih =>
    simp only [List.map_cons, List.mem_cons, not_or] at fresh
    obtain ⟨other, fresh⟩ := fresh
    rw [List.map_cons, List.pairwise_cons] at sorted
    obtain ⟨above, sorted⟩ := sorted
    unfold insertBooking
    split
    · rename_i below
      simp only [List.map_cons, List.pairwise_cons, List.mem_cons]
      exact ⟨fun a ha => ha.elim (fun e => e ▸ below) fun ha => Nat.lt_trans below (above a ha), above, sorted⟩
    · rename_i notBelow
      rw [List.map_cons, List.pairwise_cons]
      refine ⟨fun a ha => ?_, ih fresh sorted⟩
      rcases List.mem_cons.mp (((insertBooking_perm b l).map Booking.handle).mem_iff.mp ha) with rfl | ha
      · omega
      · exact above a ha

/-- The next handle is in range and not in use while the table has room (R2). -/
theorem Sched.nextHandle_spec {s : Sched} (room : s.bookings.length < 128) :
    s.nextHandle < 128 ∧ s.nextHandle ∉ s.bookings.map Booking.handle ∧
      ∀ i < s.nextHandle, i ∈ s.bookings.map Booking.handle :=
  lowestFree_spec (by rwa [List.length_map])

/-- A record that joins the table at the next handle, within the room of its class, keeps the capacities. -/
theorem Sched.Fits.insert {s : Sched} (F : s.Fits) {b : Booking} (room : s.roomFor b.cls = true)
    (handle : b.handle = s.nextHandle) (segs : b.segs.length ≤ 4) {oc sc : Nat} :
    ({ s with bookings := insertBooking b s.bookings, orderCtr := oc, serialCtr := sc } : Sched).Fits := by
  simp only [Sched.roomFor, Bool.and_eq_true, Bool.or_eq_true, decide_eq_true_eq] at room
  obtain ⟨space, hostedSpace⟩ := room
  obtain ⟨below, fresh, -⟩ := s.nextHandle_spec space
  have perm := insertBooking_perm b s.bookings
  exact
    { F with
      handles := insertBooking_sorted (handle ▸ fresh) F.handles
      handleRange := fun c hc => by
        rcases List.mem_cons.mp (perm.mem_iff.mp hc) with rfl | hc
        · exact handle ▸ below
        · exact F.handleRange c hc
      bookings := by
        have := perm.length_eq
        rw [List.length_cons] at this
        exact this ▸ space
      hosted := by
        have size := (perm.filter fun b => b.cls == .hosted).length_eq
        have before := F.hosted
        unfold Sched.hostedInUse at before hostedSpace ⊢
        dsimp only
        rw [size, List.filter_cons]
        split
        · rename_i isHosted
          simp only [beq_iff_eq] at isHosted
          simp only [isHosted, bne_self_eq_false, Bool.false_eq_true, false_or] at hostedSpace
          exact hostedSpace
        · exact before
      segs := fun c hc => by
        rcases List.mem_cons.mp (perm.mem_iff.mp hc) with rfl | hc
        · exact segs
        · exact F.segs c hc }

/-! ## The series table in order of slot -/

theorem insertLink_perm (l : Link) : ∀ ls, (insertLink l ls).Perm (l :: ls)
  | [] => .refl _
  | m :: ls => by
    unfold insertLink
    split
    · exact .refl _
    · exact ((insertLink_perm l ls).cons m).trans (.swap l m ls)

theorem insertLink_sorted {l : Link} {ls : List Link} (fresh : l.slot ∉ ls.map Link.slot)
    (sorted : (ls.map Link.slot).Pairwise (· < ·)) : ((insertLink l ls).map Link.slot).Pairwise (· < ·) := by
  induction ls with
  | nil => simp [insertLink]
  | cons m ls ih =>
    simp only [List.map_cons, List.mem_cons, not_or] at fresh
    obtain ⟨other, fresh⟩ := fresh
    rw [List.map_cons, List.pairwise_cons] at sorted
    obtain ⟨above, sorted⟩ := sorted
    unfold insertLink
    split
    · rename_i below
      simp only [List.map_cons, List.pairwise_cons, List.mem_cons]
      exact ⟨fun a ha => ha.elim (fun e => e ▸ below) fun ha => Nat.lt_trans below (above a ha), above, sorted⟩
    · rename_i notBelow
      rw [List.map_cons, List.pairwise_cons]
      refine ⟨fun a ha => ?_, ih fresh sorted⟩
      rcases List.mem_cons.mp (((insertLink_perm l ls).map Link.slot).mem_iff.mp ha) with rfl | ha
      · omega
      · exact above a ha

/-- The count that LINK gives has as much left as it was given (R44, R46). -/
theorem LinkFields.draft_counts (f : LinkFields) (slot : Nat) (id : LinkId) :
    ∀ c ∈ (LinkFields.draft f slot id).count, c.remaining ≤ c.initial := by
  intro c hc
  unfold LinkFields.draft countFieldOf at hc
  dsimp only at hc
  split at hc
  · simp at hc
  · split at hc
    · simp only [Option.getD_some, Option.mem_some_iff] at hc
      subst hc
      exact Nat.le_refl _
    · simp at hc
  · simp at hc

/-- A link that joins the series table at the lowest free slot keeps the capacities. -/
theorem Sched.Fits.insertLink {s : Sched} (F : s.Fits) {l : Link} (room : s.links.length < 32)
    (slot : l.slot = lowestFree 32 (s.links.map (·.slot))) (episodes : l.episodes = [])
    (counts : ∀ c ∈ l.count, c.remaining ≤ c.initial) {n : Nat} :
    ({ s with links := Machine.insertLink l s.links, linkCtr := n } : Sched).Fits := by
  obtain ⟨below, fresh, -⟩ := lowestFree_spec (n := 32) (used := s.links.map (·.slot)) (by rwa [List.length_map])
  have perm := insertLink_perm l s.links
  have each {p : Link → Prop} (new : p l) (old : ∀ m ∈ s.links, p m) : ∀ m ∈ Machine.insertLink l s.links, p m := by
    intro m hm
    rcases List.mem_cons.mp (perm.mem_iff.mp hm) with rfl | hm
    · exact new
    · exact old m hm
  exact
    { F with
      slots := insertLink_sorted (slot ▸ fresh) F.slots
      slotRange := each (slot ▸ below) F.slotRange
      links := by
        have := perm.length_eq
        rw [List.length_cons] at this
        exact this ▸ room
      episodes := each (by simp [episodes]) F.episodes
      episodesOnce := each (by simp [episodes]) F.episodesOnce
      counts := each counts F.counts }

end Sys2Proof.Machine
end

section
/-! What every command keeps: the capacities and the distinctness of booking ids, as one relation between the state before
and the state after, proved once for each way by which a command reaches the state and then for each command. -/

namespace Sys2Proof.Machine

variable {n d : Nat}

/-! ## The scheduling part -/

/-- The booking ids in use are distinct, and no hosted entry names station `n` as its origin (R4, R190). -/
structure Sched.IdsAt (n : Nat) (s : Sched) : Prop where
  distinct : (s.bookings.map Booking.id).Pairwise (· ≠ ·)
  hosted : ∀ b ∈ s.bookings, b.cls = .hosted → b.id.origin ≠ n

theorem State.ids_iff (s : State) : s.Ids ↔ s.sch.IdsAt s.base.cfg.station :=
  ⟨fun h => ⟨h.distinct, h.hosted⟩, fun h => ⟨h.distinct, h.hosted⟩⟩

/-- What every operation keeps at a station number `n` and a depth limit `d`. -/
structure Sched.KeepsAt (n d : Nat) (s t : Sched) : Prop where
  fits : s.Fits → t.Fits
  depths : ∀ k, (s.stacked.get k).length ≤ d → (t.stacked.get k).length ≤ d
  ids : s.Fits → s.IdsAt n → t.IdsAt n

theorem Sched.KeepsAt.refl (s : Sched) : s.KeepsAt n d s := ⟨id, fun _ => id, fun _ => id⟩

theorem Sched.KeepsAt.trans {s t u : Sched} (h : s.KeepsAt n d t) (k : t.KeepsAt n d u) : s.KeepsAt n d u :=
  ⟨fun F => k.fits (h.fits F), fun i l => k.depths i (h.depths i l), fun F I => k.ids (h.fits F) (h.ids F I)⟩

/-- Two members of a list with one image, under a function that gives its members distinct images. -/
theorem eq_of_map_nodup {α β : Type} {f : α → β} : ∀ {l : List α} {a b : α}, (l.map f).Nodup → a ∈ l → b ∈ l →
    f a = f b → a = b
  | [], _, _, _, inside, _, _ => absurd inside List.not_mem_nil
  | c :: l, a, b, distinct, ha, hb, same => by
    rw [List.map_cons, List.nodup_cons] at distinct
    obtain ⟨apart, distinct⟩ := distinct
    rcases List.mem_cons.mp ha with rfl | inside
    · rcases List.mem_cons.mp hb with rfl | other
      · rfl
      · exact absurd (same ▸ List.mem_map_of_mem other) apart
    · rcases List.mem_cons.mp hb with rfl | other
      · exact absurd (same ▸ List.mem_map_of_mem inside) apart
      · exact eq_of_map_nodup distinct inside other same

/-- What the capacities and the distinctness of booking ids speak of in a record, but for its segments. -/
def Booking.key (b : Booking) : Nat × BookingId × BClass := (b.handle, b.id, b.cls)

theorem Booking.key_of_fixed {a b : Booking} (h : a.fixed = b.fixed) : a.key = b.key := by
  simp only [Booking.fixed, Prod.mk.injEq] at h
  obtain ⟨⟨handle, id, cls, -⟩, -⟩ := h
  simp [Booking.key, handle, id, cls]

/-- Records that keep their booking ids, in a table in order of handle. -/
theorem Sched.IdsAt.ofKeys {s t : Sched} (I : s.IdsAt n) (sorted : (t.bookings.map Booking.handle).Pairwise (· < ·))
    (old : ∀ b ∈ t.bookings, ∃ a ∈ s.bookings, b.key = a.key) : t.IdsAt n := by
  simp only [Booking.key, Prod.mk.injEq] at old
  refine ⟨List.pairwise_map.mpr ((List.pairwise_map.mp sorted).imp_of_mem fun {b c} hb hc below same => ?_), ?_⟩
  · obtain ⟨a, ha, handle, id, -⟩ := old b hb
    obtain ⟨a', ha', handle', id', -⟩ := old c hc
    have one : a = a' := eq_of_map_nodup (f := Booking.id) I.distinct ha ha' (by rw [← id, ← id', same])
    rw [handle, handle', one] at below
    exact Nat.lt_irrefl _ below
  · intro b hb isHosted
    obtain ⟨a, ha, -, id, cls⟩ := old b hb
    rw [id]
    exact I.hosted a ha (cls ▸ isHosted)

theorem Sched.EvolvesIn.keeps {s t : Sched} (h : s.EvolvesIn d t) : s.KeepsAt n d t :=
  ⟨h.fits, h.depths, fun F I => I.ofKeys (h.fits F).handles fun b hb =>
    let ⟨a, ha, e⟩ := h.bookings b hb
    ⟨a, ha, Booking.key_of_fixed e⟩⟩

/-- A change of neither the table nor the stacks. -/
theorem Sched.KeepsAt.ofFits {s t : Sched} (bookings : t.bookings = s.bookings) (stacked : t.stacked = s.stacked)
    (fits : s.Fits → t.Fits) : s.KeepsAt n d t :=
  ⟨fits, fun _ l => stacked ▸ l, fun _ I => ⟨bookings ▸ I.distinct, bookings ▸ I.hosted⟩⟩

theorem Sched.keeps_marks (s : Sched) (x : List MarkHeard) (h : s.marks.length ≤ 64 → x.length ≤ 64) :
    s.KeepsAt n d { s with marks := x } :=
  .ofFits rfl rfl fun F => { F with marks := h F.marks }

theorem Sched.keeps_budget (s : Sched) {b : Nat} (h : b ≤ 2) : s.KeepsAt n d { s with budget := b } :=
  .ofFits rfl rfl fun F => { F with budget := h }

/-- Records changed in place, other fixed fields and ENDED ones too, their keys and the bound on their segments kept. -/
theorem Sched.keeps_mapBookings (s : Sched) (f : Booking → Booking) (key : ∀ b, (f b).key = b.key)
    (segs : ∀ b, (f b).segs = b.segs) : s.KeepsAt n d { s with bookings := s.bookings.map f } := by
  have handle (b : Booking) : (f b).handle = b.handle := congrArg Prod.fst (key b)
  have cls (b : Booking) : (f b).cls = b.cls := congrArg (fun k => k.2.2) (key b)
  have handles : (s.bookings.map f).map Booking.handle = s.bookings.map Booking.handle := by
    rw [List.map_map]
    exact List.map_congr_left fun b _ => handle b
  have each {p : Booking → Prop} (changed : ∀ b ∈ s.bookings, p (f b)) : ∀ b ∈ s.bookings.map f, p b := by
    intro b hb
    obtain ⟨a, ha, rfl⟩ := List.mem_map.mp hb
    exact changed a ha
  refine ⟨fun F =>
    { F with
      handles := handles ▸ F.handles
      handleRange := each fun a ha => handle a ▸ F.handleRange a ha
      bookings := (List.length_map f).symm ▸ F.bookings
      hosted := ?_
      segs := each fun a ha => (segs a).symm ▸ F.segs a ha }, fun _ => id,
    fun F I => I.ofKeys (handles ▸ F.handles) (each fun a ha => ⟨a, ha, key a⟩)⟩
  have hosted := F.hosted
  unfold Sched.hostedInUse at hosted ⊢
  rw [List.filter_map, List.length_map]
  simpa only [Function.comp_def, cls] using hosted

/-- One record changed, other fixed fields too, its key and its segments kept. -/
theorem Sched.keeps_modB (s : Sched) (h : Nat) (f : Booking → Booking) (key : ∀ b, (f b).key = b.key)
    (segs : ∀ b, (f b).segs = b.segs) : s.KeepsAt n d (s.modB h f) :=
  s.keeps_mapBookings _ (fun b => by split <;> simp [key]) (fun b => by split <;> simp [segs])

/-- Links of one slot changed, their fixed fields kept. -/
theorem Sched.keeps_modLink (s : Sched) (slot : Nat) (f : Link → Link) (fixed : ∀ l, (f l).fixed = l.fixed)
    (kept : s.Fits → ∀ l ∈ s.links, l.slot = slot →
      (f l).episodes.length ≤ 48 ∧ (f l).episodes.Nodup ∧ ∀ c ∈ (f l).count, c.remaining ≤ c.initial) :
    s.KeepsAt n d (s.modLink slot f) := by
  refine .ofFits rfl rfl fun F => ?_
  have slots : (s.modLink slot f).links.map Link.slot = s.links.map Link.slot := by
    rw [Sched.modLink, List.map_map]
    refine List.map_congr_left fun l _ => ?_
    by_cases h : l.slot = slot
    · simp [h, Link.slot_of_fixed (fixed l)]
    · simp [h]
  have each {p : Link → Prop} (changed : ∀ l ∈ s.links, l.slot = slot → p (f l)) (old : ∀ l ∈ s.links, p l) :
      ∀ l ∈ (s.modLink slot f).links, p l := by
    intro m hm
    obtain ⟨l, hl, rfl⟩ := List.mem_map.mp hm
    by_cases h : l.slot = slot
    · simpa [h] using changed l hl h
    · simpa [h] using old l hl
  exact
    { F with
      slots := slots ▸ F.slots
      slotRange := each (fun l hl _ => Link.slot_of_fixed (fixed l) ▸ F.slotRange l hl) F.slotRange
      links := (List.length_map _).symm ▸ F.links
      episodes := each (fun l hl h => (kept F l hl h).1) F.episodes
      episodesOnce := each (fun l hl h => (kept F l hl h).2.1) F.episodesOnce
      counts := each (fun l hl h => (kept F l hl h).2.2) F.counts }

/-- A record with a booking id that no entry has joins the table. -/
theorem Sched.IdsAt.insert {s : Sched} (I : s.IdsAt n) {b : Booking} (fresh : ∀ c ∈ s.bookings, c.id ≠ b.id)
    (others : b.cls = .hosted → b.id.origin ≠ n) {oc sc : Nat} :
    ({ s with bookings := insertBooking b s.bookings, orderCtr := oc, serialCtr := sc } : Sched).IdsAt n := by
  have perm := insertBooking_perm b s.bookings
  constructor
  · refine ((perm.map Booking.id).nodup_iff).mpr ?_
    rw [List.map_cons, List.nodup_cons]
    refine ⟨fun inside => ?_, I.distinct⟩
    obtain ⟨c, hc, same⟩ := List.mem_map.mp inside
    exact fresh c hc same
  · intro c hc
    rcases List.mem_cons.mp (perm.mem_iff.mp hc) with rfl | hc
    · exact others
    · exact I.hosted c hc

/-- A draft with the identifiers that the table gives it (R2 to R4). -/
def Booking.enrolled (handle order : Nat) (id : BookingId) (b : Booking) : Booking :=
  { b with handle := handle, order := order, id := id }

theorem Sched.createLocal_of_room {s : Sched} {draft : Booking} (station : Nat) (room : s.roomFor draft.cls = true) :
    s.createLocal station draft =
      { s with
        bookings := insertBooking (draft.enrolled s.nextHandle s.orderCtr ⟨station, s.nextSerial⟩) s.bookings
        orderCtr := orderAfter s.orderCtr
        serialCtr := serialAfter s.nextSerial } := if_pos room

theorem Sched.createHosted_of_room {s : Sched} {draft : Booking} (room : s.roomFor draft.cls = true) :
    s.createHosted draft =
      { s with
        bookings := insertBooking (draft.enrolled s.nextHandle s.orderCtr draft.id) s.bookings
        orderCtr := orderAfter s.orderCtr } := if_pos room

theorem Sched.keeps_createLocal (s : Sched) (draft : Booking) (locally : draft.cls ≠ .hosted) (segs : draft.segs = []) :
    s.KeepsAt n d (s.createLocal n draft) := by
  by_cases room : s.roomFor draft.cls = true
  · rw [Sched.createLocal_of_room n room]
    let b := draft.enrolled s.nextHandle s.orderCtr ⟨n, s.nextSerial⟩
    refine ⟨fun F => F.insert (b := b) room rfl (by simp [b, Booking.enrolled, segs]), fun _ => id,
      fun F I => I.insert (b := b) ?_ fun h => absurd h locally⟩
    intro c hc same
    by_cases isHosted : c.cls = .hosted
    · exact I.hosted c hc isHosted (by rw [same]; rfl)
    · exact s.nextSerial_fresh F.bookings hc isHosted (by rw [same]; rfl)
  · rw [Sched.createLocal, if_neg room]
    exact .refl s

theorem Sched.keeps_createHosted (s : Sched) (draft : Booking) (segs : draft.segs = [])
    (fresh : ∀ c ∈ s.bookings, c.id ≠ draft.id) (others : draft.id.origin ≠ n) :
    s.KeepsAt n d (s.createHosted draft) := by
  by_cases room : s.roomFor draft.cls = true
  · rw [Sched.createHosted_of_room room]
    let b := draft.enrolled s.nextHandle s.orderCtr draft.id
    exact ⟨fun F => F.insert (b := b) room rfl (by simp [b, Booking.enrolled, segs]), fun _ => id,
      fun _ I => I.insert (b := b) fresh fun _ => others⟩
  · rw [Sched.createHosted, if_neg room]
    exact .refl s

/-- An event whose own effects keep what is kept does so to its end. -/
theorem Sched.keeps_event (v : Base) (f : Ev → Ev) (s : Sched) (h : s.KeepsAt n v.cfg.depth (f (Ev.of s)).s) :
    s.KeepsAt n v.cfg.depth (s.event v f) :=
  h.trans (Ev.evolves_settle v _).keeps

theorem Ev.keeps_brokerDetached (v : Base) (e : Ev) : e.s.KeepsAt n d (e.brokerDetached v).s := by
  unfold Ev.brokerDetached
  dsimp only
  refine .trans ?_ (Ev.evolves_lostBookings v _ _).keeps
  refine .trans ?_ (Sched.evolves_orphan _ _ _).keeps
  refine .trans ?_ (Sched.keeps_marks _ [] fun _ => Nat.zero_le _)
  exact ((e.evolves_endSeeking v).trans (Sched.evolves_dropHolds _)).keeps

theorem Ev.keeps_enterDetached (v : Base) (e : Ev) : e.s.KeepsAt n d (e.enterDetached v).s :=
  e.s.evolves_emptyQueue.keeps.trans (Ev.keeps_brokerDetached v (e.on Sched.emptyQueue))

/-! ## The base -/

/-- A change of the base that keeps the configuration and the ranges. -/
structure Base.Keeps (v w : Base) : Prop where
  cfg : w.cfg = v.cfg
  fits : v.Fits → w.Fits

theorem Base.Keeps.refl (v : Base) : v.Keeps v := ⟨rfl, id⟩

theorem Base.Keeps.trans {u v w : Base} (h : u.Keeps v) (k : v.Keeps w) : u.Keeps w :=
  ⟨k.cfg.trans h.cfg, fun F => k.fits (h.fits F)⟩

/-- A change of none of the fields that the ranges speak of. -/
theorem Base.Keeps.ofSame {v w : Base}
    (h : (w.cfg, w.clock, w.frac, w.window, w.goodRun, w.incarnation, w.peers) =
      (v.cfg, v.clock, v.frac, v.window, v.goodRun, v.incarnation, v.peers)) : v.Keeps w := by
  simp only [Prod.mk.injEq] at h
  obtain ⟨cfg, clock, frac, window, goodRun, incarnation, peers⟩ := h
  exact ⟨cfg, fun F =>
    { clock := clock ▸ F.clock, frac := frac ▸ F.frac, window := window ▸ F.window, goodRun := goodRun ▸ F.goodRun,
      incarnation := incarnation ▸ F.incarnation, history := by rw [peers, cfg]; exact F.history }⟩

theorem Base.keeps_countTo (v : Base) (t : Nat) : v.Keeps (v.countTo t) := by
  unfold Base.countTo
  dsimp only
  split
  · exact .refl v
  · split
    · exact ⟨rfl, fun F => { F with clock := Nat.le_refl _, frac := (by omega : 32767 < 32768) }⟩
    · rename_i below
      exact ⟨rfl, fun F => { F with clock := Nat.le_of_not_lt below, frac := Nat.mod_lt _ (by decide) }⟩

theorem Base.keeps_tick (v : Base) : v.Keeps v.tick := by
  unfold Base.tick
  split
  · rename_i below
    exact ⟨rfl, fun F => { F with frac := below }⟩
  · split
    · rename_i below
      exact ⟨rfl, fun F => { F with clock := below, frac := (by omega : 0 < 32768) }⟩
    · exact .ofSame rfl

theorem Base.keeps_awaitIdle (v : Base) : v.Keeps v.awaitIdle := by
  unfold Base.awaitIdle
  split
  · exact .refl v
  · exact (v.keeps_countTo _).trans (.ofSame rfl)

theorem Base.keeps_rollSent (v : Base) (m : Msg) : v.Keeps (v.rollSent m) := by
  unfold Base.rollSent
  split <;> exact .ofSame rfl

theorem Base.keeps_countFrame (v : Base) (good : Bool) : v.Keeps (v.countFrame good) := by
  refine ⟨rfl, fun F => { F with window := lastN_length 16 _, goodRun := ?_ }⟩
  show (if good then min 16 (v.goodRun + 1) else 0) ≤ 16
  split
  · exact Nat.min_le_left _ _
  · exact Nat.zero_le _

/-- A peer table whose histories have the configured length (R149). -/
theorem Base.keeps_peers (v : Base) (l : List Peer)
    (h : v.Fits → ∀ p ∈ l, p.history.length ≤ v.cfg.window) : v.Keeps { v with peers := l } :=
  ⟨rfl, fun F => { F with history := h F }⟩

theorem Peer.emptyTable_history (own w : Nat) : ∀ p ∈ Peer.emptyTable own, p.history.length ≤ w := by
  intro p hp
  obtain ⟨n, -, rfl⟩ := List.mem_map.mp hp
  exact Nat.zero_le w

theorem Base.keeps_detach (v : Base) : v.Keeps v.detach :=
  (v.keeps_peers _ fun _ => Peer.emptyTable_history v.cfg.station v.cfg.window).trans (.ofSame rfl)

theorem Base.keeps_startJoining (v : Base) : v.Keeps v.startJoining := .ofSame rfl

theorem nextIncarnation_le (k : Nat) : nextIncarnation k ≤ 255 := by
  unfold nextIncarnation
  split <;> omega

theorem Base.keeps_restarting (v : Base) : v.Keeps v.restarting :=
  v.keeps_detach.trans ⟨rfl, fun F => { F with incarnation := nextIncarnation_le _ }⟩

theorem Base.keeps_restart (v : Base) : v.Keeps v.restart := by
  have detached := v.keeps_restarting.trans v.restarting.keeps_detach
  unfold Base.restart
  split
  · exact detached.trans (Base.keeps_startJoining _)
  · exact detached

theorem Peer.settled_history (w : Nat) (r : Interval) (p : Peer) : (p.settled w r).history.length ≤ w := by
  have counted : (p.count w r).history.length ≤ w := lastN_length w _
  unfold Peer.settled
  dsimp only
  split
  · exact Nat.zero_le w
  · exact counted

theorem Base.keeps_setPeer (v : Base) (p : Peer) (h : p.history.length ≤ v.cfg.window) : v.Keeps (v.setPeer p) := by
  refine v.keeps_peers _ fun F q hq => ?_
  obtain ⟨x, hx, rfl⟩ := List.mem_map.mp hq
  split
  · exact h
  · exact F.history x hx

theorem Base.keeps_shiftTimers (v : Base) (old new : Nat) : v.Keeps (v.shiftTimers old new) := by
  refine (v.keeps_peers (v.peers.map fun p => { p with deadline := p.deadline.map (shift old new) }) fun F q hq => ?_).trans
    (.ofSame rfl)
  obtain ⟨x, hx, rfl⟩ := List.mem_map.mp hq
  exact F.history x hx

/-! ## The whole state -/

/-- What every command keeps: the capacities, and with them the distinctness of booking ids. -/
structure State.Keeps (s t : State) : Prop where
  inv : s.Inv → t.Inv
  ids : s.Inv → s.Ids → t.Ids

theorem State.Keeps.refl (s : State) : s.Keeps s := ⟨id, fun _ => id⟩

theorem State.Keeps.trans {s t u : State} (h : s.Keeps t) (k : t.Keeps u) : s.Keeps u :=
  ⟨fun I => k.inv (h.inv I), fun I J => k.ids (h.inv I) (h.ids I J)⟩

theorem State.Keeps.ofParts {s t : State} (base : s.base.Keeps t.base)
    (sch : s.sch.KeepsAt s.base.cfg.station s.base.cfg.depth t.sch) : s.Keeps t where
  inv I := ⟨base.fits I.base, sch.fits I.sch, fun k => base.cfg ▸ sch.depths k (I.depths k)⟩
  ids I J := by
    rw [State.ids_iff] at J ⊢
    rw [base.cfg]
    exact sch.ids I.sch J

/-- The port, RESETN, the counter of free values and the queue have no part in it. -/
theorem State.Keeps.ofSame {s t u : State} (base : u.base = t.base) (sch : u.sch = t.sch) (h : s.Keeps t) : s.Keeps u where
  inv I := by
    obtain ⟨fits, schFits, depths⟩ := h.inv I
    exact ⟨base ▸ fits, sch ▸ schFits, by rw [base, sch]; exact depths⟩
  ids I J := by
    have := h.ids I J
    rw [State.ids_iff] at this ⊢
    rw [base, sch]
    exact this

theorem State.keeps_base (s : State) {v : Base} (h : s.base.Keeps v) : s.Keeps { s with base := v } := .ofParts h (.refl _)

theorem State.keeps_onSched (s : State) (f : Sched → Sched)
    (h : s.sch.KeepsAt s.base.cfg.station s.base.cfg.depth (f s.sch)) : s.Keeps (s.onSched f) := .ofParts (.refl _) h

theorem State.keeps_event' (s : State) (f : Ev → Ev)
    (h : s.sch.KeepsAt s.base.cfg.station s.base.cfg.depth (f (Ev.of s.sch)).s) : s.Keeps (s.event f) :=
  s.keeps_onSched _ (Sched.keeps_event s.base f s.sch h)

theorem State.keeps_event (s : State) (f : Ev → Ev) (h : ∀ e : Ev, e.s.EvolvesIn s.base.cfg.depth (f e).s) :
    s.Keeps (s.event f) := s.keeps_event' f (h (Ev.of s.sch)).keeps

/-- An answer taken before the late events leaves what the event leaves. -/
theorem State.answerEvent_s (s : State) (f : Ev → Ev) (r : Sched → List Byte) : (s.answerEvent f r).s = s.event f := rfl

theorem State.keeps_answerEvent (s : State) (f : Ev → Ev) (r : Sched → List Byte)
    (h : ∀ e : Ev, e.s.EvolvesIn s.base.cfg.depth (f e).s) : s.Keeps (s.answerEvent f r).s := s.keeps_event f h

/-- A fold of parts each of which keeps it does so. -/
theorem State.keeps_foldl {α β : Type} (st : α → State) (f : α → β → α) (h : ∀ a b, (st a).Keeps (st (f a b))) :
    ∀ (l : List β) (a : α), (st a).Keeps (st (l.foldl f a))
  | [], _ => .refl _
  | b :: l, a => (h a b).trans (State.keeps_foldl st f h l (f a b))

theorem State.keeps_passing (s : State) (f : Base → Base) (h : s.base.Keeps (f s.base)) : s.Keeps (s.passing f) := by
  refine s.keeps_base ?_
  split
  · exact h.trans (.ofSame rfl)
  · exact h

theorem State.keeps_countTo (s : State) (t : Nat) : s.Keeps (s.countTo t) := s.keeps_passing _ (s.base.keeps_countTo t)

theorem State.keeps_idle (s : State) : s.Keeps s.idle := by
  unfold State.idle
  split
  · exact .refl s
  · exact s.keeps_passing _ s.base.keeps_tick

theorem State.keeps_request {c : Nat} {f : State → Answer} {s t : State} (h : s.request c f = .next t)
    (k : s.Keeps (f s).s) : s.Keeps t := by
  obtain rfl | rfl | rfl := State.request_cases h
  · exact .refl _
  · exact .ofSame (t := s) rfl rfl (.refl s)
  · exact .ofSame (t := (f s).s) rfl rfl k

theorem State.keeps_happens {f : State → State} {s t : State} (h : s.happens f = .next t) (k : s.Keeps (f s)) :
    s.Keeps t := by
  obtain rfl | rfl := State.happens_cases h
  · exact .refl _
  · exact k

theorem State.keeps_atInstant {due : State → Option Nat} {f : State → State} {s t : State}
    (h : s.atInstant due f = .next t) (k : ∀ u : State, u.Keeps (f u)) : s.Keeps t := by
  obtain rfl | ⟨u, -, rfl⟩ := State.atInstant_cases h
  · exact .refl _
  · exact (s.keeps_countTo u).trans (k _)

/-- A time-driven event of the scheduling blocks. -/
theorem State.keeps_atInstant_event {due : State → Option Nat} {f : State → Ev → Ev} {s t : State}
    (h : s.atInstant due (fun s => s.event (f s)) = .next t)
    (k : ∀ (u : State) (e : Ev), e.s.EvolvesIn u.base.cfg.depth (f u e).s) : s.Keeps t :=
  State.keeps_atInstant h fun u => u.keeps_event _ (k u)

end Sys2Proof.Machine
end

section
/-! Every command keeps the capacities and the distinctness of booking ids. -/

namespace Sys2Proof.Machine

variable {n d : Nat}

/-! ## The wire -/

theorem length_flatMap_le {α β : Type} (f : α → List β) (h : ∀ a, (f a).length ≤ 1) :
    ∀ l : List α, (l.flatMap f).length ≤ l.length
  | [] => Nat.le_refl _
  | a :: l => by
    have := length_flatMap_le f h l
    have := h a
    rw [List.flatMap_cons, List.length_append, List.length_cons]
    omega

theorem modFirst_length (q : QMsg) (f : QMsg → QMsg) : ∀ l, (modFirst q f l).length = l.length
  | [] => rfl
  | x :: l => by
    unfold modFirst
    split
    · rfl
    · rw [List.length_cons, modFirst_length q f l, List.length_cons]

theorem Sched.evolves_sentOff (s : Sched) : s.EvolvesIn d s.sentOff := by
  have short : (s.txq.flatMap fun q => if q.att then s.waitingRoll.toList else [q]).length ≤ s.txq.length :=
    length_flatMap_le _ (fun q => by
      split
      · cases s.waitingRoll <;> simp
      · exact Nat.le_refl _) _
  exact (s.evolves_txq _ (Nat.le_trans short)).trans (.ofSpoken rfl)

theorem Sched.evolves_told (v : Base) (m : Msg) (later : List QMsg) (s : Sched) : s.EvolvesIn d (s.told v m later) := by
  unfold Sched.told
  split
  · split
    · exact s.evolves_engine _
    · exact .refl s
  · split
    · exact s.evolves_engine _
    · exact .refl s
  · exact s.evolves_tallies _ (Nat.le_trans (List.length_filter_le _ _))
  · exact .refl s

theorem Sched.evolves_failedOff (v : Base) (s : Sched) : s.EvolvesIn d (s.failedOff v) := by
  have short : (s.txq.flatMap fun q =>
      if q.att then
        match s.waitingRoll with
        | some r => [r]
        | none => if q.bidOver v then [] else [{ q with att := false }]
      else [q]).length ≤ s.txq.length :=
    length_flatMap_le _ (fun q => by
      split
      · split
        · exact Nat.le_refl _
        · split <;> simp
      · exact Nat.le_refl _) _
  have off : s.EvolvesIn d { s with
      txq := s.txq.flatMap fun q =>
        if q.att then
          match s.waitingRoll with
          | some r => [r]
          | none => if q.bidOver v then [] else [{ q with att := false }]
        else [q]
      waitingRoll := none
      attempt := none } := (s.evolves_txq _ (Nat.le_trans short)).trans (.ofSpoken rfl)
  unfold Sched.failedOff
  dsimp only
  split
  · split
    · exact off.trans (Sched.evolves_dropHoldOf _ _)
    · exact off
  · exact off

theorem Sched.evolves_dropBids (v : Base) (i : BookingId) (s : Sched) : s.EvolvesIn d (s.dropBids v i) :=
  (s.evolves_txq _ (Nat.le_trans (List.length_filter_le _ _))).trans
    (Sched.EvolvesIn.foldl _ (fun s q => s.evolves_dropHoldOf q) _ _)

theorem Sched.evolves_linkFaultNotice (v w : Base) (s : Sched) : s.EvolvesIn d (s.linkFaultNotice v w) := by
  unfold Sched.linkFaultNotice
  split
  · exact .refl s
  · exact s.evolves_notice _

theorem State.keeps_startAttempt (s : State) : s.Keeps s.startAttempt := by
  unfold State.startAttempt
  split
  · refine .ofParts (s.base.keeps_awaitIdle.trans (.ofSame rfl)) (Sched.EvolvesIn.keeps ?_)
    refine (s.sch.evolves_txq _ fun h => ?_).trans (.ofSpoken rfl)
    exact (modFirst_length _ _ _).symm ▸ h
  · exact .refl s

theorem State.keeps_goDetached (cause : StationCause) (s : State) : s.Keeps (s.goDetached cause) := by
  refine (s.keeps_base s.base.keeps_detach).trans (State.keeps_event' _ _ ?_)
  refine Sched.KeepsAt.trans ?_ (Sched.evolves_notice _ _).keeps
  refine Sched.KeepsAt.trans ?_ (Ev.evolves_finish _ _).keeps
  exact Ev.keeps_enterDetached _ (Ev.of s.sch)

theorem State.keeps_drain (s : State) : s.Keeps s.drain := by
  unfold State.drain
  split
  · exact s.keeps_goDetached _
  · exact .refl s

theorem State.keeps_attemptSent (s : State) : s.Keeps s.attemptSent := by
  unfold State.attemptSent
  split
  · refine .trans (.ofParts ((s.base.keeps_rollSent _).trans (.ofSame rfl)) ?_) (State.keeps_drain _)
    exact (s.sch.evolves_sentOff.trans (Sched.evolves_told _ _ _ _)).keeps
  · exact .refl s

theorem State.keeps_attemptFails (s : State) : s.Keeps s.attemptFails := by
  unfold State.attemptFails
  split
  · refine State.Keeps.trans ?_ (State.keeps_drain _)
    exact .ofParts (.ofSame rfl) (s.sch.evolves_failedOff _).keeps
  · exact .refl s

theorem State.keeps_yieldWire (s : State) : s.Keeps s.yieldWire :=
  s.keeps_attemptFails.trans (State.keeps_base _ (.ofSame rfl))

theorem State.keeps_countFrame (good : Bool) (s : State) : s.Keeps (s.countFrame good) :=
  .ofParts (s.base.keeps_countFrame good) (s.sch.evolves_linkFaultNotice _ _).keeps

theorem State.keeps_goIsolated (s : State) : s.Keeps s.goIsolated := by
  unfold State.goIsolated
  dsimp only
  refine State.Keeps.trans ?_ (State.keeps_event _ _ fun e => ?_)
  · exact s.keeps_base (.ofSame rfl)
  refine Sched.EvolvesIn.trans ?_ (Sched.evolves_notice _ _)
  refine Sched.EvolvesIn.trans ?_ (Ev.evolves_finish _ _)
  refine Sched.EvolvesIn.trans ?_ (Ev.evolves_brokerIsolated _ _)
  exact Sched.evolves_emptyQueue _

/-- A frame keeps it where what a message that passes the checks does so; that message is well formed and of another
station (R136). -/
theorem State.keeps_receive (h : FrameHead) (c : FrameCheck) (handOn : State → State) (s : State)
    (k : ∀ u : State, c.good = true → h.sender ≠ u.base.cfg.station → u.Keeps (handOn u)) :
    s.Keeps (s.receive h c handOn) := by
  have heard (good : Bool) : s.Keeps (s.yieldWire.countFrame good) :=
    s.keeps_yieldWire.trans (State.keeps_countFrame good _)
  unfold State.receive
  dsimp only
  split
  · exact s.keeps_yieldWire
  · split
    · exact heard false
    · rename_i good
      split
      · exact heard true
      · split
        · split
          · exact (heard true).trans (State.keeps_goIsolated _)
          · exact heard true
        · rename_i other
          split
          · exact heard true
          · split
            · exact s.keeps_yieldWire
            · exact (heard true).trans (k _ (by simpa using good) other)

/-- A message whose effect is one event of the scheduling blocks. -/
theorem State.keeps_receive_event (h : FrameHead) (c : FrameCheck) (f : State → Ev → Ev) (s : State)
    (k : ∀ (u : State) (e : Ev), e.s.EvolvesIn u.base.cfg.depth (f u e).s) :
    s.Keeps (s.receive h c fun s => s.event (f s)) :=
  s.keeps_receive h c _ fun u _ _ => u.keeps_event _ (k u)

/-! ## Requests of the Booking Table, series links and the guide -/

theorem State.withBooking_cases (h : Nat) (expect : Option BookingId) (f : Booking → State → Answer) (s : State) :
    (∃ c, s.withBooking h expect f = s.refuse c) ∨ ∃ b, s.withBooking h expect f = f b s := by
  unfold State.withBooking
  split
  · exact .inl ⟨_, rfl⟩
  · exact .inr ⟨_, rfl⟩

theorem State.keeps_withBooking (h : Nat) (expect : Option BookingId) (f : Booking → State → Answer) (s : State)
    (k : ∀ b, s.Keeps (f b s).s) : s.Keeps (s.withBooking h expect f).s := by
  obtain ⟨c, e⟩ | ⟨b, e⟩ := s.withBooking_cases h expect f
  · rw [e]
    exact .refl s
  · rw [e]
    exact k b

theorem bookDraft_local (f : BookFields) : (bookDraft f).cls ≠ .hosted := by
  show (if f.event.isSome then BClass.event else BClass.manual) ≠ .hosted
  split <;> nofun

theorem State.keeps_book (f : BookFields) (s : State) : s.Keeps (s.book f).s := by
  unfold State.book
  split
  · exact .refl s
  · dsimp only
    rw [State.answerEvent_s]
    refine s.keeps_event' _ ?_
    refine Sched.KeepsAt.trans ?_ (Ev.evolves_place s.base Open.new s.sch.nextHandle _).keeps
    exact s.sch.keeps_createLocal (bookDraft f) (bookDraft_local f) rfl

theorem State.keeps_amendEntry (f : AmendFields) (b : Booking) (s : State) : s.Keeps (s.amendEntry f b).s := by
  unfold State.amendEntry
  split
  · exact .refl s
  · rw [State.answerEvent_s]
    refine s.keeps_event' _ (.trans ?_ (Ev.evolves_afterAmend s.base f b ((Ev.of s.sch).on _)).keeps)
    exact s.sch.keeps_modB _ _ (fun _ => rfl) (fun _ => rfl)

theorem State.keeps_cancelEntry (b : Booking) (s : State) : s.Keeps (s.cancelEntry b).s := by
  unfold State.cancelEntry
  split
  · exact .refl s
  · exact s.keeps_event _ (Ev.evolves_cancel _ _ _)

theorem State.keeps_resolve (decision : Nat) (b : Booking) (s : State) : s.Keeps (s.resolve decision b).s := by
  unfold State.resolve
  split
  · exact .refl s
  · split
    · exact .refl s
    · exact s.keeps_answerEvent _ _ (Ev.evolves_resolve _ _ _)

theorem State.nextBooking_s (start : Option StartAt) (filter : Nat) (s : State) : (s.nextBooking start filter).s = s := by
  unfold State.nextBooking
  split
  · rfl
  · split
    · rfl
    · split <;> rfl

theorem State.readLink_s (key : LinkKey) (s : State) : (s.readLink key).s = s := by
  unfold State.readLink
  dsimp only
  split
  · split <;> rfl
  · split
    · rfl
    · split <;> rfl
  · rfl

/-- A check that passes: its refusal's condition fails, and the checks after it pass. -/
theorem check_passes {p : Prop} [Decidable p] {c : Code} {later : Option Code}
    (passes : (if p then some c else later) = none) : ¬p ∧ later = none := by
  split at passes
  · cases passes
  · exact ⟨‹_›, passes⟩

theorem State.keeps_link (f : LinkFields) (s : State) : s.Keeps (s.link f).s := by
  unfold State.link
  split
  · exact .refl s
  · rename_i passes
    have room : s.sch.links.length < 32 := by
      unfold State.linkRefusal at passes
      obtain ⟨-, passes⟩ := check_passes passes
      obtain ⟨-, passes⟩ := check_passes passes
      obtain ⟨-, passes⟩ := check_passes passes
      obtain ⟨room, -⟩ := check_passes passes
      exact Nat.lt_of_not_le room
    dsimp only
    rw [State.done_s]
    refine State.keeps_onSched s _ ?_
    exact .ofFits rfl rfl fun F => F.insertLink room rfl rfl (LinkFields.draft_counts f _ _)

theorem unlinkOne_keeps (i : LinkId) (p : State × Nat × Nat) (h : Nat) : p.1.Keeps (unlinkOne i p h).1 := by
  unfold unlinkOne
  split
  · exact .refl _
  · split
    · exact .refl _
    · split
      · exact .refl _
      · exact p.1.keeps_event _ (Ev.evolves_cancel _ _ _)

theorem Sched.Fits.filterLinks {s : Sched} (F : s.Fits) (p : Link → Bool) :
    ({ s with links := s.links.filter p } : Sched).Fits :=
  have old {l : Link} (h : l ∈ s.links.filter p) : l ∈ s.links := (List.mem_filter.mp h).1
  { F with
    slots := F.slots.sublist (List.filter_sublist.map _)
    slotRange := fun l h => F.slotRange l (old h)
    links := Nat.le_trans (List.length_filter_le _ _) F.links
    episodes := fun l h => F.episodes l (old h)
    episodesOnce := fun l h => F.episodesOnce l (old h)
    counts := fun l h => F.counts l (old h) }

theorem State.keeps_unlink (i : LinkId) (s : State) : s.Keeps (s.unlink i).s := by
  unfold State.unlink
  split
  · have ended := State.keeps_foldl (fun p : State × Nat × Nat => p.1) (unlinkOne i) (unlinkOne_keeps i) (s.sch.ofLink i)
      (s, 0, 0)
    dsimp only
    rw [State.done_s]
    refine State.Keeps.trans ended ?_
    refine State.keeps_onSched _ _ ?_
    exact .ofFits rfl rfl fun F => F.filterLinks _
  · exact .refl s

theorem guideOne_keeps (f : GuideFields) (p : State × Nat × Nat) (h : Nat) : p.1.Keeps (guideOne f p h).1 := by
  unfold guideOne
  dsimp only
  split
  · exact .refl _
  · rename_i b _
    split
    · exact .refl _
    · split
      · split
        · exact .refl _
        · exact p.1.keeps_event _ (Ev.evolves_cancel _ _ _)
      · split
        · refine p.1.keeps_event' _ (.trans ?_ (Ev.evolves_afterMove p.1.base f b ((Ev.of p.1.sch).on _)).keeps)
          exact p.1.sch.keeps_modB _ _ (fun b => by unfold Booking.guided; split <;> rfl)
            (fun b => by unfold Booking.guided; split <;> rfl)
        · exact .refl _

theorem State.keeps_guideStep1 (f : GuideFields) (s : State) : s.Keeps (s.guideStep1 f).1 := by
  have changed := State.keeps_foldl (fun p : State × Nat × Nat => p.1) (guideOne f) (guideOne_keeps f)
    ((s.sch.bookings.filter (reached f)).map (·.handle)) (s, 0, 0)
  unfold State.guideStep1
  dsimp only
  split
  · exact changed
  · refine State.Keeps.trans changed (State.keeps_event _ _ fun e => ?_)
    exact .refl _

/-- An episode list keeps its bound and holds no code twice when a code that it lacks joins it (R45). -/
theorem addEpisode_kept {episode : Option Nat} {l : List Nat} (short : l.length ≤ 48) (once : l.Nodup)
    (fresh : ∀ c ∈ episode, c ∉ l) : (addEpisode episode l).length ≤ 48 ∧ (addEpisode episode l).Nodup := by
  cases episode with
  | none => exact ⟨short, once⟩
  | some c =>
    have new : c ∉ l := fresh c rfl
    have head : (if 48 ≤ l.length then l.tail else l).length < 48 ∧ (if 48 ≤ l.length then l.tail else l).Sublist l := by
      split
      · exact ⟨by rw [List.length_tail]; omega, List.tail_sublist l⟩
      · exact ⟨by omega, List.Sublist.refl l⟩
    obtain ⟨room, sub⟩ := head
    show ((if 48 ≤ l.length then l.tail else l) ++ [c]).length ≤ 48 ∧ ((if 48 ≤ l.length then l.tail else l) ++ [c]).Nodup
    refine ⟨by rw [List.length_append, List.length_singleton]; omega, ?_⟩
    exact List.pairwise_append.mpr ⟨once.sublist sub, List.pairwise_singleton _ c, fun x hx y hy same =>
      new (List.mem_singleton.mp hy ▸ same ▸ sub.subset hx)⟩

/-- The link at a slot is the only one of its slot. -/
theorem Sched.Fits.link_unique {s : Sched} (F : s.Fits) {l m : Link} (hl : l ∈ s.links) (hm : m ∈ s.links)
    (same : m.slot = l.slot) : m = l :=
  eq_of_map_nodup (f := Link.slot) (F.slots.imp Nat.ne_of_lt) hm hl same

theorem Ev.keeps_createEpisode (v : Base) (f : GuideFields) (l : Link) (e : Ev) (inside : l ∈ e.s.links)
    (fresh : ∀ c ∈ f.episode, c ∉ l.episodes) :
    e.s.KeepsAt v.cfg.station d (e.createEpisode v f l).s := by
  let e' := e.on fun s => (s.createLocal v.cfg.station (Link.draft f l)).modLink l.slot (Link.spent f)
  have links : (e.s.createLocal v.cfg.station (Link.draft f l)).links = e.s.links := by
    unfold Sched.createLocal
    split <;> rfl
  have made : e.s.KeepsAt v.cfg.station d e'.s := by
    have created : e.s.KeepsAt v.cfg.station d (e.s.createLocal v.cfg.station (Link.draft f l)) :=
      e.s.keeps_createLocal (Link.draft f l) (by nofun) rfl
    refine created.trans (Sched.keeps_modLink _ l.slot _ (fun _ => rfl) fun F m hm same => ?_)
    have one : m = l := F.link_unique (links.symm ▸ inside) hm same
    rw [one] at hm ⊢
    obtain ⟨short, once⟩ := addEpisode_kept (F.episodes l hm) (F.episodesOnce l hm) fresh
    refine ⟨short, once, fun c hc => ?_⟩
    obtain ⟨k, hk, rfl⟩ := Option.map_eq_some_iff.mp hc
    exact Nat.le_trans (Nat.sub_le _ _) (F.counts l hm k hk)
  have placed := made.trans (Ev.evolves_placeEpisode v l.series e.s.nextHandle e').keeps
  have told := placed.trans (Sched.evolves_episodeNotice e.s.nextHandle l f.event _).keeps
  unfold Ev.createEpisode
  dsimp only
  split
  · exact told.trans (Sched.evolves_notice _ _).keeps
  · exact told

theorem Sched.keeps_meetFull (f : GuideFields) (l : Link) (s : Sched) : s.KeepsAt n d (s.meetFull f l) := by
  have marked : s.KeepsAt n d (s.modLink l.slot fun l => { l with backlog := true }) :=
    (s.evolves_links _ (fun m => by split <;> rfl) (fun m h => by split <;> exact h) (fun m h => by split <;> exact h)
      (fun m h => by split <;> exact h)).keeps
  unfold Sched.meetFull
  dsimp only
  split
  · exact marked
  · exact marked.trans (Sched.evolves_notice _ _).keeps

theorem matchOne_keeps (f : GuideFields) (p : State × Nat × Nat) (slot : Nat) : p.1.Keeps (matchOne f p slot).1 := by
  unfold matchOne
  split
  · exact .refl _
  · rename_i l found
    split
    · exact .refl _
    · rename_i taken
      split
      · refine p.1.keeps_event' _ (Ev.keeps_createEpisode p.1.base f l (Ev.of p.1.sch) (List.mem_of_find?_eq_some found) fun c hc inside => ?_)
        refine taken ?_
        have : f.episode.any (fun c => l.episodes.contains c) = true := by
          rw [Option.mem_def.mp hc]
          simpa using inside
        simp only [State.skips, this, Bool.or_true, Bool.true_or]
      · exact State.keeps_onSched _ _ (Sched.keeps_meetFull f l _)

theorem State.keeps_guideStep2 (f : GuideFields) (s : State) : s.Keeps (s.guideStep2 f).1 := by
  unfold State.guideStep2
  split
  · exact .refl s
  · exact State.keeps_foldl (fun p : State × Nat × Nat => p.1) (matchOne f) (matchOne_keeps f) _ (s, 0, 0)

theorem State.keeps_guideEvent (f : GuideFields) (s : State) : s.Keeps (s.guideEvent f).s := by
  unfold State.guideEvent
  split
  · exact .refl s
  · split
    · exact .refl s
    · exact (s.keeps_guideStep1 f).trans (State.keeps_guideStep2 f _)

/-! ## The clock, running status and live viewing -/

theorem Sched.keeps_shiftTimers (s : Sched) (old new : Nat) : s.KeepsAt n d (s.shiftTimers old new) := by
  have records : s.KeepsAt n d
      { s with bookings := s.bookings.map fun b => { b with confirm := b.confirm.map (shift old new) } } :=
    s.keeps_mapBookings _ (fun _ => rfl) (fun _ => rfl)
  refine records.trans (.ofFits rfl rfl fun F =>
    { F with
      capturesA := F.capturesA
      capturesB := F.capturesB
      seekQueue := (List.length_map _).symm ▸ F.seekQueue
      holds := (List.length_map _).symm ▸ F.holds
      txq := (List.length_map _).symm ▸ F.txq })

theorem State.keeps_setTime (s : State) {time : Nat} (h : time ≤ clockMax) : s.Keeps (s.setTime time) := by
  refine .ofParts ?_ (s.sch.keeps_shiftTimers _ _)
  exact (s.base.keeps_shiftTimers _ _).trans ⟨rfl, fun F => { F with clock := h, frac := (by omega : 0 < 32768) }⟩

theorem State.keeps_fireDue (s : State) : s.Keeps s.fireDue :=
  s.keeps_onSched _ (settleIn_evolves _ _ _ _).keeps

theorem forwardOne_keeps (old : Nat) (s : State) (h : Nat) : s.Keeps (forwardOne old s h) := by
  unfold forwardOne
  dsimp only
  split
  · exact .refl s
  · split
    · exact s.keeps_event _ (Ev.evolves_endAt _ _ _ _ _)
    · split
      · exact s.keeps_event _ (Ev.evolves_gap _ _ _)
      · exact .refl s

theorem State.keeps_forward (old : Nat) (s : State) : s.Keeps (s.forward old) := by
  have interrupted : s.Keeps (s.onSched (Sched.interrupt old)) := s.keeps_onSched _ (Sched.evolves_interrupt old _).keeps
  refine interrupted.trans (State.Keeps.trans ?_ (State.keeps_fireDue _))
  exact State.keeps_foldl id (forwardOne old) (forwardOne_keeps old) _ _

theorem backwardOne_keeps (s : State) (h : Nat) : s.Keeps (backwardOne s h) := by
  unfold backwardOne
  split
  · exact .refl s
  · exact s.keeps_event _ (Ev.evolves_back _ _)

theorem State.keeps_backward (s : State) : s.Keeps s.backward :=
  State.keeps_foldl id backwardOne backwardOne_keeps _ s

theorem State.keeps_setClock (time : Nat) (s : State) : s.Keeps (s.setClock time).s := by
  unfold State.setClock
  split
  · exact .refl s
  · rename_i range
    have set : s.Keeps (s.setTime time) := s.keeps_setTime (by unfold clockMax; omega)
    dsimp only
    rw [State.done_s]
    split
    · exact set
    · exact set.trans (State.keeps_fireDue _)
    · exact set.trans (State.keeps_forward _ _)
    · exact set.trans (State.keeps_backward _)

theorem State.keeps_running (service event status : Nat) (s : State) : s.Keeps (s.running service event status).s := by
  unfold State.running
  split
  · exact .refl s
  · dsimp only
    rw [State.done_s]
    split
    · exact .refl s
    · exact s.keeps_event _ fun e => Ev.evolves_foldl _ (fun e h => e.evolves_statusOf _ _ _ _ h) _ e

theorem State.readDirective_keeps (k : Nat) (s : State) : s.Keeps (s.readDirective k).s := by
  unfold State.readDirective
  split
  · exact .refl s
  · split
    · exact .refl s
    · dsimp only
      rw [State.done_s]
      refine s.keeps_onSched _ (Sched.EvolvesIn.keeps (Sched.evolves_mark _ _ _ ?_))
      exact fun _ => rfl

theorem State.keeps_tunerReport (k serial status : Nat) (s : State) : s.Keeps (s.tunerReport k serial status).s := by
  unfold State.tunerReport
  split
  · exact .refl s
  · split
    · exact .refl s
    · dsimp only
      split
      · exact .refl s
      · exact s.keeps_answerEvent _ _ (Ev.evolves_report _ _ _)

theorem State.keeps_powerBudget (k : Nat) (s : State) : s.Keeps (s.powerBudget k).s := by
  unfold State.powerBudget
  split
  · exact .refl s
  · rw [State.answerEvent_s]
    refine s.keeps_event' _ ?_
    refine Sched.KeepsAt.trans ?_ (Ev.evolves_choose _ _ _).keeps
    exact s.sch.keeps_budget (by omega)

theorem State.keeps_holdLive (mux service force : Nat) (s : State) : s.Keeps (s.holdLive mux service force).s := by
  unfold State.holdLive
  split
  · exact .refl s
  · exact .refl s
  · dsimp only
    split
    · exact .refl s
    · exact s.keeps_answerEvent _ _ (Ev.evolves_holdLive _ _ _ _)

theorem State.keeps_releaseLive (s : State) : s.Keeps s.releaseLive.s := by
  unfold State.releaseLive
  split
  · exact .refl s
  · exact s.keeps_event _ (Ev.evolves_releaseHold _)

/-! ## Station life -/

/-- A change of the base and then of the rest. -/
theorem State.keeps_baseThen (s : State) {v : Base} {t : State} (base : s.base.Keeps v)
    (rest : ({ s with base := v } : State).Keeps t) : s.Keeps t := (s.keeps_base base).trans rest

/-- Both stacks are evicted down to a limit (R123). -/
theorem Sched.evictBoth_depths (kind : EvictKind) (k : Nat) (s : Sched) (t : Tuner) :
    (((s.evictDown .A kind k).evictDown .B kind k).stacked.get t).length ≤ k := by
  cases t with
  | A => exact (Sched.evolves_evictDown .B kind k (s.evictDown .A kind k)).depths .A (s.evictDown_length .A kind k)
  | B => exact (s.evictDown .A kind k).evictDown_length .B kind k

/-- What CONFIGURE does after the evictions that the new depth limit calls for (R191). -/
theorem Ev.evolves_reconfigure (v : Base) (old : Settings) (e : Ev) :
    ((e.s.evictDown .A .configure v.cfg.depth).evictDown .B .configure v.cfg.depth).EvolvesIn v.cfg.depth
      (e.reconfigure v old).s := by
  let e₁ := e.on fun s => (s.evictDown .A .configure v.cfg.depth).evictDown .B .configure v.cfg.depth
  let e₂ := if v.cfg.fitted = old.fitted then e₁ else e₁.refit v
  have refitted : e₁.s.EvolvesIn v.cfg.depth e₂.s := by
    unfold e₂
    split
    · exact .refl _
    · exact e₁.evolves_refit v
  unfold Ev.reconfigure
  dsimp only
  split
  · exact refitted
  · exact refitted.trans (Ev.evolves_armAll v e₂)

/-- CONFIGURE leaves the stacks within the new depth limit, whatever they held (R123, R191). -/
theorem Ev.configure_kept (v : Base) (c : Settings) (e : Ev) :
    (e.s.Fits → (e.configure v c).s.Fits) ∧ (∀ k, ((e.configure v c).s.stacked.get k).length ≤ c.depth) ∧
      (e.s.Fits → e.s.IdsAt n → (e.configure v c).s.IdsAt n) := by
  have from_detached (e₁ : Ev) (t : Sched) (detached : e.s.KeepsAt n c.depth e₁.s)
      (last : ((e₁.reconfigure (v.configured c) v.cfg).finish (v.configured c)).s.EvolvesIn c.depth t) :
      (e.s.Fits → t.Fits) ∧ (∀ k, (t.stacked.get k).length ≤ c.depth) ∧ (e.s.Fits → e.s.IdsAt n → t.IdsAt n) := by
    have evicted := (Sched.evolves_evictDown (d := c.depth) .A .configure c.depth e₁.s).trans
      (Sched.evolves_evictDown .B .configure c.depth _)
    have finished := (Ev.evolves_reconfigure (v.configured c) v.cfg e₁).trans (Ev.evolves_finish (v.configured c) _)
    have rest := finished.trans last
    have whole := (detached.trans evicted.keeps).trans rest.keeps
    exact ⟨whole.fits, fun k => rest.depths k (Sched.evictBoth_depths _ _ _ k), whole.ids⟩
  unfold Ev.configure
  by_cases isolated : (v.station == .isolated) = true
  · simp only [isolated, if_true]
    exact from_detached _ _ (e.keeps_enterDetached _) (Sched.evolves_notice _ _)
  · simp only [isolated]
    exact from_detached _ _ (.refl _) (.refl _)

theorem State.keeps_configure (c : ConfigFields) (s : State) : s.Keeps (s.configure c).s := by
  unfold State.configure
  split
  · exact .refl s
  · rename_i passes
    have others : ∀ b ∈ s.sch.bookings, b.cls = .hosted → b.id.origin ≠ c.station := by
      unfold State.configureRefusal at passes
      obtain ⟨-, passes⟩ := check_passes passes
      obtain ⟨-, passes⟩ := check_passes passes
      obtain ⟨named, -⟩ := check_passes passes
      intro b hb isHosted same
      exact named (List.any_eq_true.mpr ⟨b, hb, by simp [Booking.hosted, isHosted, same]⟩)
    let v := s.base.configured (settingsOf c)
    have fits (F : s.base.Fits) : v.Fits :=
      { clock := F.clock, frac := F.frac, window := F.window, goodRun := F.goodRun, incarnation := F.incarnation
        history := Peer.emptyTable_history _ _ }
    obtain ⟨schFits, depths, ids⟩ := Ev.configure_kept (n := c.station) s.base (settingsOf c) (Ev.of s.sch)
    have settled := Ev.evolves_settle v ((Ev.of s.sch).configure s.base (settingsOf c))
    have settledIds := settled.keeps (n := c.station)
    rw [State.done_s]
    constructor
    · exact fun I => ⟨fits I.base, settled.fits (schFits I.sch), fun k => settled.depths k (depths k)⟩
    · intro I J
      rw [State.ids_iff] at J ⊢
      exact settledIds.ids (schFits I.sch) (ids I.sch ⟨J.distinct, others⟩)

theorem Sched.evolves_offerRoll (v : Base) (s : Sched) : s.EvolvesIn d (s.offerRoll v) := s.evolves_offer v _ _ _

theorem State.keeps_join (s : State) : s.Keeps s.join.s := by
  unfold State.join
  split
  · exact .refl s
  · dsimp only
    rw [State.done_s]
    refine s.keeps_baseThen s.base.keeps_startJoining (State.keeps_onSched _ _ (Sched.EvolvesIn.keeps ?_))
    exact (Sched.evolves_offerRoll _ _).trans (Sched.evolves_notice _ _)

theorem State.keeps_enterJoined (s : State) : s.Keeps s.enterJoined := by
  unfold State.enterJoined
  dsimp only
  refine s.keeps_baseThen (v := { s.base with station := .joined, joinTimer := none }.startRoll) (.ofSame rfl) ?_
  refine State.keeps_event _ _ fun e => ?_
  refine Sched.EvolvesIn.trans ?_ (Sched.evolves_notice _ _)
  refine Sched.EvolvesIn.trans ?_ (Ev.evolves_finish _ _)
  exact e.s.evolves_offerRoll _

theorem State.keeps_leave (s : State) : s.Keeps s.leave.s := by
  unfold State.leave
  split
  · dsimp only
    rw [State.done_s]
    refine s.keeps_baseThen (v := s.base.startLeaving) (.ofSame rfl) ?_
    refine State.keeps_event _ _ fun e => ?_
    rw [Ev.on_s]
    refine Sched.EvolvesIn.trans ?_ (Sched.evolves_notice _ _)
    refine Sched.EvolvesIn.trans ?_ (Sched.evolves_offerRoll _ _)
    refine Sched.EvolvesIn.trans ?_ (Ev.evolves_finish _ _)
    exact e.evolves_brokerLeaving _
  · exact .refl s

theorem State.keeps_rollExpires (s : State) : s.Keeps s.rollExpires := by
  unfold State.rollExpires
  dsimp only
  let next := s.base.rollTimer.map (· + s.base.cfg.rollPeriod * unit)
  refine s.keeps_baseThen (v := { s.base with rollTimer := next }) (.ofSame rfl) ?_
  refine State.keeps_onSched _ _ (Sched.EvolvesIn.keeps ?_)
  exact (Sched.evolves_offerRoll _ _).trans (Sched.evolves_offerTallies _ _ _)

theorem Base.restart_cfg (v : Base) : v.restart.cfg = v.cfg := v.keeps_restart.cfg

theorem Ev.keeps_restartStation (v : Base) (was : StationState) (e : Ev) :
    e.s.KeepsAt n d (e.restartStation v was).s := by
  have joins : e.s.KeepsAt n d ((e.on Sched.emptyQueue).on (Sched.offerRoll v)).s :=
    (e.s.evolves_emptyQueue.trans (Sched.evolves_offerRoll v _)).keeps
  have leaves : e.s.KeepsAt n d ((e.enterDetached v).finish v).s :=
    (e.keeps_enterDetached v).trans (Ev.evolves_finish v _).keeps
  unfold Ev.restartStation
  split
  · exact joins
  · exact joins
  · exact leaves
  · exact leaves
  · exact .refl _

theorem Ev.keeps_restartAll (v : Base) (e : Ev) : e.s.KeepsAt n v.cfg.depth (e.restartAll v).s := by
  have stationed : e.s.KeepsAt n v.cfg.depth ((e.restart v.restarting).restartStation v.restart v.station).s :=
    (Ev.evolves_restart v.restarting e).keeps.trans (Ev.keeps_restartStation _ _ _)
  unfold Ev.restartAll
  dsimp only
  split
  · exact stationed
  · exact stationed.trans (Sched.evolves_notice _ _).keeps

theorem Sched.keeps_brokerRestart (s : Sched) : s.KeepsAt n d s.brokerRestart :=
  .ofFits rfl rfl fun F =>
    { F with seekQueue := Nat.zero_le _, holds := Nat.zero_le _, lapsed := Nat.zero_le _, marks := Nat.zero_le _ }

theorem State.keeps_restart (s : State) : s.Keeps s.restart.s := by
  unfold State.restart
  dsimp only
  rw [State.done_s]
  have emptied : s.Keeps { s with base := s.base.restart, sch := s.sch.emptyQueue.brokerRestart } :=
    .ofParts s.base.keeps_restart (s.sch.evolves_emptyQueue.keeps.trans (Sched.keeps_brokerRestart _))
  refine emptied.trans (State.keeps_event' _ _ ?_)
  rw [show s.base.restart.cfg.depth = s.base.cfg.depth by rw [s.base.restart_cfg]]
  exact Ev.keeps_restartAll s.base (Ev.of s.sch.emptyQueue.brokerRestart)

/-! ## Presence -/

theorem State.keeps_takeRoll (f : RollFields) (p : Peer) (s : State) : s.Keeps (s.takeRoll f p) := by
  unfold State.takeRoll
  split
  · have gone : s.Keeps { s with base := s.base.setPeer (Peer.absentOf p.station (some f.incarnation)) } :=
      s.keeps_base (s.base.keeps_setPeer _ (Nat.zero_le _))
    dsimp only
    split
    · exact gone
    · exact gone.trans (State.keeps_event _ _ (Ev.evolves_handPresence _ _ _ _))
  · split
    · have opened : s.Keeps { s with base := s.base.setPeer (p.opened s.base f) } :=
        s.keeps_base (s.base.keeps_setPeer _ (Nat.zero_le _))
      exact opened.trans (State.keeps_event _ _ (Ev.evolves_handAfterAbsence _ _ _))
    · have renewed : s.Keeps { s with base := s.base.setPeer (p.afterRoll s.base f) } :=
        s.keeps_base (s.base.keeps_setPeer _ (Peer.settled_history _ _ _))
      refine renewed.trans (State.keeps_event _ _ fun e => ?_)
      exact (e.evolves_handPresence _ _ _ _).trans (Ev.evolves_handIncarnation _ _ _ _)

theorem State.keeps_rollArrives (sender : Nat) (f : RollFields) (s : State) : s.Keeps (s.rollArrives sender f) := by
  unfold State.rollArrives
  split
  · exact .refl s
  · exact s.keeps_takeRoll f _

theorem State.keeps_intervalMissing (k : Nat) (s : State) : s.Keeps (s.intervalMissing k) := by
  unfold State.intervalMissing
  split
  · exact .refl s
  · rename_i p _
    dsimp only
    refine s.keeps_baseThen (s.base.keeps_setPeer (p.afterMissing s.base.cfg.window) (Peer.settled_history _ _ _)) ?_
    exact State.keeps_event _ _ (Ev.evolves_handPresence _ _ _ _)

/-! ## Exchanges with other stations -/

theorem State.keeps_bidArrives (sender : Nat) (f : BidFields) (s : State) : s.Keeps (s.bidArrives sender f) := by
  unfold State.bidArrives
  split
  · split
    · exact s.keeps_onSched _ (s.sch.evolves_engine _).keeps
    · exact .refl s
  · exact .refl s

/-- What an AWARD that is accepted finds (R169): no entry has its booking id, and the hold is for it. -/
theorem Sched.awardAnswer_accept {v : Base} {f : AwardFields} {s : Sched} {x : Hold}
    (h : s.awardAnswer v f = .accept x) : (∀ b ∈ s.bookings, b.id ≠ f.id) ∧ x.id = f.id := by
  unfold Sched.awardAnswer at h
  dsimp only at h
  split at h
  · cases h
  · split at h
    · cases h
    · rename_i unknown
      split at h
      · cases h
      · split at h
        · cases h
        · rename_i y found
          have accepted : AwardAnswer.accept y = .accept x := by
            split at h
            · cases h
            · split at h
              · cases h
              · split at h
                · cases h
                · exact h
          cases accepted
          refine ⟨fun b hb same => unknown (List.any_eq_true.mpr ⟨b, hb, by simp [same]⟩), ?_⟩
          have := List.find?_some found
          simp only [Bool.and_eq_true, beq_iff_eq] at this
          exact this.1

theorem Sched.keeps_awardArrives (v : Base) (f : AwardFields) (s : Sched) (others : f.id.origin ≠ n) :
    s.KeepsAt n v.cfg.depth (s.awardArrives v f) := by
  unfold Sched.awardArrives
  split
  · exact Sched.keeps_event v _ s (s.evolves_takeAward v f _).keeps
  · exact Sched.keeps_event v _ s (s.evolves_declineAward v f _ _).keeps
  · rename_i x accepted
    obtain ⟨fresh, same⟩ := Sched.awardAnswer_accept accepted
    refine Sched.KeepsAt.trans (Sched.keeps_event v _ s ?_) (Sched.evolves_takeAward v f _ _).keeps
    refine (s.evolves_consume f.id f.number).keeps.trans ?_
    refine Sched.KeepsAt.trans ?_ (Ev.evolves_place v _ _ _).keeps
    exact Sched.keeps_createHosted (s.consume f.id f.number) (x.details.draft x.id) rfl
      (fun b hb => by rw [show (x.details.draft x.id).id = f.id from same]; exact fresh b hb)
      (by rw [show (x.details.draft x.id).id = f.id from same]; exact others)

theorem Sched.hear_length (m : MarkHeard) (s : Sched) (h : s.marks.length ≤ 64) : (s.hear m).marks.length ≤ 64 := by
  have short := Nat.le_trans (List.length_filter_le (fun x => !x.isFor m.series m.episode m.station) s.marks) h
  unfold Sched.hear
  dsimp only
  rw [List.length_append, List.length_singleton]
  split
  · rw [List.length_tail]
    omega
  · omega

theorem Ev.keeps_markArrives (v : Base) (m : MarkHeard) (e : Ev) : e.s.KeepsAt n d (e.markArrives v m).s := by
  have heard : e.s.KeepsAt n d (e.s.hear m) := e.s.keeps_marks _ (e.s.hear_length m)
  unfold Ev.markArrives
  dsimp only
  split
  · exact heard.trans (Ev.evolves_foldl _ (fun e h => e.evolves_weighMark v m h) _ (e.on (Sched.hear m))).keeps
  · exact heard

/-! ## The box port -/

theorem Sched.keeps_fetch (s : Sched) {note : Notice} {rest : List Notice} (h : s.notices = note :: rest) :
    s.KeepsAt n d ({ s with notices := rest, overflow := false } : Sched).admitPending := by
  have stacked : ∀ x : Sched, x.admitPending.stacked = x.stacked := fun x => by
    unfold Sched.admitPending
    split
    · rfl
    · split
      · split <;> rfl
      · rfl
  have bookings : ∀ x : Sched, ∀ b ∈ x.admitPending.bookings, b ∈ x.bookings := fun x b hb => by
    unfold Sched.admitPending at hb
    split at hb
    · exact hb
    · split at hb
      · split at hb
        · exact hb
        · exact (List.mem_filter.mp hb).1
      · exact hb
  have fits (F : s.Fits) : ({ s with notices := rest, overflow := false } : Sched).admitPending.Fits := by
    refine Sched.admitPending_fits _ { F with notices := ?_ }
    have := F.notices
    rw [h, List.length_cons] at this
    exact Nat.le_of_succ_le this
  exact ⟨fits, fun k l => (stacked { s with notices := rest, overflow := false }).symm ▸ l, fun F I => I.ofKeys (fits F).handles fun b hb => ⟨b, bookings { s with notices := rest, overflow := false } b hb, rfl⟩⟩

theorem State.keeps_fetchNotice (s : State) : s.Keeps s.fetchNotice.s := by
  unfold State.fetchNotice
  split
  · exact .refl s
  · rename_i some_notices
    exact .ofParts (.refl _) (s.sch.keeps_fetch some_notices)

theorem State.readPeer_s (k : Nat) (s : State) : (s.readPeer k).s = s := by
  unfold State.readPeer
  split
  · rfl
  · split <;> rfl

theorem State.readStation_s (part : Nat) (s : State) : (s.readStation part).s = s := by
  unfold State.readStation
  split <;> rfl

theorem State.keeps_collect (k : Nat) (s : State) : s.Keeps (s.collect k) := by
  unfold State.collect
  dsimp only
  split <;> exact .ofSame (t := s) rfl rfl (.refl s)

theorem State.reset_inv : State.reset.Inv :=
  ⟨by constructor <;> decide, by constructor <;> decide, fun k => by cases k <;> decide⟩

theorem State.reset_ids : State.reset.Ids := by
  constructor <;> simp [State.reset, Sched.reset]

/-- A record that passes the form check runs its request (R183). -/
theorem takeRequest_of_request {i : Instr} (s : State) (h : i.code.isSome = true) : takeRequest i s = exec i s := by
  cases i <;> simp only [Instr.code, Option.isSome, Bool.false_eq_true] at h <;> simp only [takeRequest, exec]

theorem takeRequest_of_none {i : Instr} (s : State) (h : i.code = none) : takeRequest i s = .next s := by
  cases i <;> simp only [Instr.code, reduceCtorEq] at h <;> simp only [takeRequest]

/-! ## Every command -/

theorem execColdReset_keeps {s t : State} (h : execColdReset s = .next t) : s.Keeps t := by
  unfold execColdReset at h
  cases h
  have kept : State.reset.Keeps { State.reset with free := s.free, pending := s.pending } :=
    .ofSame (t := State.reset) rfl rfl (.refl _)
  exact ⟨fun _ => kept.inv State.reset_inv, fun _ _ => kept.ids State.reset_inv State.reset_ids⟩

end Sys2Proof.Machine
end

section
/-! The two invariants of every step: the capacities, and the distinctness of booking ids. -/

namespace Sys2Proof.Machine

/-- A request of the table keeps what every command keeps (R182, R183). -/
theorem exec_request_keeps (i : Instr) (s t : State) (request : i.code.isSome = true) (h : exec i s = .next t) :
    s.Keeps t := by
  cases i with
  | configure c => exact State.keeps_request h (s.keeps_configure c)
  | join => exact State.keeps_request h s.keeps_join
  | leave => exact State.keeps_request h s.keeps_leave
  | restart => exact State.keeps_request h s.keeps_restart
  | setClock time => exact State.keeps_request h (s.keeps_setClock time)
  | book f => exact State.keeps_request h (s.keeps_book f)
  | amend handle expect f =>
    exact State.keeps_request h (s.keeps_withBooking handle expect _ fun b => s.keeps_amendEntry f b)
  | cancel handle expect =>
    exact State.keeps_request h (s.keeps_withBooking handle expect _ fun b => s.keeps_cancelEntry b)
  | readBooking handle expect => exact State.keeps_request h (s.keeps_withBooking handle expect _ fun _ => .refl s)
  | nextBooking start filter =>
    refine State.keeps_request h ?_
    rw [s.nextBooking_s start filter]
    exact .refl s
  | link f => exact State.keeps_request h (s.keeps_link f)
  | unlink id => exact State.keeps_request h (s.keeps_unlink id)
  | readLink key =>
    refine State.keeps_request h ?_
    rw [s.readLink_s key]
    exact .refl s
  | guideEvent f => exact State.keeps_request h (s.keeps_guideEvent f)
  | running service event status => exact State.keeps_request h (s.keeps_running service event status)
  | holdLive multiplex service force => exact State.keeps_request h (s.keeps_holdLive multiplex service force)
  | releaseLive => exact State.keeps_request h s.keeps_releaseLive
  | powerBudget tuners => exact State.keeps_request h (s.keeps_powerBudget tuners)
  | readDirective tuner => exact State.keeps_request h (s.readDirective_keeps tuner)
  | tunerReport tuner serial status => exact State.keeps_request h (s.keeps_tunerReport tuner serial status)
  | resolve handle expect decision =>
    exact State.keeps_request h (s.keeps_withBooking handle expect _ fun b => s.keeps_resolve decision b)
  | fetchNotice => exact State.keeps_request h s.keeps_fetchNotice
  | readPeer station =>
    refine State.keeps_request h ?_
    rw [s.readPeer_s station]
    exact .refl s
  | readStation part =>
    refine State.keeps_request h ?_
    rw [s.readStation_s part]
    exact .refl s
  | _ => cases request

/-- Badly formed bytes keep it, and so does the request that bytes which pass the check spell (R183). -/
theorem execBadFormRequest_keeps (bytes : List Byte) (s t : State) (h : execBadFormRequest bytes s = .next t) :
    s.Keeps t := by
  have same (u : State) (base : u.base = s.base) (sch : u.sch = s.sch) : s.Keeps u := .ofSame base sch (.refl s)
  unfold execBadFormRequest at h
  split at h
  · cases h
    exact .refl s
  · split at h
    · cases h
      exact .refl s
    · split at h
      · cases h
        exact same _ rfl rfl
      · split at h
        · rename_i u ran
          cases h
          obtain ⟨i, -, ran⟩ := Option.map_eq_some_iff.mp ran
          refine .ofSame (t := u) rfl rfl ?_
          by_cases request : i.code.isSome = true
          · rw [takeRequest_of_request s request] at ran
            exact exec_request_keeps i s u request ran
          · rw [takeRequest_of_none s (by simpa using request)] at ran
            cases ran
            exact .refl s
        · cases h
          exact same _ rfl rfl

theorem State.keeps_triggerFires {handle : Nat} {k : TrigKind} {s t : State} (h : s.triggerFires handle k = .next t) :
    s.Keeps t := State.keeps_atInstant_event h fun u e => e.evolves_fire u.base handle k

/-! Each event that is not a request, under the name of its meaning. -/

theorem execBusyRequest_keeps {first : Byte} {s t : State} (h : execBusyRequest first s = .next t) : s.Keeps t := by
  refine State.keeps_happens (f := fun s => if first.toNat = 0 ∨ s.port.state = .idle then s else s.busy 1) h ?_
  split
  · exact .refl s
  · exact .ofSame (t := s) rfl rfl (.refl s)

theorem execCollection_keeps {clocked : Nat} {s t : State} (h : execCollection clocked s = .next t) : s.Keeps t := by
  refine State.keeps_happens (f := fun s => if clocked = 0 then s else s.collect (clocked - 1)) h ?_
  split
  · exact .refl s
  · exact s.keeps_collect _

theorem execEpochDayChange_keeps {s t : State} (h : execEpochDayChange s = .next t) : s.Keeps t :=
  State.keeps_happens (f := fun s => s.countTo ((s.base.day + 1) * 86400 * unit)) h (s.keeps_countTo _)

theorem execTuneTimerExpiry_keeps {tuner : Nat} {s t : State} (h : execTuneTimerExpiry tuner s = .next t) : s.Keeps t :=
  State.keeps_atInstant_event (f := fun s e => e.fail s.base (Tuner.ofIndex tuner)) h fun u e => e.evolves_fail u.base _

theorem execRecheckTimerExpiry_keeps {tuner : Nat} {s t : State} (h : execRecheckTimerExpiry tuner s = .next t) :
    s.Keeps t :=
  State.keeps_atInstant_event (f := fun s e => e.recheck s.base (Tuner.ofIndex tuner)) h fun u e =>
    e.evolves_recheck u.base _

theorem execRollTimerExpiry_keeps {s t : State} (h : execRollTimerExpiry s = .next t) : s.Keeps t :=
  State.keeps_atInstant h State.keeps_rollExpires

theorem execJoinTimerExpiry_keeps {s t : State} (h : execJoinTimerExpiry s = .next t) : s.Keeps t :=
  State.keeps_atInstant h State.keeps_enterJoined

theorem execLeaveTimerExpiry_keeps {s t : State} (h : execLeaveTimerExpiry s = .next t) : s.Keeps t :=
  State.keeps_atInstant h (State.keeps_goDetached _)

theorem execIntervalDeadlineExpiry_keeps {station : Nat} {s t : State}
    (h : execIntervalDeadlineExpiry station s = .next t) : s.Keeps t :=
  State.keeps_atInstant h (State.keeps_intervalMissing station)

theorem execSeekReadyTime_keeps {handle : Nat} {s t : State} (h : execSeekReadyTime handle s = .next t) : s.Keeps t :=
  State.keeps_atInstant_event h fun _ e => .refl e.s

theorem execBidWindowEnd_keeps {s t : State} (h : execBidWindowEnd s = .next t) : s.Keeps t :=
  State.keeps_atInstant_event h fun u e => e.evolves_windowEnds u.base

theorem execTakeTimerExpiry_keeps {s t : State} (h : execTakeTimerExpiry s = .next t) : s.Keeps t :=
  State.keeps_atInstant_event h fun u e => e.evolves_takeEnds u.base

theorem execQueuedBidRemoved_keeps {id : BookingId} {s t : State} (h : execQueuedBidRemoved id s = .next t) :
    s.Keeps t :=
  State.keeps_atInstant h fun u =>
    (u.keeps_onSched _ (Sched.evolves_dropBids _ _ _).keeps).trans (State.keeps_drain _)

theorem execHoldExpiry_keeps {id : BookingId} {s t : State} (h : execHoldExpiry id s = .next t) : s.Keeps t :=
  State.keeps_atInstant h fun u => u.keeps_onSched _ (Sched.evolves_lapse _ _).keeps

theorem execLapsedRecordDiscard_keeps {id : BookingId} {s t : State} (h : execLapsedRecordDiscard id s = .next t) :
    s.Keeps t :=
  State.keeps_atInstant h fun u => u.keeps_onSched _
    (u.sch.evolves_holds _ _ (fun fit => fit) (Nat.le_trans (List.length_filter_le _ _))).keeps

theorem execMarksHeardExpiry_keeps {series episode station : Nat} {s t : State}
    (h : execMarksHeardExpiry series episode station s = .next t) : s.Keeps t :=
  State.keeps_atInstant h fun u => u.keeps_onSched _
    (Sched.keeps_marks _ _ (Nat.le_trans (List.length_filter_le _ _)))

theorem execConfirmDeadlineExpiry_keeps {handle : Nat} {s t : State}
    (h : execConfirmDeadlineExpiry handle s = .next t) : s.Keeps t :=
  State.keeps_atInstant_event h fun u e => e.evolves_confirmPasses u.base handle

theorem execAttemptStart_keeps {s t : State} (h : execAttemptStart s = .next t) : s.Keeps t :=
  State.keeps_happens h s.keeps_startAttempt

theorem execMessageSent_keeps {s t : State} (h : execMessageSent s = .next t) : s.Keeps t :=
  State.keeps_happens h s.keeps_attemptSent

theorem execAttemptFailed_keeps {why : AttemptEnd} {s t : State} (h : execAttemptFailed why s = .next t) :
    s.Keeps t :=
  State.keeps_happens h s.keeps_attemptFails

theorem execBadFrameReceived_keeps {why : BadFrame} {s t : State} (h : execBadFrameReceived why s = .next t) :
    s.Keeps t :=
  State.keeps_happens h (s.keeps_yieldWire.trans (State.keeps_countFrame false _))

theorem execMalformedFrame_keeps {household cls : Nat} {s t : State}
    (h : execMalformedFrame household cls s = .next t) : s.Keeps t := by
  refine State.keeps_happens h ?_
  split
  · exact s.keeps_yieldWire.trans (State.keeps_countFrame false _)
  · exact s.keeps_yieldWire

theorem execRollArrival_keeps {h : FrameHead} {f : RollFields} {s t : State} (h : execRollArrival h f s = .next t) :
    s.Keeps t :=
  State.keeps_happens h (s.keeps_receive _ _ _ fun u _ _ => u.keeps_rollArrives _ f)

theorem execSeekArrival_keeps {h : FrameHead} {f : SeekFields} {s t : State} (h : execSeekArrival h f s = .next t) :
    s.Keeps t :=
  State.keeps_happens h (s.keeps_receive_event _ _ _ fun u e => e.evolves_seekArrives u.base _ _ f)

theorem execBidArrival_keeps {h : FrameHead} {f : BidFields} {s t : State} (h : execBidArrival h f s = .next t) :
    s.Keeps t :=
  State.keeps_happens h (s.keeps_receive _ _ _ fun u _ _ => u.keeps_bidArrives _ f)

theorem execAwardArrival_keeps {h : FrameHead} {f : AwardFields} {s t : State} (h : execAwardArrival h f s = .next t) :
    s.Keeps t := by
  refine State.keeps_happens h (s.keeps_receive _ _ _ fun u good other => u.keeps_onSched _ ?_)
  refine Sched.keeps_awardArrives u.base f u.sch fun own => other ?_
  simp only [awardAdmitted, Bool.and_eq_true, beq_iff_eq] at good
  obtain ⟨⟨-, origin⟩, -⟩ := good
  exact origin.trans own

theorem execTakeArrival_keeps {h : FrameHead} {id : BookingId} {number : Nat} {s t : State}
    (h : execTakeArrival h id number s = .next t) : s.Keeps t :=
  State.keeps_happens h (s.keeps_receive_event _ _ _ fun u e => e.evolves_takeArrives u.base _ id number)

theorem execDeclineArrival_keeps {h : FrameHead} {id : BookingId} {number reason : Nat} {s t : State}
    (h : execDeclineArrival h id number reason s = .next t) : s.Keeps t :=
  State.keeps_happens h (s.keeps_receive_event _ _ _ fun u e => e.evolves_declineArrives u.base _ id number)

theorem execWithdrawArrival_keeps {h : FrameHead} {id : BookingId} {addressee : Nat} {s t : State}
    (h : execWithdrawArrival h id addressee s = .next t) : s.Keeps t :=
  State.keeps_happens h (s.keeps_receive_event _ _ _ fun u e => e.evolves_withdrawn u.base id)

theorem execReturnArrival_keeps {h : FrameHead} {f : ReturnFields} {s t : State}
    (h : execReturnArrival h f s = .next t) : s.Keeps t :=
  State.keeps_happens h (s.keeps_receive_event _ _ _ fun u e => e.evolves_returned u.base _ _ f)

theorem execTallyArrival_keeps {h : FrameHead} {f : TallyFields} {s t : State} (h : execTallyArrival h f s = .next t) :
    s.Keeps t :=
  State.keeps_happens h (s.keeps_receive_event _ _ _ fun u e => e.evolves_tallied u.base _ _ f)

theorem execMarkArrival_keeps {h : FrameHead} {f : MarkFields} {s t : State} (h : execMarkArrival h f s = .next t) :
    s.Keeps t :=
  State.keeps_happens h (s.keeps_receive _ _ _ fun u _ _ =>
    u.keeps_event' _ (Ev.keeps_markArrives u.base _ (Ev.of u.sch)))

/-- Every command keeps the capacities and, with them, the distinctness of booking ids. -/
theorem exec_keeps (i : Instr) (s t : State) (h : exec i s = .next t) : s.Keeps t := by
  cases i with
  | coldReset => exact execColdReset_keeps h
  | badFormRequest bytes => exact execBadFormRequest_keeps bytes s t h
  | busyRequest first => exact execBusyRequest_keeps h
  | collection clocked => exact execCollection_keeps h
  | prepare handle => exact State.keeps_triggerFires h
  | start handle => exact State.keeps_triggerFires h
  | grace handle => exact State.keeps_triggerFires h
  | stop handle => exact State.keeps_triggerFires h
  | overrun handle => exact State.keeps_triggerFires h
  | epochDayChange => exact execEpochDayChange_keeps h
  | tuneTimerExpiry tuner => exact execTuneTimerExpiry_keeps h
  | recheckTimerExpiry tuner => exact execRecheckTimerExpiry_keeps h
  | rollTimerExpiry => exact execRollTimerExpiry_keeps h
  | joinTimerExpiry => exact execJoinTimerExpiry_keeps h
  | leaveTimerExpiry => exact execLeaveTimerExpiry_keeps h
  | intervalDeadlineExpiry station => exact execIntervalDeadlineExpiry_keeps h
  | seekReadyTime handle => exact execSeekReadyTime_keeps h
  | bidWindowEnd => exact execBidWindowEnd_keeps h
  | takeTimerExpiry => exact execTakeTimerExpiry_keeps h
  | queuedBidRemoved id => exact execQueuedBidRemoved_keeps h
  | holdExpiry id => exact execHoldExpiry_keeps h
  | lapsedRecordDiscard id => exact execLapsedRecordDiscard_keeps h
  | marksHeardExpiry series episode station => exact execMarksHeardExpiry_keeps h
  | confirmDeadlineExpiry handle => exact execConfirmDeadlineExpiry_keeps h
  | attemptStart => exact execAttemptStart_keeps h
  | messageSent => exact execMessageSent_keeps h
  | attemptFailed why => exact execAttemptFailed_keeps (why := why) h
  | badFrameReceived why => exact execBadFrameReceived_keeps (why := why) h
  | malformedFrame household cls => exact execMalformedFrame_keeps (cls := cls) h
  | rollArrival head f => exact execRollArrival_keeps h
  | seekArrival head f => exact execSeekArrival_keeps h
  | bidArrival head f => exact execBidArrival_keeps h
  | awardArrival head f => exact execAwardArrival_keeps h
  | takeArrival head id number => exact execTakeArrival_keeps h
  | declineArrival head id number reason => exact execDeclineArrival_keeps (reason := reason) h
  | withdrawArrival head id addressee => exact execWithdrawArrival_keeps (addressee := addressee) h
  | returnArrival head f => exact execReturnArrival_keeps h
  | tallyArrival head f => exact execTallyArrival_keeps h
  | markArrival head f => exact execMarkArrival_keeps h
  | resetnHeldLow =>
    cases h
    exact .ofParts (.refl _) (Sched.EvolvesIn.ofSpoken (s := s.sch) (t := { s.sch with attempt := none }) rfl).keeps
  | _ => exact exec_request_keeps _ s t rfl h

/-- A step keeps it: the command at the front of the queue does, and so does one period of REFCLK. -/
theorem step_keeps {s t : State} (h : step s = .next t) : s.Keeps t := by
  unfold step at h
  split at h
  · cases h
    exact s.keeps_idle
  · rename_i c rest _
    have kept := exec_keeps c { s with pending := rest } t h
    exact ⟨fun I => kept.inv ⟨I.base, I.sch, I.depths⟩,
      fun I J => kept.ids ⟨I.base, I.sch, I.depths⟩ ⟨J.distinct, J.hosted⟩⟩

/-- Settles O7: the capacities are one half of what every command keeps, and what an event of the scheduling blocks may do
(`Sched.EvolvesIn`) keeps them by each of its operations. -/
theorem everyStepKeepsTheCapacities : Obligations.EveryStepKeepsTheCapacities :=
  fun _ _ inv ran => (step_keeps ran).inv inv

/-- Settles O8: an event makes no record, a BOOK or an episode takes a serial that no local entry has, and an AWARD a booking
id that no entry has and that is of another station. -/
theorem everyStepKeepsBookingIdsDistinct : Obligations.EveryStepKeepsBookingIdsDistinct :=
  fun _ _ inv ids ran => (step_keeps ran).ids inv ids

/-- Settles O6. -/
theorem invariantsAtReset : Obligations.InvariantsAtReset := ⟨State.reset_inv, State.reset_ids⟩

end Sys2Proof.Machine
end

section
/-! How every command reaches the state: what lies outside the base and the scheduling state (the port, RESETN, the counter
of free values and the queue), how every request is answered, and the first statements about the machine and the box port. -/

namespace Sys2Proof.Machine

/-! ## Outside the base and the scheduling state -/

/-- The port, RESETN, the counter of free values and the queue are as they were. -/
structure State.Beside (s t : State) : Prop where
  port : t.port = s.port
  resetLow : t.resetLow = s.resetLow
  free : t.free = s.free
  pending : t.pending = s.pending

theorem State.Beside.refl (s : State) : s.Beside s := ⟨rfl, rfl, rfl, rfl⟩

theorem State.Beside.trans {s t u : State} (h : s.Beside t) (k : t.Beside u) : s.Beside u :=
  ⟨k.port.trans h.port, k.resetLow.trans h.resetLow, k.free.trans h.free, k.pending.trans h.pending⟩

/-- Other contents of the base and of the scheduling state. -/
theorem State.beside_of (s : State) (v : Base) (x : Sched) : s.Beside { s with base := v, sch := x } := ⟨rfl, rfl, rfl, rfl⟩

theorem State.beside_event (s : State) (f : Ev → Ev) : s.Beside (s.event f) := s.beside_of _ _

theorem State.beside_onSched (s : State) (f : Sched → Sched) : s.Beside (s.onSched f) := s.beside_of _ _

theorem State.beside_countTo (s : State) (t : Nat) : s.Beside (s.countTo t) := s.beside_of _ _

/-- A fold over states, or over states with counts, each of whose steps leaves the rest. -/
theorem State.beside_foldl {α β : Type} (st : α → State) (f : α → β → α) (h : ∀ a b, (st a).Beside (st (f a b))) :
    ∀ (l : List β) (a : α), (st a).Beside (st (l.foldl f a))
  | [], _ => .refl _
  | b :: l, a => (h a b).trans (State.beside_foldl st f h l (f a b))

/-! ## Events of the wire, of timers and of arrivals -/

theorem State.beside_goDetached (cause : StationCause) (s : State) : s.Beside (s.goDetached cause) := s.beside_of _ _

theorem State.beside_drain (s : State) : s.Beside s.drain := by
  unfold State.drain
  split
  · exact s.beside_goDetached _
  · exact .refl s

theorem State.beside_startAttempt (s : State) : s.Beside s.startAttempt := by
  unfold State.startAttempt
  split
  · exact s.beside_of _ _
  · exact .refl s

theorem State.beside_attemptSent (s : State) : s.Beside s.attemptSent := by
  unfold State.attemptSent
  split
  · exact (s.beside_of _ _).trans (State.beside_drain _)
  · exact .refl s

theorem State.beside_attemptFails (s : State) : s.Beside s.attemptFails := by
  unfold State.attemptFails
  split
  · exact (s.beside_of _ _).trans (State.beside_drain _)
  · exact .refl s

theorem State.beside_yieldWire (s : State) : s.Beside s.yieldWire := s.beside_attemptFails.trans (State.beside_of _ _ _)

theorem State.beside_countFrame (good : Bool) (s : State) : s.Beside (s.countFrame good) := s.beside_of _ _

theorem State.beside_goIsolated (s : State) : s.Beside s.goIsolated := s.beside_of _ _

/-- A frame leaves the rest where what it is handed on to does. -/
theorem State.beside_receive (h : FrameHead) (c : FrameCheck) (handOn : State → State) (k : ∀ u : State, u.Beside (handOn u))
    (s : State) : s.Beside (s.receive h c handOn) := by
  unfold State.receive
  dsimp only
  have counted (good : Bool) : s.Beside (s.yieldWire.countFrame good) :=
    s.beside_yieldWire.trans (State.beside_countFrame good _)
  split
  · exact s.beside_yieldWire
  split
  · exact counted false
  split
  · exact counted true
  split
  · split
    · exact (counted true).trans (State.beside_goIsolated _)
    · exact counted true
  split
  · exact counted true
  split
  · exact s.beside_yieldWire
  · exact (counted true).trans (k _)

theorem State.beside_bidArrives (sender : Nat) (f : BidFields) (s : State) : s.Beside (s.bidArrives sender f) := by
  unfold State.bidArrives
  split
  · split
    · exact s.beside_onSched _
    · exact .refl s
  · exact .refl s

theorem State.beside_takeRoll (f : RollFields) (p : Peer) (s : State) : s.Beside (s.takeRoll f p) := by
  unfold State.takeRoll
  dsimp only
  split
  · split
    · exact s.beside_of _ _
    · exact s.beside_of _ _
  · split
    · exact s.beside_of _ _
    · exact s.beside_of _ _

theorem State.beside_rollArrives (sender : Nat) (f : RollFields) (s : State) : s.Beside (s.rollArrives sender f) := by
  unfold State.rollArrives
  split
  · exact .refl s
  · exact s.beside_takeRoll f _

theorem State.beside_intervalMissing (n : Nat) (s : State) : s.Beside (s.intervalMissing n) := by
  unfold State.intervalMissing
  split
  · exact .refl s
  · exact s.beside_of _ _

theorem State.beside_enterJoined (s : State) : s.Beside s.enterJoined := s.beside_of _ _

theorem State.beside_rollExpires (s : State) : s.Beside s.rollExpires := s.beside_of _ _

/-! ## The answers of the requests -/

/-- An answer on a state: the rest outside the base and the scheduling state stands, and one that is not OK changes
nothing and has an empty result but for CONFLICT. -/
structure Answer.Sound (s : State) (a : Answer) : Prop where
  beside : s.Beside a.s
  refused : a.code ≠ .ok → a.s = s ∧ (a.code = .conflict ∨ a.result = [])

theorem Answer.Sound.done {s t : State} (l : List Byte) (h : s.Beside t) : (t.done l).Sound s := ⟨h, fun k => absurd rfl k⟩

theorem Answer.Sound.refuse (s : State) (c : Code) : (s.refuse c).Sound s := ⟨.refl s, fun _ => ⟨rfl, .inr rfl⟩⟩

theorem State.sound_answerEvent (s : State) (f : Ev → Ev) (r : Sched → List Byte) : (s.answerEvent f r).Sound s :=
  .done _ (s.beside_of _ _)

theorem State.sound_withBooking (h : Nat) (expect : Option BookingId) (f : Booking → State → Answer) (s : State)
    (k : ∀ b, (f b s).Sound s) : (s.withBooking h expect f).Sound s := by
  unfold State.withBooking
  split
  · exact .refuse s _
  · exact k _

theorem State.sound_book (f : BookFields) (s : State) : (s.book f).Sound s := by
  unfold State.book
  split
  · exact .refuse s _
  · exact s.sound_answerEvent _ _

theorem State.sound_amendEntry (f : AmendFields) (b : Booking) (s : State) : (s.amendEntry f b).Sound s := by
  unfold State.amendEntry
  split
  · exact .refuse s _
  · exact s.sound_answerEvent _ _

theorem State.sound_cancelEntry (b : Booking) (s : State) : (s.cancelEntry b).Sound s := by
  unfold State.cancelEntry
  split
  · exact .refuse s _
  · exact .done _ (s.beside_event _)

theorem State.sound_resolve (decision : Nat) (b : Booking) (s : State) : (s.resolve decision b).Sound s := by
  unfold State.resolve
  split
  · exact .refuse s _
  split
  · exact .refuse s _
  · exact s.sound_answerEvent _ _

theorem State.sound_nextBooking (start : Option StartAt) (filter : Nat) (s : State) : (s.nextBooking start filter).Sound s := by
  unfold State.nextBooking
  split
  · exact .refuse s _
  split
  · exact .refuse s _
  split
  · exact .refuse s _
  · exact .done _ (.refl s)

theorem State.sound_link (f : LinkFields) (s : State) : (s.link f).Sound s := by
  unfold State.link
  split
  · exact .refuse s _
  · exact .done _ (s.beside_onSched _)

theorem unlinkOne_beside (id : LinkId) (p : State × Nat × Nat) (h : Nat) : p.1.Beside (unlinkOne id p h).1 := by
  unfold unlinkOne
  split
  · exact .refl _
  split
  · exact .refl _
  split
  · exact .refl _
  · exact p.1.beside_event _

theorem State.sound_unlink (id : LinkId) (s : State) : (s.unlink id).Sound s := by
  unfold State.unlink
  split
  · exact .done _ ((State.beside_foldl Prod.fst _ (unlinkOne_beside id) _ (s, 0, 0)).trans (State.beside_onSched _ _))
  · exact .refuse s _

theorem State.sound_readLink (key : LinkKey) (s : State) : (s.readLink key).Sound s := by
  unfold State.readLink
  have answer (x : Option Link) :
      (match x with | none => s.refuse .noSuch | some l => s.done (s.sch.linkBytes l)).Sound s := by
    cases x
    · exact .refuse s _
    · exact .done _ (.refl s)
  cases key with
  | byId id => exact answer _
  | fromSlot n =>
    dsimp only
    split
    · exact .refuse s _
    · exact answer _
  | other n => exact .refuse s _

theorem guideOne_beside (f : GuideFields) (p : State × Nat × Nat) (h : Nat) : p.1.Beside (guideOne f p h).1 := by
  unfold guideOne
  dsimp only
  split
  · exact .refl _
  split
  · exact .refl _
  split
  · split
    · exact .refl _
    · exact p.1.beside_event _
  split
  · exact p.1.beside_event _
  · exact .refl _

theorem State.beside_guideStep1 (f : GuideFields) (s : State) : s.Beside (s.guideStep1 f).1 := by
  unfold State.guideStep1
  have fold := State.beside_foldl Prod.fst _ (guideOne_beside f) ((s.sch.bookings.filter (reached f)).map (·.handle)) (s, 0, 0)
  dsimp only
  split
  · exact fold
  · exact fold.trans (State.beside_event _ _)

theorem matchOne_beside (f : GuideFields) (p : State × Nat × Nat) (slot : Nat) : p.1.Beside (matchOne f p slot).1 := by
  unfold matchOne
  split
  · exact .refl _
  split
  · exact .refl _
  split
  · exact p.1.beside_event _
  · exact p.1.beside_onSched _

theorem State.beside_guideStep2 (f : GuideFields) (s : State) : s.Beside (s.guideStep2 f).1 := by
  unfold State.guideStep2
  split
  · exact .refl s
  · exact State.beside_foldl Prod.fst _ (matchOne_beside f) _ (s, 0, 0)

theorem State.sound_guideEvent (f : GuideFields) (s : State) : (s.guideEvent f).Sound s := by
  unfold State.guideEvent
  split
  · exact .refuse s _
  split
  · exact .refuse s _
  · exact .done _ ((s.beside_guideStep1 f).trans (State.beside_guideStep2 f _))

theorem forwardOne_beside (old : Nat) (s : State) (h : Nat) : s.Beside (forwardOne old s h) := by
  unfold forwardOne
  dsimp only
  split
  · exact .refl s
  split
  · exact s.beside_event _
  split
  · exact s.beside_event _
  · exact .refl s

theorem backwardOne_beside (s : State) (h : Nat) : s.Beside (backwardOne s h) := by
  unfold backwardOne
  split
  · exact .refl s
  · exact s.beside_event _

theorem State.beside_fireDue (s : State) : s.Beside s.fireDue := s.beside_of _ _

theorem State.beside_forward (old : Nat) (s : State) : s.Beside (s.forward old) :=
  ((s.beside_onSched (Sched.interrupt old)).trans (State.beside_foldl id (forwardOne old) (forwardOne_beside old) _ _)).trans
    (State.beside_fireDue _)

theorem State.beside_backward (s : State) : s.Beside s.backward := State.beside_foldl id backwardOne backwardOne_beside _ s

theorem State.sound_setClock (time : Nat) (s : State) : (s.setClock time).Sound s := by
  unfold State.setClock
  split
  · exact .refuse s _
  · have set : s.Beside (s.setTime time) := s.beside_of _ _
    refine .done _ ?_
    cases s.base.clockKind time with
    | first => exact set
    | trim => exact set.trans (State.beside_fireDue _)
    | forward => exact set.trans (State.beside_forward _ _)
    | backward => exact set.trans (State.beside_backward _)

theorem State.sound_running (service event status : Nat) (s : State) : (s.running service event status).Sound s := by
  unfold State.running
  split
  · exact .refuse s _
  · refine .done _ ?_
    split
    · exact .refl s
    · exact s.beside_event _

theorem State.sound_readDirective (n : Nat) (s : State) : (s.readDirective n).Sound s := by
  unfold State.readDirective
  split
  · exact .refuse s _
  split
  · exact .refuse s _
  · exact .done _ (s.beside_onSched _)

theorem State.sound_tunerReport (n serial status : Nat) (s : State) : (s.tunerReport n serial status).Sound s := by
  unfold State.tunerReport
  split
  · exact .refuse s _
  split
  · exact .refuse s _
  dsimp only
  split
  · exact .done _ (.refl s)
  · exact s.sound_answerEvent _ _

theorem State.sound_powerBudget (n : Nat) (s : State) : (s.powerBudget n).Sound s := by
  unfold State.powerBudget
  split
  · exact .refuse s _
  · exact s.sound_answerEvent _ _

/-- HOLD-LIVE is the request whose refusal, CONFLICT, carries a result (R79). -/
theorem State.sound_holdLive (mux service force : Nat) (s : State) : (s.holdLive mux service force).Sound s := by
  unfold State.holdLive
  split
  · exact .refuse s _
  · exact .refuse s _
  · dsimp only
    split
    · exact ⟨.refl s, fun _ => ⟨rfl, .inl rfl⟩⟩
    · exact s.sound_answerEvent _ _

theorem State.sound_releaseLive (s : State) : s.releaseLive.Sound s := by
  unfold State.releaseLive
  split
  · exact .refuse s _
  · exact .done _ (s.beside_event _)

theorem State.sound_fetchNotice (s : State) : s.fetchNotice.Sound s := by
  unfold State.fetchNotice
  split
  · exact .refuse s _
  · exact .done _ (s.beside_of _ _)

theorem State.sound_readPeer (n : Nat) (s : State) : (s.readPeer n).Sound s := by
  unfold State.readPeer
  split
  · exact .refuse s _
  split
  · exact .refuse s _
  · exact .done _ (.refl s)

theorem State.sound_readStation (part : Nat) (s : State) : (s.readStation part).Sound s := by
  unfold State.readStation
  split
  · exact .done _ (.refl s)
  · exact .done _ (.refl s)
  · exact .refuse s _

theorem State.sound_configure (c : ConfigFields) (s : State) : (s.configure c).Sound s := by
  unfold State.configure
  split
  · exact .refuse s _
  · exact .done _ (s.beside_of _ _)

theorem State.sound_join (s : State) : s.join.Sound s := by
  unfold State.join
  split
  · exact .refuse s _
  · exact .done _ (s.beside_of _ _)

theorem State.sound_leave (s : State) : s.leave.Sound s := by
  unfold State.leave
  split
  · exact .done _ (s.beside_of _ _)
  · exact .refuse s _

theorem State.sound_restart (s : State) : s.restart.Sound s := .done _ (s.beside_of _ _)

/-! ## Every command -/

/-- The meaning of each request of the table: its code, and an answer that is sound. -/
theorem exec_request (i : Instr) (request : i.code.isSome = true) :
    ∃ c f, i.code = some c ∧ (∀ s, exec i s = s.request c f) ∧ ∀ s, (f s).Sound s := by
  cases i with
  | configure c => exact ⟨1, _, rfl, fun _ => rfl, State.sound_configure c⟩
  | join => exact ⟨2, _, rfl, fun _ => rfl, State.sound_join⟩
  | leave => exact ⟨3, _, rfl, fun _ => rfl, State.sound_leave⟩
  | restart => exact ⟨4, _, rfl, fun _ => rfl, State.sound_restart⟩
  | setClock time => exact ⟨5, _, rfl, fun _ => rfl, State.sound_setClock time⟩
  | book f => exact ⟨6, _, rfl, fun _ => rfl, State.sound_book f⟩
  | amend handle expect f =>
    exact ⟨7, _, rfl, fun _ => rfl, fun s => s.sound_withBooking handle expect _ fun b => s.sound_amendEntry f b⟩
  | cancel handle expect =>
    exact ⟨8, _, rfl, fun _ => rfl, fun s => s.sound_withBooking handle expect _ fun b => s.sound_cancelEntry b⟩
  | readBooking handle expect =>
    exact ⟨9, _, rfl, fun _ => rfl, fun s => s.sound_withBooking handle expect _ fun b => .done _ (.refl s)⟩
  | nextBooking start filter => exact ⟨10, _, rfl, fun _ => rfl, State.sound_nextBooking start filter⟩
  | link f => exact ⟨11, _, rfl, fun _ => rfl, State.sound_link f⟩
  | unlink id => exact ⟨12, _, rfl, fun _ => rfl, State.sound_unlink id⟩
  | readLink key => exact ⟨13, _, rfl, fun _ => rfl, State.sound_readLink key⟩
  | guideEvent f => exact ⟨14, _, rfl, fun _ => rfl, State.sound_guideEvent f⟩
  | running service event status => exact ⟨15, _, rfl, fun _ => rfl, State.sound_running service event status⟩
  | holdLive multiplex service force => exact ⟨16, _, rfl, fun _ => rfl, State.sound_holdLive multiplex service force⟩
  | releaseLive => exact ⟨17, _, rfl, fun _ => rfl, State.sound_releaseLive⟩
  | powerBudget tuners => exact ⟨18, _, rfl, fun _ => rfl, State.sound_powerBudget tuners⟩
  | readDirective tuner => exact ⟨19, _, rfl, fun _ => rfl, State.sound_readDirective tuner⟩
  | tunerReport tuner serial status => exact ⟨20, _, rfl, fun _ => rfl, State.sound_tunerReport tuner serial status⟩
  | resolve handle expect decision =>
    exact ⟨21, _, rfl, fun _ => rfl, fun s => s.sound_withBooking handle expect _ fun b => s.sound_resolve decision b⟩
  | fetchNotice => exact ⟨22, _, rfl, fun _ => rfl, State.sound_fetchNotice⟩
  | readPeer station => exact ⟨23, _, rfl, fun _ => rfl, State.sound_readPeer station⟩
  | readStation part => exact ⟨24, _, rfl, fun _ => rfl, State.sound_readStation part⟩
  | _ => cases request

/-- A request leaves the queue. -/
theorem State.request_pending {c : Nat} {f : State → Answer} {s : State} (h : (f s).Sound s) :
    ∃ t, s.request c f = .next t ∧ t.pending = s.pending := by
  obtain ⟨t, run⟩ := s.request_next c f
  refine ⟨t, run, ?_⟩
  obtain rfl | rfl | rfl := State.request_cases run
  · rfl
  · rfl
  · exact h.beside.pending

/-- An event whose effect leaves the queue leaves it. -/
theorem State.happens_pending (f : State → State) (s : State) (h : (f s).pending = s.pending) :
    ∃ t, s.happens f = .next t ∧ t.pending = s.pending := by
  unfold State.happens
  split
  · exact ⟨s, rfl, rfl⟩
  · exact ⟨f s, rfl, h⟩

/-- The effect of a time-driven event, where no timer may run too, leaves the rest where its part at the instant does. -/
theorem State.beside_due {due : State → Option Nat} {f : State → State} (h : ∀ u : State, u.Beside (f u)) (s : State) :
    s.Beside (match due s with | none => s | some t => f (s.countTo t)) := by
  split
  · exact .refl s
  · exact (s.beside_countTo _).trans (h _)

end Sys2Proof.Machine
end

section
/-! The statements about every command: what it answers, what RESETN held low does, and how a held port refuses. -/

namespace Sys2Proof.Machine

/-! ## The events, each under its meaning -/

theorem State.atInstant_eq_happens (due : State → Option Nat) (f : State → State) (s : State) :
    s.atInstant due f = s.happens fun s => match due s with | none => s | some t => f (s.countTo t) := rfl

/-- The command of a trigger. -/
def TrigKind.command (h : Nat) : TrigKind → Instr
  | .prepare => .prepare h
  | .start => .start h
  | .grace => .grace h
  | .stop => .stop h
  | .overrun => .overrun h

theorem exec_trigger (h : Nat) (k : TrigKind) (s : State) :
    exec (k.command h) s = s.atInstant (State.armedAt h k) fun s => s.event fun e => e.fire s.base h k := by
  cases k <;> rfl

theorem exec_epochDayChange (s : State) :
    exec .epochDayChange s = s.happens fun s => s.countTo ((s.base.day + 1) * 86400 * unit) := rfl

theorem exec_tuneTimerExpiry (n : Nat) (s : State) : exec (.tuneTimerExpiry n) s =
    s.atInstant (State.tuneDue n) fun s => s.event fun e => e.fail s.base (Tuner.ofIndex n) := rfl

theorem exec_recheckTimerExpiry (n : Nat) (s : State) : exec (.recheckTimerExpiry n) s =
    s.atInstant (State.recheckDue n) fun s => s.event fun e => e.recheck s.base (Tuner.ofIndex n) := rfl

theorem exec_leaveTimerExpiry (s : State) : exec .leaveTimerExpiry s =
    s.atInstant (fun s => if s.base.station = .leaving then s.base.leaveTimer else none) (State.goDetached .leaveTimeout) := rfl

theorem exec_intervalDeadlineExpiry (n : Nat) (s : State) :
    exec (.intervalDeadlineExpiry n) s = s.atInstant (State.intervalDue n) (State.intervalMissing n) := rfl

theorem exec_seekReadyTime (h : Nat) (s : State) :
    exec (.seekReadyTime h) s = s.atInstant (State.readyAt h) fun s => s.event Ev.askLook := rfl

theorem exec_bidWindowEnd (s : State) :
    exec .bidWindowEnd s = s.atInstant State.windowEnd fun s => s.event (Ev.windowEnds s.base) := rfl

theorem exec_takeTimerExpiry (s : State) :
    exec .takeTimerExpiry s = s.atInstant State.takeEnd fun s => s.event (Ev.takeEnds s.base) := rfl

theorem exec_queuedBidRemoved (i : BookingId) (s : State) : exec (.queuedBidRemoved i) s =
    s.atInstant (State.queuedBidEnd i) fun s => (s.onSched (Sched.dropBids s.base i)).drain := rfl

theorem exec_holdExpiry (i : BookingId) (s : State) : exec (.holdExpiry i) s =
    s.atInstant (fun s => (s.sch.holds.find? fun x => x.id == i).map (·.expiry)) (State.onSched (Sched.lapse i)) := rfl

theorem exec_lapsedRecordDiscard (i : BookingId) (s : State) : exec (.lapsedRecordDiscard i) s =
    s.atInstant (fun s => (s.sch.lapsed.find? fun x => x.id == i).map (Hold.prepareAt s.base))
      fun s => s.onSched fun x => { x with lapsed := x.lapsed.filter fun y => y.id != i } := rfl

theorem exec_marksHeardExpiry (series episode station : Nat) (s : State) : exec (.marksHeardExpiry series episode station) s =
    s.atInstant (fun s => (s.sch.marks.find? (MarkHeard.isFor series episode station)).map fun m => (m.start + 86400) * unit)
      fun s => s.onSched fun x => { x with marks := x.marks.filter fun m => !m.isFor series episode station } := rfl

theorem exec_confirmDeadlineExpiry (h : Nat) (s : State) : exec (.confirmDeadlineExpiry h) s =
    s.atInstant (fun s => (s.sch.bk h).bind (·.confirm)) fun s => s.event fun e => e.confirmPasses s.base h := rfl

theorem exec_attemptStart (s : State) : exec .attemptStart s = s.happens State.startAttempt := rfl

theorem exec_messageSent (s : State) : exec .messageSent s = s.happens State.attemptSent := rfl

theorem exec_attemptFailed (why : AttemptEnd) (s : State) : exec (.attemptFailed why) s = s.happens State.attemptFails := rfl

theorem exec_badFrameReceived (why : BadFrame) (s : State) :
    exec (.badFrameReceived why) s = s.happens fun s => s.yieldWire.countFrame false := rfl

theorem exec_malformedFrame (household cls : Nat) (s : State) : exec (.malformedFrame household cls) s =
    s.happens fun s => if household = s.base.cfg.household then s.yieldWire.countFrame false else s.yieldWire := rfl

theorem exec_rollArrival (h : FrameHead) (f : RollFields) (s : State) : exec (.rollArrival h f) s =
    s.happens (State.receive h { good := rollAdmitted f, isRoll := true } (State.rollArrives h.sender f)) := rfl

theorem exec_seekArrival (h : FrameHead) (f : SeekFields) (s : State) : exec (.seekArrival h f) s =
    s.happens fun s =>
      s.receive h { good := seekAdmitted h f, resolves := (s.base.resolveDay h.sender f.tag).isSome } fun s =>
        s.event (Ev.seekArrives s.base h.sender ((s.base.resolveDay h.sender f.tag).getD 0) f) := rfl

theorem exec_bidArrival (h : FrameHead) (f : BidFields) (s : State) : exec (.bidArrival h f) s =
    s.happens fun s =>
      s.receive h { good := bidAdmitted h f, addressed := s.base.isOrigin f.id } (State.bidArrives h.sender f) := rfl

theorem exec_awardArrival (h : FrameHead) (f : AwardFields) (s : State) : exec (.awardArrival h f) s =
    s.happens fun s =>
      s.receive h { good := awardAdmitted h f, addressed := f.awardee == s.base.cfg.station } fun s =>
        s.onSched (Sched.awardArrives s.base f) := rfl

theorem exec_takeArrival (h : FrameHead) (i : BookingId) (number : Nat) (s : State) : exec (.takeArrival h i number) s =
    s.happens fun s =>
      s.receive h { good := takeAdmitted h i number, addressed := s.base.isOrigin i } fun s =>
        s.event (Ev.takeArrives s.base h.sender i number) := rfl

theorem exec_declineArrival (h : FrameHead) (i : BookingId) (number reason : Nat) (s : State) :
    exec (.declineArrival h i number reason) s =
    s.happens fun s =>
      s.receive h { good := takeAdmitted h i number && reason ≤ 3, addressed := s.base.isOrigin i } fun s =>
        s.event (Ev.declineArrives s.base h.sender i number) := rfl

theorem exec_withdrawArrival (h : FrameHead) (i : BookingId) (addressee : Nat) (s : State) :
    exec (.withdrawArrival h i addressee) s =
    s.happens fun s =>
      s.receive h { good := withdrawAdmitted h i addressee, addressed := addressee == s.base.cfg.station } fun s =>
        s.event (Ev.withdrawn s.base i) := rfl

theorem exec_returnArrival (h : FrameHead) (f : ReturnFields) (s : State) : exec (.returnArrival h f) s =
    s.happens fun s =>
      s.receive h
        { good := returnAdmitted h f, addressed := s.base.isOrigin f.id
          resolves := (s.base.resolveDay h.sender f.tag).isSome } fun s =>
        s.event (Ev.returned s.base h.sender ((s.base.resolveDay h.sender f.tag).getD 0) f) := rfl

theorem exec_tallyArrival (h : FrameHead) (f : TallyFields) (s : State) : exec (.tallyArrival h f) s =
    s.happens fun s =>
      s.receive h
        { good := tallyAdmitted h f, addressed := s.base.isOrigin f.id
          resolves := (s.base.resolveDay h.sender f.tag).isSome } fun s =>
        s.event (Ev.tallied s.base h.sender ((s.base.resolveDay h.sender f.tag).getD 0) f) := rfl

theorem exec_markArrival (h : FrameHead) (f : MarkFields) (s : State) : exec (.markArrival h f) s =
    s.happens fun s =>
      s.receive h { good := markAdmitted f, resolves := (s.base.resolveDay h.sender f.tag).isSome } fun s =>
        s.event (Ev.markArrives s.base (MarkFields.heard h.sender ((s.base.resolveDay h.sender f.tag).getD 0) f)) := rfl

/-- A command of a timer, of the wire or of an arrival: neither a request nor a port event nor a reset. -/
def isEvent : Instr → Bool
  | .coldReset | .resetnHeldLow | .badFormRequest _ | .busyRequest _ | .collection _ => false
  | i => i.code.isNone

/-- A command is such an event: it happens, and leaves what is outside the base and the scheduling state. -/
def HappensBeside (i : Instr) : Prop := ∃ f, (∀ s, exec i s = s.happens f) ∧ ∀ s : State, s.Beside (f s)

theorem HappensBeside.atInstant {i : Instr} {due : State → Option Nat} {f : State → State}
    (run : ∀ s, exec i s = s.atInstant due f) (h : ∀ u : State, u.Beside (f u)) : HappensBeside i :=
  ⟨_, fun s => (run s).trans (s.atInstant_eq_happens due f), State.beside_due h⟩

theorem happensBeside_trigger (h : Nat) (k : TrigKind) : HappensBeside (k.command h) :=
  .atInstant (exec_trigger h k) fun u => u.beside_event _

theorem exec_event (i : Instr) (event : isEvent i = true) : HappensBeside i := by
  cases i with
  | prepare h => exact happensBeside_trigger h .prepare
  | start h => exact happensBeside_trigger h .start
  | grace h => exact happensBeside_trigger h .grace
  | stop h => exact happensBeside_trigger h .stop
  | overrun h => exact happensBeside_trigger h .overrun
  | epochDayChange => exact ⟨_, exec_epochDayChange, fun s => s.beside_countTo _⟩
  | tuneTimerExpiry n => exact .atInstant (exec_tuneTimerExpiry n) fun u => u.beside_event _
  | recheckTimerExpiry n => exact .atInstant (exec_recheckTimerExpiry n) fun u => u.beside_event _
  | rollTimerExpiry => exact .atInstant exec_rollTimerExpiry State.beside_rollExpires
  | joinTimerExpiry => exact .atInstant exec_joinTimerExpiry State.beside_enterJoined
  | leaveTimerExpiry => exact .atInstant exec_leaveTimerExpiry (State.beside_goDetached _)
  | intervalDeadlineExpiry n => exact .atInstant (exec_intervalDeadlineExpiry n) (State.beside_intervalMissing n)
  | seekReadyTime h => exact .atInstant (exec_seekReadyTime h) fun u => u.beside_event _
  | bidWindowEnd => exact .atInstant exec_bidWindowEnd fun u => u.beside_event _
  | takeTimerExpiry => exact .atInstant exec_takeTimerExpiry fun u => u.beside_event _
  | queuedBidRemoved j =>
    exact .atInstant (exec_queuedBidRemoved j) fun u => (u.beside_onSched _).trans (State.beside_drain _)
  | holdExpiry j => exact .atInstant (exec_holdExpiry j) fun u => u.beside_onSched _
  | lapsedRecordDiscard j => exact .atInstant (exec_lapsedRecordDiscard j) fun u => u.beside_onSched _
  | marksHeardExpiry a b p => exact .atInstant (exec_marksHeardExpiry a b p) fun u => u.beside_onSched _
  | confirmDeadlineExpiry h => exact .atInstant (exec_confirmDeadlineExpiry h) fun u => u.beside_event _
  | attemptStart => exact ⟨_, exec_attemptStart, State.beside_startAttempt⟩
  | messageSent => exact ⟨_, exec_messageSent, State.beside_attemptSent⟩
  | attemptFailed why => exact ⟨_, exec_attemptFailed why, State.beside_attemptFails⟩
  | badFrameReceived why =>
    exact ⟨_, exec_badFrameReceived why, fun s => s.beside_yieldWire.trans (State.beside_countFrame false _)⟩
  | malformedFrame hh c =>
    refine ⟨_, exec_malformedFrame hh c, fun s => ?_⟩
    split
    · exact s.beside_yieldWire.trans (State.beside_countFrame false _)
    · exact s.beside_yieldWire
  | rollArrival h f =>
    exact ⟨_, exec_rollArrival h f, State.beside_receive _ _ _ (State.beside_rollArrives _ f)⟩
  | seekArrival h f => exact ⟨_, exec_seekArrival h f, fun s => State.beside_receive _ _ _ (fun u => u.beside_event _) s⟩
  | bidArrival h f =>
    exact ⟨_, exec_bidArrival h f, fun s => State.beside_receive _ _ _ (State.beside_bidArrives _ f) s⟩
  | awardArrival h f => exact ⟨_, exec_awardArrival h f, fun s => State.beside_receive _ _ _ (fun u => u.beside_onSched _) s⟩
  | takeArrival h j n => exact ⟨_, exec_takeArrival h j n, fun s => State.beside_receive _ _ _ (fun u => u.beside_event _) s⟩
  | declineArrival h j n r =>
    exact ⟨_, exec_declineArrival h j n r, fun s => State.beside_receive _ _ _ (fun u => u.beside_event _) s⟩
  | withdrawArrival h j a =>
    exact ⟨_, exec_withdrawArrival h j a, fun s => State.beside_receive _ _ _ (fun u => u.beside_event _) s⟩
  | returnArrival h f =>
    exact ⟨_, exec_returnArrival h f, fun s => State.beside_receive _ _ _ (fun u => u.beside_event _) s⟩
  | tallyArrival h f => exact ⟨_, exec_tallyArrival h f, fun s => State.beside_receive _ _ _ (fun u => u.beside_event _) s⟩
  | markArrival h f => exact ⟨_, exec_markArrival h f, fun s => State.beside_receive _ _ _ (fun u => u.beside_event _) s⟩
  | _ => cases event

end Sys2Proof.Machine
end

section
/-! The machine's statements (the step, the clock, the resets) and those of the box port that speak of every request. -/

namespace Sys2Proof.Machine

/-- Settles O1. -/
theorem stepTakesTheFront : Obligations.StepTakesTheFront := by
  intro c rest s queue
  rw [step, queue]

/-! ## Every command answers -/

theorem execBadFormRequest_next (bytes : List Byte) (s : State) :
    ∃ t, execBadFormRequest bytes s = .next t ∧ t.pending = s.pending := by
  unfold execBadFormRequest
  split
  · exact ⟨s, rfl, rfl⟩
  split
  · exact ⟨s, rfl, rfl⟩
  split
  · exact ⟨_, rfl, rfl⟩
  split
  · rename_i t ran
    refine ⟨_, rfl, ?_⟩
    show t.pending = s.pending
    obtain ⟨i, -, ran⟩ := Option.map_eq_some_iff.mp ran
    by_cases request : i.code.isSome = true
    · rw [takeRequest_of_request s request] at ran
      obtain ⟨c, f, -, run, sound⟩ := exec_request i request
      obtain ⟨u, next, kept⟩ := State.request_pending (c := c) (sound s)
      rw [run s, next] at ran
      cases ran
      exact kept
    · rw [takeRequest_of_none s (by simpa using request)] at ran
      cases ran
      rfl
  · exact ⟨_, rfl, rfl⟩

theorem exec_busyRequest (first : Byte) (s : State) : exec (.busyRequest first) s =
    s.happens fun s => if first.toNat = 0 ∨ s.port.state = .idle then s else s.busy 1 := rfl

theorem exec_collection (n : Nat) (s : State) :
    exec (.collection n) s = s.happens fun s => if n = 0 then s else s.collect (n - 1) := rfl

/-- A command is a request, an event, a reset or an event of the port. -/
theorem command_cases (c : Instr) :
    c.code.isSome = true ∨ isEvent c = true ∨ (c = .coldReset ∨ c = .resetnHeldLow) ∨ (∃ l, c = .badFormRequest l) ∨
      (∃ b, c = .busyRequest b) ∨ ∃ n, c = .collection n := by
  cases c <;> simp [Instr.code, isEvent]

theorem State.collect_pending (n : Nat) (s : State) : (s.collect n).pending = s.pending := by
  unfold State.collect
  dsimp only
  split <;> rfl

/-- Settles O3: a request answers, an event happens, and neither touches the queue. -/
theorem everyCommandAnswersNext : Obligations.EveryCommandAnswersNext := by
  intro c s
  obtain request | event | (rfl | rfl) | ⟨l, rfl⟩ | ⟨b, rfl⟩ | ⟨n, rfl⟩ := command_cases c
  · obtain ⟨n, f, -, run, sound⟩ := exec_request c request
    rw [run s]
    exact State.request_pending (sound s)
  · obtain ⟨f, run, beside⟩ := exec_event c event
    rw [run s]
    exact s.happens_pending f (beside s).pending
  · exact ⟨_, rfl, rfl⟩
  · exact ⟨_, rfl, rfl⟩
  · exact execBadFormRequest_next l s
  · rw [exec_busyRequest]
    refine s.happens_pending _ ?_
    split <;> rfl
  · rw [exec_collection]
    refine s.happens_pending _ ?_
    split
    · rfl
    · exact s.collect_pending _

/-! ## The resets -/

/-- While RESETN is held low every other command leaves the state. -/
theorem exec_low (c : Instr) (s : State) (low : s.resetLow = true) (cold : c ≠ .coldReset) (held : c ≠ .resetnHeldLow) :
    exec c s = .next s := by
  obtain request | event | reset | ⟨l, rfl⟩ | ⟨b, rfl⟩ | ⟨n, rfl⟩ := command_cases c
  · obtain ⟨n, f, -, run, -⟩ := exec_request c request
    rw [run s, s.request_low n f low]
  · obtain ⟨f, run, -⟩ := exec_event c event
    rw [run s, s.happens_low f low]
  · exact (reset.elim cold held).elim
  · show execBadFormRequest l s = .next s
    cases l <;> simp [execBadFormRequest, low]
  · rw [exec_busyRequest, s.happens_low _ low]
  · rw [exec_collection, s.happens_low _ low]

/-- Settles O4. -/
theorem resets : Obligations.Resets := by
  refine ⟨fun s => ⟨rfl, _, rfl, rfl, ?_, ?_⟩, exec_low⟩
  · simp [State.attnLow]
  · simp [State.transmitting]

/-- Settles O5. -/
theorem resetState : Obligations.ResetState := by
  refine ⟨⟨rfl, rfl, rfl, rfl⟩, by decide, ⟨rfl, rfl, rfl⟩, ⟨rfl, rfl, rfl, rfl, rfl⟩, ⟨by decide, by decide⟩,
    ⟨rfl, rfl, rfl, rfl, rfl, rfl, rfl⟩, fun t => ?_, ⟨rfl, rfl, rfl, rfl, rfl⟩,
    ⟨rfl, rfl, rfl, rfl, rfl, rfl, rfl, rfl, rfl, rfl, rfl⟩, ⟨rfl, rfl, rfl, by decide, by decide⟩⟩
  cases t <;> decide

/-! ## Requests of the port -/

/-- What a request that finds one held leaves (R182). -/
theorem exec_request_held {i : Instr} {s : State} (high : s.resetLow = false) (held : s.port.state ≠ .idle)
    (request : i.code.isSome = true) : ∃ n, exec i s = .next (s.busy n) := by
  obtain ⟨c, f, -, run, -⟩ := exec_request i request
  exact ⟨_, (run s).trans (s.request_held c f high held)⟩

theorem exec_badForm_held {c : Byte} {rest : List Byte} {s : State} (high : s.resetLow = false)
    (held : s.port.state ≠ .idle) (some : c ≠ 0) : ∃ n, exec (.badFormRequest (c :: rest)) s = .next (s.busy n) := by
  refine ⟨rest.length + 1, ?_⟩
  show execBadFormRequest (c :: rest) s = _
  have nonzero : c.toNat ≠ 0 := fun h => some (BitVec.eq_of_toNat_eq h)
  simp only [execBadFormRequest, high, nonzero, held, ne_eq, not_false_eq_true, ↓reduceIte, Bool.false_or, decide_false,
    Bool.false_eq_true, List.length_cons]

theorem exec_busyRequest_held {c : Byte} {s : State} (high : s.resetLow = false) (held : s.port.state ≠ .idle)
    (some : c ≠ 0) : ∃ n, exec (.busyRequest c) s = .next (s.busy n) := by
  have nonzero : c.toNat ≠ 0 := fun h => some (BitVec.eq_of_toNat_eq h)
  rw [exec_busyRequest, s.happens_high _ high, if_neg (by simp [nonzero, held])]
  exact ⟨_, rfl⟩

/-- Settles O9: in each of the three ways a held port sets the busy mark alone. -/
theorem requestWhileHeldIsRefusedBusy : Obligations.RequestWhileHeldIsRefusedBusy := by
  refine ⟨fun i s high held named => ?_, fun c s idle => ?_⟩
  · have refused : ∃ n, exec i s = .next (s.busy n) := by
      obtain request | ⟨c, rest, rfl, some⟩ | ⟨c, rfl, some⟩ := named
      · exact exec_request_held high held request
      · exact exec_badForm_held high held some
      · exact exec_busyRequest_held high held some
    obtain ⟨n, run⟩ := refused
    refine ⟨n - 1, run, ?_⟩
    unfold Port.status
    cases s.port.state <;> rfl
  · have nothing : c.toNat = 0 ∨ s.port.state = .idle := idle.symm.imp_left fun h => by rw [h]; rfl
    rw [exec_busyRequest]
    unfold State.happens
    split
    · rfl
    · exact congrArg _ (if_pos nothing)

/-- Settles O10. -/
theorem everyRequestTakenIsAnswered : Obligations.EveryRequestTakenIsAnswered := by
  intro i s request takes
  obtain ⟨c, f, code, run, sound⟩ := exec_request i request
  have beside := (sound s).beside
  refine ⟨_, _, _, takes.answered code (run s) beside.port beside.resetLow beside.free beside.pending, fun refused => ?_⟩
  obtain ⟨same, empty⟩ := (sound s).refused refused
  exact ⟨congrArg (·.base) same, congrArg (·.sch) same, empty⟩

/-! ## Collections -/

theorem Response.record_eq (r : Response) :
    let l := [BitVec.ofNat 8 r.request, BitVec.ofNat 8 r.code.code, BitVec.ofNat 8 r.result.length] ++ r.result
    r.record = l ++ [crc8 l] := by
  simp [Response.record, byte, bytesOf]

theorem freeBytes_length : ∀ n k, (freeBytes n k).length = n
  | 0, _ => rfl
  | n + 1, k => congrArg (· + 1) (freeBytes_length n (k + 1))

theorem exec_collection_high {n : Nat} {s : State} (high : s.resetLow = false) :
    exec (.collection (n + 1)) s = .next (s.collect n) := by
  rw [exec_collection, s.happens_high _ high]
  rfl

/-- Out of READY zeros follow the port status. -/
theorem State.collect_of_not_ready {n : Nat} {s : State} (h : s.port.state ≠ .ready) :
    s.collect n = { s with port := { s.port with miso := s.port.status :: List.replicate n 0 } } := by
  obtain ⟨base, sch, ⟨state, busy, response, miso⟩, resetLow, free, pending⟩ := s
  cases state with
  | ready => exact absurd rfl h
  | idle => simp [State.collect, State.collectsAll, State.collected]
  | executing => simp [State.collect, State.collectsAll, State.collected]

/-- In READY the record follows it, cut short or with more bytes after its CRC. -/
theorem State.collected_of_ready {n : Nat} {s : State} {r : Response} (ready : s.port.state = .ready)
    (response : s.port.response = some r) :
    s.collected n = (r.record ++ freeBytes (n - r.record.length) s.free).take n := by
  simp only [State.collected, ready, response]

theorem State.collect_of_short {n : Nat} {s : State} {r : Response} (ready : s.port.state = .ready)
    (response : s.port.response = some r) (short : n < r.record.length) :
    s.collect n = { s with port := { s.port with miso := s.port.status :: r.record.take n } } := by
  have cut : s.collected n = r.record.take n := by
    rw [State.collected_of_ready ready response, List.take_append_of_le_length (Nat.le_of_lt short)]
  have part : s.collectsAll n = false := by simp [State.collectsAll, ready, response, short]
  simp only [State.collect, cut, part, ready, response, Nat.sub_eq_zero_of_le (Nat.le_of_lt short)]
  rfl

theorem State.collect_of_whole {n : Nat} {s : State} {r : Response} (ready : s.port.state = .ready)
    (response : s.port.response = some r) (whole : r.record.length ≤ n) :
    s.collect n =
      { s with
        free := s.free + (n - r.record.length)
        port := ⟨.idle, false, none, s.port.status :: (r.record ++ freeBytes (n - r.record.length) s.free)⟩ } := by
  have all : s.collectsAll n = true := by simp [State.collectsAll, ready, response, whole]
  have record : s.collected n = r.record ++ freeBytes (n - r.record.length) s.free := by
    rw [State.collected_of_ready ready response, List.take_of_length_le]
    rw [List.length_append, freeBytes_length]
    omega
  simp only [State.collect, record, all, ready, response, ↓reduceIte]

/-- Settles O12: by the port state, and in READY by whether the collection reaches the CRC byte. -/
theorem collectionClocksOutTheResponse : Obligations.CollectionClocksOutTheResponse := by
  intro n s high
  refine ⟨fun h => ?_, fun r ready response => ⟨r.record_eq, fun short => ?_, fun whole => ?_⟩⟩
  · rw [exec_collection_high high, State.collect_of_not_ready h]
  · rw [exec_collection_high high, State.collect_of_short ready response short]
  · rw [exec_collection_high high, State.collect_of_whole ready response whole]
    exact ⟨_, _, rfl, rfl, freeBytes_length _ _, rfl, rfl, rfl, rfl⟩

/-! ## The clock -/

theorem Base.tick_eq (v : Base) :
    v.tick = { v with clock := v.tick.clock, frac := v.tick.frac, idleBits := min 10 (v.idleBits + 3) } := by
  unfold Base.tick Base.quiet
  split
  · rfl
  split <;> rfl

/-- One period of REFCLK on an empty queue. -/
theorem State.idle_eq {s : State} (high : s.resetLow = false) :
    s.idle = { s with base := { s.base with
      clock := s.base.tick.clock
      frac := s.base.tick.frac
      idleBits := if s.sch.attempt = none then min 10 (s.base.idleBits + 3) else s.base.idleBits } } := by
  have tick := s.base.tick_eq
  unfold State.idle State.passing
  rw [high]
  cases h : s.sch.attempt <;> simp only [Option.isSome, Bool.false_eq_true, ↓reduceIte, reduceCtorEq] <;> rw [tick]

theorem Base.tick_within {v : Base} (h : v.frac + 1 < 32768) : v.tick.clock = v.clock ∧ v.tick.frac = v.frac + 1 := by
  simp [Base.tick, h]

theorem Base.tick_second {v : Base} (h : v.frac + 1 = 32768) (k : v.clock < 4294967295) :
    v.tick.clock = v.clock + 1 ∧ v.tick.frac = 0 := by
  simp [Base.tick, h, clockMax, k]

theorem Base.tick_stopped {v : Base} (h : v.frac + 1 = 32768) (k : 4294967295 ≤ v.clock) :
    v.tick.clock = v.clock ∧ v.tick.frac = v.frac := by
  simp [Base.tick, h, clockMax, Nat.not_lt.mpr k]

theorem second_ahead {v : Base} {c : Nat} (frac : v.frac < 32768) (ahead : v.clock < c) : ¬ c * unit ≤ v.now := by
  unfold unit Base.now
  omega

theorem second_periods (c : Nat) : (c * unit + 124) / 125 = c * 32768 := by
  unfold unit
  omega

/-- The clock counts on to a whole second still ahead. -/
theorem Base.countTo_second {v : Base} {c : Nat} (frac : v.frac < 32768) (ahead : v.clock < c) (le : c ≤ clockMax) :
    (v.countTo (c * unit)).clock = c ∧ (v.countTo (c * unit)).frac = 0 := by
  have inRange : ¬ clockMax < c := Nat.not_lt.mpr le
  unfold Base.countTo
  rw [if_neg (second_ahead frac ahead), second_periods]
  dsimp only
  rw [Nat.mul_div_cancel c (by decide), if_neg inRange]
  exact ⟨rfl, Nat.mul_mod_left c 32768⟩

/-- Counting on changes the clock, its fraction and the quiet of the line alone. -/
theorem State.countTo_base_frame (t : Nat) (s : State) : (s.countTo t).base =
    { s.base with
      clock := (s.countTo t).base.clock, frac := (s.countTo t).base.frac, idleBits := (s.countTo t).base.idleBits } := by
  rw [s.countTo_base t, s.base.countTo_frame t]

/-- EPOCH_DAY_CHANGE happens at the first second of the next epoch day. -/
theorem epochDayChange_happens {s : State} {c : Nat} (high : s.resetLow = false) (frac : s.base.frac < 32768)
    (next : c = (s.base.day + 1) * 86400) (inRange : c ≤ clockMax) :
    ∃ t, Happened .epochDayChange s t ∧ t.sch = s.sch ∧ t.base.clock = c ∧ t.base.frac = 0 ∧
      t.base = { s.base with clock := t.base.clock, frac := t.base.frac, idleBits := t.base.idleBits } := by
  have ahead : s.base.clock < c := by
    rw [next, Base.day]
    omega
  obtain ⟨clock, zero⟩ := Base.countTo_second frac ahead inRange
  have run := (exec_epochDayChange s).trans (s.happens_high _ high)
  rw [← next] at run
  have beside := s.beside_countTo (c * unit)
  exact ⟨_, ⟨run, beside.port, beside.resetLow, beside.free, beside.pending⟩, s.countTo_sch _, (s.countTo_clock _).trans clock,
    (s.countTo_frac _).trans zero, s.countTo_base_frame _⟩

/-- Settles O2. -/
theorem theClockCounts : Obligations.TheClockCounts := by
  refine ⟨fun s queue frac => ?_, fun s high frac inRange => ?_⟩
  · have run : step s = .next s.idle := by rw [step, queue]
    split
    · rename_i low
      rw [run]
      simp [State.idle, low]
    · rename_i high
      rw [run, State.idle_eq (by simpa using high)]
      exact ⟨_, rfl, rfl, Base.tick_within, Base.tick_second, Base.tick_stopped⟩
  · have next : (s.base.clock / 86400 + 1) * 86400 = (s.base.day + 1) * 86400 := by rw [Base.day]
    obtain ⟨t, happened, sch, clock, zero, rest⟩ := epochDayChange_happens high frac next inRange
    have day : t.base.day = s.base.day + 1 := by
      rw [Base.day, clock, next, Nat.mul_div_cancel _ (by decide)]
    refine ⟨t, happened, sch, clock, zero, day, ?_, rest⟩
    rw [Base.tag, day, Base.tag]
    omega

end Sys2Proof.Machine
end

section
/-! The fields of results in bytes, the requests that name a booking or read, FETCH-NOTICE and the attention line. -/

namespace Sys2Proof.Machine

/-! ## Fields -/

theorem bytesOf_four_eq_field4 (n : Nat) : bytesOf 4 n = field4 n := by simp [bytesOf, field4]

@[simp] theorem field4_length (n : Nat) : (field4 n).length = 4 := rfl

theorem linkField_eq_fields (i : LinkId) : linkField i = field1 i.origin ++ field2 i.serial := by
  simp only [linkField, byte_eq_field1, bytesOf_two_eq_field2]

theorem yesNo_eq_field1 (b : Bool) : yesNo b = field1 b.toNat := byte_eq_field1 _

theorem seconds_eq (t : Nat) : seconds t = (t + 4095999) / 4096000 := by
  have whole : t + 4096000 - 1 = t + 4095999 := by omega
  unfold seconds unit
  rw [whole]

/-- The tuner of a segment as a booking record gives it (R19). -/
theorem Tuner.index_eq (k : Tuner) : k.index = if k = .A then 0 else 1 := by cases k <;> rfl

/-! ## Requests that name a booking -/

/-- A request that is carried out with an OK and leaves the state. -/
theorem State.Takes.told {i : Instr} {c : Nat} {f : State → Answer} {s : State} {l : List Byte} (takes : s.Takes)
    (code : i.code = some c) (run : exec i s = s.request c f) (answer : f s = s.done l) : Told i s l := by
  have answered := takes.answered code run
  rw [answer] at answered
  exact ⟨_, answered rfl rfl rfl rfl, rfl, rfl⟩

theorem State.withBooking_badValue {h : Nat} {x : Option BookingId} {f : Booking → State → Answer} {s : State}
    (range : 127 < h) : s.withBooking h x f = s.refuse .badValue := by
  simp [State.withBooking, Sched.named?, range]

theorem State.withBooking_free {h : Nat} {x : Option BookingId} {f : Booking → State → Answer} {s : State}
    (range : h ≤ 127) (free : s.sch.bk h = none) : s.withBooking h x f = s.refuse .noSuch := by
  simp [State.withBooking, Sched.named?, Nat.not_lt.mpr range, free]

theorem State.withBooking_other {h : Nat} {x : Option BookingId} {f : Booking → State → Answer} {s : State} {b : Booking}
    (range : h ≤ 127) (entry : s.sch.bk h = some b) (other : expects x b = false) :
    s.withBooking h x f = s.refuse .noSuch := by
  simp [State.withBooking, Sched.named?, Nat.not_lt.mpr range, entry, other]

theorem State.withBooking_found {h : Nat} {x : Option BookingId} {f : Booking → State → Answer} {s : State} {b : Booking}
    (range : h ≤ 127) (entry : s.sch.bk h = some b) (agrees : x = none ∨ x = some b.id) : s.withBooking h x f = f b s := by
  have expected : expects x b = true := by obtain rfl | rfl := agrees <;> simp [expects]
  simp [State.withBooking, Sched.named?, Nat.not_lt.mpr range, entry, expected]

/-- The four requests that name a booking (R2). -/
theorem exec_named {h : Nat} {x : Option BookingId} {i : Instr}
    (named : (∃ f, i = .amend h x f) ∨ i = .cancel h x ∨ i = .readBooking h x ∨ ∃ d, i = .resolve h x d) :
    ∃ c f, i.code = some c ∧ ∀ s, exec i s = s.request c (State.withBooking h x f) := by
  obtain ⟨f, rfl⟩ | rfl | rfl | ⟨d, rfl⟩ := named
  · exact ⟨7, State.amendEntry f, rfl, fun _ => rfl⟩
  · exact ⟨8, State.cancelEntry, rfl, fun _ => rfl⟩
  · exact ⟨9, fun b s => s.done b.bytes, rfl, fun _ => rfl⟩
  · exact ⟨21, State.resolve d, rfl, fun _ => rfl⟩

theorem Sched.bk_none {s : Sched} {h : Nat} (free : ∀ b ∈ s.bookings, b.handle ≠ h) : s.bk h = none := by
  simpa [Sched.bk] using free

/-! ## The record of a booking -/

theorem exec_readBooking (h : Nat) (x : Option BookingId) (s : State) :
    exec (.readBooking h x) s = s.request 9 (State.withBooking h x fun b s => s.done b.bytes) := rfl

theorem Segment.bytes_eq (g : Segment) : g.bytes =
    field1 g.station ++ field1 ((g.tuner.map fun k => if k = .A then 0 else 1).getD 255) ++ field4 g.frm ++
      field4 (g.til.getD 0) := by
  have index : (g.tuner.map Tuner.index) = g.tuner.map fun k => if k = .A then 0 else 1 :=
    Option.map_congr fun k _ => k.index_eq
  rw [Segment.bytes, byte_eq_field1, byte_eq_field1, bytesOf_four_eq_field4, bytesOf_four_eq_field4, index]

theorem Segment.bytes_length (g : Segment) : g.bytes.length = 10 := by simp [g.bytes_eq]

theorem segments_length (l : List Segment) : (l.flatMap Segment.bytes).length = 10 * l.length := by
  induction l with
  | nil => rfl
  | cons g l ih =>
    rw [List.flatMap_cons, List.length_append, Segment.bytes_length, ih, List.length_cons]
    omega

/-- A link id in its place, zeros where there is none. -/
theorem linkField_getD (l : Option LinkId) : linkField (l.getD ⟨0, 0⟩) =
    field1 ((l.map (·.origin)).getD 0) ++ field2 ((l.map (·.serial)).getD 0) := by
  rw [linkField_eq_fields]
  cases l <;> rfl

/-! ## NEXT-BOOKING -/

/-- In a list in the order of a key the first member that a test picks is the one with the least key. -/
theorem find?_eq_some_of_least {α : Type} {key : α → Nat} {l : List α} {p : α → Bool} {b : α}
    (sorted : (l.map key).Pairwise (· < ·)) (inside : b ∈ l) (picked : p b = true)
    (least : ∀ c ∈ l, p c = true → key b ≤ key c) : l.find? p = some b := by
  induction l with
  | nil => cases inside
  | cons c l ih =>
    rw [List.map_cons, List.pairwise_cons] at sorted
    obtain ⟨above, rest⟩ := sorted
    obtain rfl | later := List.mem_cons.mp inside
    · rw [List.find?_cons_of_pos picked]
    · have skipped : ¬ p c = true := fun hit => by
        have below := above (key b) (List.mem_map_of_mem later)
        have := least c List.mem_cons_self hit
        omega
      rw [List.find?_cons_of_neg skipped]
      exact ih rest later fun d hd => least d (List.mem_cons_of_mem c hd)

/-- In a table in order of handle each entry is the one at its handle. -/
theorem Sched.bk_of_mem {s : Sched} {b : Booking} (sorted : (s.bookings.map Booking.handle).Pairwise (· < ·))
    (inside : b ∈ s.bookings) : s.bk b.handle = some b :=
  find?_eq_some_of_least sorted inside (beq_self_eq_true _) fun _ _ hit => Nat.le_of_eq (beq_iff_eq.mp hit).symm

/-- A starting handle is as expected when its entry, if a booking id is expected, is in use with that id (R2). -/
theorem StartAt.found_iff {s : Sched} (sorted : (s.bookings.map Booking.handle).Pairwise (· < ·)) (x : StartAt) :
    StartAt.found s x = true ↔ ∀ j ∈ x.expect, ∃ b ∈ s.bookings, b.handle = x.handle ∧ b.id = j := by
  unfold StartAt.found
  cases hx : x.expect with
  | none => simp
  | some j =>
    simp only [Option.isNone_some, Bool.false_or, Option.mem_def, Option.some.injEq, forall_eq']
    constructor
    · intro h
      obtain ⟨b, entry, agrees⟩ := (Option.any_eq_true _ _).mp h
      obtain ⟨handle, inside⟩ := s.bk_handle entry
      exact ⟨b, inside, handle, Eq.symm (by simpa [expects] using agrees)⟩
    · rintro ⟨b, inside, handle, rfl⟩
      rw [← handle, Sched.bk_of_mem sorted inside]
      simp [expects]

theorem filterAdmits_iff {filter : Nat} (range : filter ≤ 2) (b : Booking) : filterAdmits filter b = true ↔
    filter = 0 ∨ (filter = 1 ∧ b.cls ≠ .hosted) ∨ (filter = 2 ∧ b.cls = .hosted) := by
  obtain rfl | rfl | rfl : filter = 0 ∨ filter = 1 ∨ filter = 2 := by omega
  all_goals simp [filterAdmits, Booking.hosted]

theorem exec_nextBooking (start : Option StartAt) (filter : Nat) (s : State) :
    exec (.nextBooking start filter) s = s.request 10 (State.nextBooking start filter) := rfl

theorem State.nextBooking_badValue {start : Option StartAt} {filter : Nat} {s : State}
    (h : (∃ x ∈ start, 127 < x.handle) ∨ 2 < filter) : s.nextBooking start filter = s.refuse .badValue := by
  have bad : (start.any (127 < ·.handle) || decide (2 < filter)) = true := by
    simpa [Option.any_eq_true] using h
  simp only [State.nextBooking, bad, ↓reduceIte]

/-- Within the ranges the answer is the first entry that the request admits, where the starting handle is as expected. -/
theorem State.nextBooking_inRange {start : Option StartAt} {filter : Nat} {s : State}
    (handles : ∀ x ∈ start, x.handle ≤ 127) (range : filter ≤ 2) : s.nextBooking start filter =
    if start.all (StartAt.found s.sch) then
      match s.sch.bookings.find? fun b => start.all (·.handle < b.handle) && filterAdmits filter b with
      | none => s.refuse .noSuch
      | some b => s.done (byte b.handle ++ idField b.id ++ byte b.cls.code ++ byte b.state.code)
    else s.refuse .noSuch := by
  have good : (start.any (127 < ·.handle) || decide (2 < filter)) = false := by
    cases start <;> simp_all
  unfold State.nextBooking
  rw [good]
  cases start.all (StartAt.found s.sch) <;> rfl

/-- Settles O14: the refusals of a handle, the layout of the record, and the first entry in order of handle. -/
theorem readingABooking : Obligations.ReadingABooking := by
  refine ⟨fun h x i s takes named => ?_, fun h x b s takes range entry agrees segs => ?_,
    fun start filter s takes sorted => ?_⟩
  · obtain ⟨c, f, code, run⟩ := exec_named named
    refine ⟨fun above => takes.refused code (run s) (State.withBooking_badValue above),
      fun range free => takes.refused code (run s) (State.withBooking_free range (Sched.bk_none free)), ?_⟩
    rintro range b entry ⟨j, rfl, other⟩
    exact takes.refused code (run s) (State.withBooking_other range entry (by simpa [expects] using other))
  · intro segment plan record
    have segments : Segment.bytes = segment := funext Segment.bytes_eq
    have padding : (b.segs.flatMap Segment.bytes).length ≤ 40 := by
      rw [segments_length]
      omega
    have slots : padTo 40 (b.segs.flatMap segment) =
        b.segs.flatMap segment ++ List.replicate (40 - 10 * b.segs.length) 0 := by
      rw [← segments, padTo_eq_append padding, segments_length]
    have planBytes : plan = field1 b.plan.kind ++ field1 b.plan.value := by
      simp only [plan]
      rcases b.plan with _ | (_ | _) | n | n <;> rfl
    have layout : b.bytes = record := by
      unfold Booking.bytes Booking.presence
      simp only [byte_eq_field1, bytesOf_two_eq_field2, bytesOf_four_eq_field4,
        idField_eq_fields, linkField_getD, segments, slots, planBytes,
        funext seconds_eq, List.append_assoc, record]
    constructor
    · rw [← layout]
      unfold Booking.bytes
      simp only [padTo_eq_append padding, List.length_append, segments_length, List.length_replicate,
        byte_eq_field1, bytesOf_two_eq_field2, bytesOf_four_eq_field4, idField_eq_fields, linkField_getD, field1_length,
        field2_length, field4_length]
      omega
    · refine takes.told rfl (exec_readBooking h x s) ?_
      rw [State.withBooking_found range entry agrees, layout]
  · intro admits asExpected
    have picked (b : Booking) : (start.all (·.handle < b.handle) && filterAdmits filter b) = true ↔
        (∀ x ∈ start, x.handle < b.handle) ∧ filterAdmits filter b = true := by
      cases start <;> simp
    have expected : start.all (StartAt.found s.sch) = true ↔ asExpected := by
      cases start <;> simp [asExpected, StartAt.found_iff sorted]
    refine ⟨fun bad => takes.refused rfl (exec_nextBooking start filter s) (State.nextBooking_badValue bad),
      fun handles range => ?_⟩
    have answer := State.nextBooking_inRange (s := s) handles range
    have admitted (b : Booking) : (start.all (·.handle < b.handle) && filterAdmits filter b) = true ↔ admits b := by
      rw [picked, filterAdmits_iff range]
    refine ⟨fun none => takes.refused rfl (exec_nextBooking start filter s) ?_, fun found b inside hit least =>
      takes.told rfl (exec_nextBooking start filter s) ?_⟩
    · rw [answer]
      split
      · rename_i found
        have nobody : s.sch.bookings.find? (fun b => start.all (·.handle < b.handle) && filterAdmits filter b) = .none :=
          List.find?_eq_none.mpr fun b inside hit =>
            none.resolve_left (not_not_intro (expected.mp found)) b inside ((admitted b).mp hit)
        rw [nobody]
      · rfl
    · rw [answer, if_pos (expected.mpr found), find?_eq_some_of_least sorted inside ((admitted b).mpr hit)
        fun c hc h => least c hc ((admitted c).mp h)]
      simp [byte_eq_field1, idField_eq_fields, field1, field2]

end Sys2Proof.Machine
end

section
/-! FETCH-NOTICE with the attention line, READ-PEER and READ-STATION. -/

namespace Sys2Proof.Machine

/-- A request that is carried out with an OK. -/
theorem State.Takes.answers {i : Instr} {c : Nat} {f : State → Answer} {s t : State} {l : List Byte} (takes : s.Takes)
    (code : i.code = some c) (run : exec i s = s.request c f) (answer : f s = t.done l) (beside : s.Beside t) :
    ∃ u, Answered i s u .ok l ∧ u.base = t.base ∧ u.sch = t.sch := by
  have answered := takes.answered code run
  rw [answer] at answered
  exact ⟨_, answered beside.port beside.resetLow beside.free beside.pending, rfl, rfl⟩

/-! ## FETCH-NOTICE -/

theorem exec_fetchNotice (s : State) : exec .fetchNotice s = s.request 22 State.fetchNotice := rfl

theorem Notice.bytes_eq (n : Notice) : n.bytes = BitVec.ofNat 8 n.kind :: n.fields := by
  rw [Notice.bytes, byte_eq_field1]
  rfl

theorem State.fetchNotice_empty {s : State} (h : s.sch.notices = []) : s.fetchNotice = s.refuse .noSuch := by
  simp only [State.fetchNotice, h]

/-- The oldest notice is answered with the marker as it stood and the number left (R186). -/
theorem State.fetchNotice_cons {s : State} {n : Notice} {rest : List Notice} (h : s.sch.notices = n :: rest) :
    s.fetchNotice =
      let sch := { s.sch with notices := rest, overflow := false }.admitPending
      { s with sch := sch }.done (n.bytes ++ yesNo s.sch.overflow ++ byte sch.notices.length) := by
  simp only [State.fetchNotice, h]

theorem Sched.admitPending_none {s : Sched} (h : s.pendingOutcomes = []) : s.admitPending = s := by
  simp only [Sched.admitPending, h]

/-- The oldest pending outcome takes the room, and its entry is freed (R17). -/
theorem Sched.admitPending_cons {s : Sched} {h : Nat} {hs : List Nat} {b : Booking} (pending : s.pendingOutcomes = h :: hs)
    (room : s.notices.length < 32) (entry : s.bk h = some b) : s.admitPending =
      { s with
        notices := s.notices ++ [b.outcomeNotice]
        pendingOutcomes := hs
        bookings := s.bookings.filter fun c => c.handle != h } := by
  simp only [Sched.admitPending, pending, room, entry, ↓reduceIte]
  rfl

/-- A FETCH-NOTICE is answered with a notice, the marker and the number left. -/
theorem State.Takes.fetched {s : State} {n : Notice} {rest : List Notice} {x : Sched} (takes : s.Takes)
    (h : s.sch.notices = n :: rest) (room : { s.sch with notices := rest, overflow := false }.admitPending = x) :
    ∃ t, Answered .fetchNotice s t .ok
        (BitVec.ofNat 8 n.kind :: n.fields ++ [BitVec.ofNat 8 s.sch.overflow.toNat, BitVec.ofNat 8 x.notices.length]) ∧
      t.base = s.base ∧ t.sch = x := by
  refine takes.answers (t := { s with sch := x }) rfl (exec_fetchNotice s) ?_ (s.beside_of _ _)
  rw [State.fetchNotice_cons h, room]
  dsimp only
  rw [n.bytes_eq, yesNo_eq_field1, byte_eq_field1, List.append_assoc]
  rfl

/-- The attention line is active for a notice or for the unread mark of a fitted tuner (R187). -/
theorem State.attention_iff {s : State} (fitted : s.base.cfg.fitted = 1 ∨ s.base.cfg.fitted = 2) : s.attention = true ↔
    s.sch.notices ≠ [] ∨ s.sch.tuners.a.unread = true ∨ (s.base.cfg.fitted = 2 ∧ s.sch.tuners.b.unread = true) := by
  obtain fitted | fitted := fitted <;> simp [State.attention, Base.fittedTuners, fitted, Two.get]

/-- Settles O13. -/
theorem fetchNoticeAndTheAttentionLine : Obligations.FetchNoticeAndTheAttentionLine := by
  refine ⟨fun s takes => ⟨fun none => takes.refused rfl (exec_fetchNotice s) (State.fetchNotice_empty none),
    fun n rest notices room => ⟨fun none => ?_, fun h hs b pending entry => ?_⟩⟩, fun s fitted => ?_⟩
  · exact takes.fetched notices (Sched.admitPending_none none)
  · have admitted := Sched.admitPending_cons (s := { s.sch with notices := rest, overflow := false }) pending room entry
    have fetched := takes.fetched notices admitted
    rwa [List.length_append] at fetched
  · rw [State.attnLow, Bool.and_eq_true, State.attention_iff fitted, Bool.not_eq_true']

/-! ## READ-PEER -/

theorem optional_one_eq (x : Option Nat) : optional 1 x = field1 x.isSome.toNat ++ field1 (x.getD 0) := by
  rw [optional, yesNo_eq_field1]
  exact congrArg _ (byte_eq_field1 _)

theorem optional_two_eq (x : Option Nat) : optional 2 x = field1 x.isSome.toNat ++ field2 (x.getD 0) := by
  rw [optional, yesNo_eq_field1, bytesOf_two_eq_field2]

theorem valueOr_four_eq (x : Option Nat) : valueOr 4 x = field1 x.isNone.toNat ++ field4 (x.getD 0) := by
  rw [valueOr, byte_eq_field1, bytesOf_four_eq_field4]

/-- A peer is eligible when no condition bars it (R154). -/
theorem Peer.eligible_eq (p : Peer) : p.eligible = p.bar.isNone := by
  unfold Peer.eligible Peer.bar
  cases p.presence <;> cases p.flags.untimed <;> cases p.flags.rxFault <;> cases p.flags.joining <;>
    cases p.flags.leaving <;> rfl

theorem exec_readPeer (n : Nat) (s : State) : exec (.readPeer n) s = s.request 23 (State.readPeer n) := rfl

theorem exec_readStation (part : Nat) (s : State) : exec (.readStation part) s = s.request 24 (State.readStation part) := rfl

theorem Base.peer_none {v : Base} {n : Nat} (h : ∀ p ∈ v.peers, p.station ≠ n) : v.peer n = none := by
  simpa [Base.peer] using h

theorem readPeer_told (n : Nat) (s : State) (p : Peer) (takes : s.Takes) (low : 1 ≤ n) (high : n ≤ 8)
    (record : s.base.peer n = some p) : Told (.readPeer n) s (p.bytes ++ s.sch.withPeer n) := by
  have inRange : ¬ (n < 1 ∨ 8 < n) := by omega
  refine takes.told rfl (exec_readPeer n s) ?_
  rw [State.readPeer, if_neg inRange, record]

theorem readStation_told (s : State) (takes : s.Takes) : Told (.readStation 0) s (s.statusHead ++ s.statusTail) ∧
    Told (.readStation 1) s (configBytes s.base.cfg ++ yesNo s.base.station.locked) :=
  ⟨takes.told rfl (exec_readStation 0 s) rfl, takes.told rfl (exec_readStation 1 s) rfl⟩

theorem Sched.usableTuners_length (s : Sched) :
    s.usableTuners.length = (s.usable .A).toNat + (s.usable .B).toNat := by
  unfold Sched.usableTuners
  cases ha : s.usable .A <;> cases hb : s.usable .B <;> simp [ha, hb]

/-- Settles O16: field by field, in the order of R188 and R189. -/
theorem readPeerAndReadStation : Obligations.ReadPeerAndReadStation := by
  refine ⟨fun n s takes => ⟨fun bad => ?_, fun low high none => ?_, fun low high p record => ?_⟩, fun s takes => ?_⟩
  · refine takes.refused rfl (exec_readPeer n s) ?_
    rw [State.readPeer, if_pos (by omega)]
  · refine takes.refused rfl (exec_readPeer n s) ?_
    rw [State.readPeer, if_neg (by omega), Base.peer_none none]
  · intro flag maybe orWord view bar count exchange
    have views : viewBytes = view := funext fun x => by
      cases x with
      | none => rfl
      | some w =>
        unfold viewBytes listField ViewTuner.bytes
        simp only [view, maybe, orWord, flag, yesNo_eq_field1, byte_eq_field1, optional_two_eq, valueOr_four_eq]
        rfl
    have bars : p.bar = bar := rfl
    refine (congrArg (Told (.readPeer n) s) ?_).mp (readPeer_told n s p takes low high record)
    unfold Peer.bytes Sched.withPeer listField countOf
    rw [views, p.eligible_eq, bars]
    simp only [optional_one_eq, optional_two_eq, valueOr_four_eq, byte_eq_field1, yesNo_eq_field1, RollFlags.code,
      funext seconds_eq, List.append_assoc, flag, maybe, orWord, count, exchange]
    cases s.sch.engine <;> rfl
  · intro v flag tuner fitted engine
    obtain ⟨status, settings⟩ := readStation_told s takes
    refine ⟨(congrArg (Told (.readStation 0) s) ?_).mp status, (congrArg (Told (.readStation 1) s) ?_).mp settings,
      fun part above => takes.refused rfl (exec_readStation part s) ?_⟩
    · have tuners : s.sch.tunerStatus = tuner := funext fun k => by
        unfold Sched.tunerStatus topRecord
        simp only [optional_two_eq, bytesOf_two_eq_field2, byte_eq_field1, yesNo_eq_field1, Marks.code,
          TunerRec.holdCount, List.append_assoc, tuner, flag]
        cases s.sch.stacked.get k <;> rfl
      have engines : s.sch.engine.bytes = engine := by
        simp only [engine]
        cases s.sch.engine <;> simp only [Engine.bytes, optional_one_eq, byte_eq_field1] <;> rfl
      unfold State.statusHead State.statusTail listField
      simp only [byte_eq_field1, bytesOf_two_eq_field2, bytesOf_four_eq_field4, yesNo_eq_field1, tuners, engines,
        s.sch.usableTuners_length, Base.tag, Base.day, badCount, Sched.hostedInUse, Base.fittedTuners, List.append_assoc, v,
        flag, fitted]
    · unfold configBytes
      have locked : field1 v.station.locked.toNat =
          [if v.station = .joining ∨ v.station = .joined ∨ v.station = .leaving then 1 else 0] := by
        cases v.station <;> rfl
      simp only [byte_eq_field1, bytesOf_two_eq_field2, flag, ← locked, v, List.append_assoc,
        funext yesNo_eq_field1]
    · match part, above with
      | part + 2, _ => rfl

end Sys2Proof.Machine
end

section
/-! The form check (R183): the fields of a request record are read back as they were sent, whatever bytes follow. -/

namespace Sys2Proof.Machine

/-! ## Bytes at their places -/

@[simp] theorem bytesOf_length : ∀ w n, (bytesOf w n).length = w
  | 0, _ => rfl
  | w + 1, n => congrArg (· + 1) (bytesOf_length w n)

@[simp] theorem byte_length (n : Nat) : (byte n).length = 1 := bytesOf_length 1 n

@[simp] theorem yesNo_length (b : Bool) : (yesNo b).length = 1 := byte_length _

@[simp] theorem optional_length (w : Nat) (x : Option Nat) : (optional w x).length = w + 1 := by
  simp [optional, Nat.add_comm]

@[simp] theorem idField_length (i : BookingId) : (idField i).length = 3 := by simp [idField]

@[simp] theorem linkField_length (i : LinkId) : (linkField i).length = 3 := by simp [linkField]

@[simp] theorem optionalId_length (x : Option BookingId) : (optionalId x).length = 4 := by simp [optionalId]

@[simp] theorem alternative_length (w k n : Nat) : (alternative w k n).length = w + 1 := by
  simp [alternative, Nat.add_comm]

@[simp] theorem ScopeField.bytes_length (f : ScopeField) : (ScopeField.bytes f).length = 3 := by
  cases f <;> simp [ScopeField.bytes]

@[simp] theorem CountField.bytes_length (f : CountField) : (CountField.bytes f).length = 2 := by
  cases f <;> simp [CountField.bytes]

@[simp] theorem LinkKey.bytes_length (k : LinkKey) : (LinkKey.bytes k).length = 4 := by
  cases k <;> simp [LinkKey.bytes]

theorem flatMap_byte_length (l : List Nat) : (l.flatMap byte).length = l.length := by
  induction l with
  | nil => rfl
  | cons n l ih => rw [List.flatMap_cons, List.length_append, ih, byte_length, List.length_cons, Nat.add_comm]

/-- A place beyond the front part of a list is a place of what follows it. -/
theorem getD_skip {p q : List Byte} {i : Nat} (h : p.length ≤ i) : (p ++ q).getD i 0 = q.getD (i - p.length) 0 := by
  rw [List.getD_eq_getElem?_getD, List.getD_eq_getElem?_getD, List.getElem?_append_right h]

theorem drop_skip {p q : List Byte} {i : Nat} (h : p.length ≤ i) : (p ++ q).drop i = q.drop (i - p.length) := by
  rw [List.drop_append, List.drop_eq_nil_of_le h, List.nil_append]

theorem numAt_skip {p q : List Byte} {i : Nat} (h : p.length ≤ i) (w : Nat) :
    numAt (p ++ q) i w = numAt q (i - p.length) w := by
  induction w with
  | zero => rfl
  | succ w ih =>
    rw [numAt, numAt, ih, getD_skip (Nat.le_add_right_of_le h), Nat.sub_add_comm h]

theorem optAt_skip {p q : List Byte} {i : Nat} (h : p.length ≤ i) (w : Nat) :
    optAt (p ++ q) i w = optAt q (i - p.length) w := by
  rw [optAt, optAt, getD_skip h, numAt_skip (Nat.le_add_right_of_le h), Nat.sub_add_comm h]

theorem idAt_skip {p q : List Byte} {i : Nat} (h : p.length ≤ i) : idAt (p ++ q) i = idAt q (i - p.length) := by
  rw [idAt, idAt, numAt_skip h, numAt_skip (Nat.le_add_right_of_le h), Nat.sub_add_comm h]

theorem linkIdAt_skip {p q : List Byte} {i : Nat} (h : p.length ≤ i) :
    linkIdAt (p ++ q) i = linkIdAt q (i - p.length) := by
  rw [linkIdAt, linkIdAt, numAt_skip h, numAt_skip (Nat.le_add_right_of_le h), Nat.sub_add_comm h]

theorem optIdAt_skip {p q : List Byte} {i : Nat} (h : p.length ≤ i) : optIdAt (p ++ q) i = optIdAt q (i - p.length) := by
  rw [optIdAt, optIdAt, getD_skip h, idAt_skip (Nat.le_add_right_of_le h), Nat.sub_add_comm h]

/-! ## A number that fits its width is read back -/

theorem numAt_one {n : Nat} (h : fits 1 n = true) (q : List Byte) : numAt (bytesOf 1 n ++ q) 0 1 = n := by
  simp only [fits, decide_eq_true_eq] at h
  simp [numAt, bytesOf]
  omega

theorem numAt_byte {n : Nat} (h : fits 1 n = true) (q : List Byte) : numAt (byte n ++ q) 0 1 = n := numAt_one h q

theorem numAt_two {n : Nat} (h : fits 2 n = true) (q : List Byte) : numAt (bytesOf 2 n ++ q) 0 2 = n := by
  simp only [fits, decide_eq_true_eq] at h
  simp [numAt, bytesOf]
  omega

theorem numAt_three {n : Nat} (h : fits 3 n = true) (q : List Byte) : numAt (bytesOf 3 n ++ q) 0 3 = n := by
  simp only [fits, decide_eq_true_eq] at h
  simp [numAt, bytesOf]
  omega

theorem numAt_four {n : Nat} (h : fits 4 n = true) (q : List Byte) : numAt (bytesOf 4 n ++ q) 0 4 = n := by
  simp only [fits, decide_eq_true_eq] at h
  simp [numAt, bytesOf]
  omega

/-- A presence byte is not 0 exactly for a field that is present. -/
theorem yesNo_getD_eq_zero (b : Bool) (q : List Byte) : (yesNo b ++ q).getD 0 0 = 0 ↔ b = false := by
  cases b <;> simp [yesNo, byte, bytesOf]

theorem optAt_field {w : Nat} {x : Option Nat} {q : List Byte}
    (h : ∀ n, x = some n → numAt (bytesOf w n ++ q) 0 w = n) : optAt (optional w x ++ q) 0 w = x := by
  unfold optAt optional
  rw [List.append_assoc]
  cases x with
  | none => exact if_pos ((yesNo_getD_eq_zero _ _).mpr rfl)
  | some n =>
    rw [if_neg (mt (yesNo_getD_eq_zero _ _).mp (by simp)), numAt_skip (by simp)]
    exact congrArg some (h n rfl)

theorem optAt_one {x : Option Nat} (h : fitsOpt 1 x = true) (q : List Byte) : optAt (optional 1 x ++ q) 0 1 = x :=
  optAt_field fun n e => numAt_one (by simpa [fitsOpt, e] using h) q

theorem optAt_two {x : Option Nat} (h : fitsOpt 2 x = true) (q : List Byte) : optAt (optional 2 x ++ q) 0 2 = x :=
  optAt_field fun n e => numAt_two (by simpa [fitsOpt, e] using h) q

theorem optAt_four {x : Option Nat} (h : fitsOpt 4 x = true) (q : List Byte) : optAt (optional 4 x ++ q) 0 4 = x :=
  optAt_field fun n e => numAt_four (by simpa [fitsOpt, e] using h) q

theorem idAt_field {i : BookingId} (h : i.fits = true) (q : List Byte) : idAt (idField i ++ q) 0 = i := by
  obtain ⟨origin, serial⟩ := Bool.and_eq_true_iff.mp h
  rw [idAt, idField, List.append_assoc, numAt_byte origin, numAt_skip (by simp)]
  exact congrArg _ (numAt_two serial q)

theorem linkIdAt_field {i : LinkId} (h : i.fits = true) (q : List Byte) : linkIdAt (linkField i ++ q) 0 = i := by
  obtain ⟨origin, serial⟩ := Bool.and_eq_true_iff.mp h
  rw [linkIdAt, linkField, List.append_assoc, numAt_byte origin, numAt_skip (by simp)]
  exact congrArg _ (numAt_two serial q)

theorem optIdAt_field {x : Option BookingId} (h : x.all BookingId.fits = true) (q : List Byte) :
    optIdAt (optionalId x ++ q) 0 = x := by
  unfold optIdAt optionalId
  rw [List.append_assoc]
  cases x with
  | none => exact if_pos ((yesNo_getD_eq_zero _ _).mpr rfl)
  | some i =>
    rw [if_neg (mt (yesNo_getD_eq_zero _ _).mp (by simp)), idAt_skip (by simp)]
    exact congrArg some (idAt_field h q)

/-! ## The requests are read back -/

theorem clash_read {l : List Nat} (q : List Byte) (length : l.length = 16) (h : l.all (fits 1) = true) :
    ((l.flatMap byte ++ q).take 16).map BitVec.toNat = l := by
  have width : (l.flatMap byte).length = 16 := (flatMap_byte_length l).trans length
  rw [List.take_append_of_le_length (Nat.le_of_eq width.symm), List.take_of_length_le (Nat.le_of_eq width)]
  clear width length
  induction l with
  | nil => rfl
  | cons n l ih =>
    rw [List.all_cons, Bool.and_eq_true] at h
    obtain ⟨here, rest⟩ := h
    have low : n < 256 := by simpa [fits] using here
    rw [List.flatMap_cons, List.map_append, ih rest]
    simp [byte, bytesOf, Nat.mod_eq_of_lt low]

theorem configAt_fields {c : ConfigFields} (h : c.wellFormed = true) (q : List Byte) :
    configAt (configFields c ++ q) = c := by
  simp only [ConfigFields.wellFormed, Bool.and_eq_true, beq_iff_eq] at h
  obtain ⟨⟨⟨⟨⟨⟨⟨⟨⟨⟨⟨⟨⟨⟨⟨⟨⟨⟨station, household⟩, fitted⟩, roll⟩, window⟩, debounce⟩, skew⟩, length⟩, clash⟩, live⟩, depth⟩, bid⟩,
    take⟩, seek⟩, lead⟩, tune⟩, recheck⟩, grace⟩, overrun⟩ := h
  have width : (c.clash.flatMap byte).length = 16 := (flatMap_byte_length _).trans length
  unfold configAt configFields
  simp (disch := simp [*]) only [List.append_assoc, numAt_skip, numAt_byte, numAt_two, drop_skip, clash_read, byte_length, bytesOf_length, width,
    Nat.reduceSub, List.drop_zero, Nat.sub_self]

theorem bookAt_fields {f : BookFields} (h : f.wellFormed = true) (q : List Byte) :
    bookAt (bytesOf 2 f.service ++ bytesOf 2 f.multiplex ++ optional 2 f.event ++ bytesOf 4 f.start ++ bytesOf 4 f.finish ++
      byte f.pre ++ byte f.post ++ byte f.priority ++ byte f.follow ++ q) = f := by
  simp only [BookFields.wellFormed, Bool.and_eq_true] at h
  obtain ⟨⟨⟨⟨⟨⟨⟨⟨service, multiplex⟩, event⟩, start⟩, finish⟩, pre⟩, post⟩, priority⟩, follow⟩ := h
  unfold bookAt
  simp (disch := simp [*]) only [List.append_assoc, numAt_skip, numAt_byte, numAt_two, numAt_four, optAt_skip, optAt_two, byte_length,
    bytesOf_length, optional_length, Nat.reduceAdd, Nat.reduceSub, Nat.sub_self]

theorem amendAt_fields {h : Nat} {x : Option BookingId} {f : AmendFields} (fit : f.wellFormed = true) (q : List Byte) :
    amendAt (byte h ++ optionalId x ++ optional 1 f.priority ++ optional 1 f.pre ++ optional 1 f.post ++
      optional 1 f.follow ++ optional 4 f.start ++ optional 4 f.finish ++ q) = f := by
  simp only [AmendFields.wellFormed, Bool.and_eq_true] at fit
  obtain ⟨⟨⟨⟨⟨priority, pre⟩, post⟩, follow⟩, start⟩, finish⟩ := fit
  unfold amendAt
  simp (disch := simp [*]) only [List.append_assoc, optAt_skip, optAt_one, optAt_four, byte_length, optionalId_length, optional_length,
    Nat.reduceAdd, Nat.reduceSub, Nat.sub_self]

theorem guideAt_fields {f : GuideFields} (h : f.wellFormed = true) (q : List Byte) :
    guideAt (bytesOf 2 f.service ++ bytesOf 2 f.multiplex ++ bytesOf 2 f.event ++ bytesOf 4 f.start ++
      bytesOf 2 f.duration ++ optional 4 f.series ++ optional 4 f.episode ++ byte f.repeated ++ q) = f := by
  simp only [GuideFields.wellFormed, Bool.and_eq_true] at h
  obtain ⟨⟨⟨⟨⟨⟨⟨service, multiplex⟩, event⟩, start⟩, duration⟩, series⟩, episode⟩, again⟩ := h
  unfold guideAt
  simp (disch := simp [*]) only [List.append_assoc, numAt_skip, numAt_byte, numAt_two, numAt_four, optAt_skip, optAt_four,
    bytesOf_length, optional_length, Nat.reduceAdd, Nat.reduceSub, Nat.sub_self]

theorem linkAt_any {l : List Byte} (h : numAt l 4 1 = 0) : (linkAt l).scope = .any := by simp only [linkAt, h]

theorem linkAt_service {l : List Byte} (h : numAt l 4 1 = 1) : (linkAt l).scope = .service (numAt l 5 2) := by
  simp only [linkAt, h]

theorem linkAt_otherScope {l : List Byte} {k : Nat} (h : numAt l 4 1 = k) (above : 2 ≤ k) : (linkAt l).scope = .other k := by
  match k, above with
  | k + 2, _ => simp only [linkAt, h]

theorem linkAt_unbounded {l : List Byte} (h : numAt l 12 1 = 0) : (linkAt l).count = .unbounded := by simp only [linkAt, h]

theorem linkAt_number {l : List Byte} (h : numAt l 12 1 = 1) : (linkAt l).count = .number (numAt l 13 1) := by
  simp only [linkAt, h]

theorem linkAt_otherCount {l : List Byte} {k : Nat} (h : numAt l 12 1 = k) (above : 2 ≤ k) :
    (linkAt l).count = .other k := by
  match k, above with
  | k + 2, _ => simp only [linkAt, h]

/-- The fields of LINK in the order of R46. -/
def linkBytes (f : LinkFields) : List Byte :=
  bytesOf 4 f.series ++ ScopeField.bytes f.scope ++ byte f.priority ++ byte f.pre ++ byte f.post ++ byte f.follow ++
  byte f.firstRun ++ CountField.bytes f.count

theorem linkAt_scope {f : LinkFields} (h : f.wellFormed = true) (q : List Byte) :
    (linkAt (linkBytes f ++ q)).scope = f.scope := by
  simp only [LinkFields.wellFormed, Bool.and_eq_true] at h
  obtain ⟨⟨⟨⟨⟨⟨⟨-, scope⟩, -⟩, -⟩, -⟩, -⟩, -⟩, -⟩ := h
  have zero : fits 1 0 = true := by decide
  have one : fits 1 1 = true := by decide
  unfold linkBytes
  cases hs : f.scope with
  | any =>
    refine linkAt_any ?_
    simp (disch := simp [*]) only [ScopeField.bytes, alternative, List.append_assoc, numAt_byte, numAt_skip,
      bytesOf_length, Nat.sub_self]
  | service n =>
    rw [hs] at scope
    rw [linkAt_service]
    · simp (disch := simp [*]) only [ScopeField.bytes, alternative, List.append_assoc, numAt_two, numAt_skip,
        bytesOf_length, byte_length, Nat.reduceSub, Nat.sub_self]
    · simp (disch := simp [*]) only [ScopeField.bytes, alternative, List.append_assoc, numAt_byte, numAt_skip,
        bytesOf_length, Nat.sub_self]
  | other k =>
    rw [hs] at scope
    obtain ⟨above, fit⟩ := Bool.and_eq_true_iff.mp scope
    refine linkAt_otherScope ?_ (of_decide_eq_true above)
    simp (disch := simp [*]) only [ScopeField.bytes, alternative, List.append_assoc, numAt_byte, numAt_skip,
      bytesOf_length, Nat.sub_self]

theorem linkAt_count {f : LinkFields} (h : f.wellFormed = true) (q : List Byte) :
    (linkAt (linkBytes f ++ q)).count = f.count := by
  simp only [LinkFields.wellFormed, Bool.and_eq_true] at h
  obtain ⟨-, count⟩ := h
  have zero : fits 1 0 = true := by decide
  have one : fits 1 1 = true := by decide
  unfold linkBytes
  cases hc : f.count with
  | unbounded =>
    refine linkAt_unbounded ?_
    simp (disch := simp [*]) only [CountField.bytes, alternative, List.append_assoc, numAt_byte, numAt_skip,
      bytesOf_length, byte_length, ScopeField.bytes_length, Nat.reduceSub, Nat.sub_self]
  | number n =>
    rw [hc] at count
    rw [linkAt_number]
    · simp (disch := simp [*]) only [CountField.bytes, alternative, List.append_assoc, numAt_one, numAt_skip,
        bytesOf_length, byte_length, ScopeField.bytes_length, Nat.reduceSub, Nat.sub_self]
    · simp (disch := simp [*]) only [CountField.bytes, alternative, List.append_assoc, numAt_byte, numAt_skip,
        bytesOf_length, byte_length, ScopeField.bytes_length, Nat.reduceSub, Nat.sub_self]
  | other k =>
    rw [hc] at count
    obtain ⟨above, fit⟩ := Bool.and_eq_true_iff.mp count
    refine linkAt_otherCount ?_ (of_decide_eq_true above)
    simp (disch := simp [*]) only [CountField.bytes, alternative, List.append_assoc, numAt_byte, numAt_skip,
      bytesOf_length, byte_length, ScopeField.bytes_length, Nat.reduceSub, Nat.sub_self]

theorem linkAt_fields {f : LinkFields} (h : f.wellFormed = true) (q : List Byte) : linkAt (linkBytes f ++ q) = f := by
  have scope := linkAt_scope h q
  have count := linkAt_count h q
  simp only [LinkFields.wellFormed, Bool.and_eq_true] at h
  obtain ⟨⟨⟨⟨⟨⟨⟨series, -⟩, priority⟩, pre⟩, post⟩, follow⟩, firstRun⟩, -⟩ := h
  have others : linkAt (linkBytes f ++ q) =
      { f with scope := (linkAt (linkBytes f ++ q)).scope, count := (linkAt (linkBytes f ++ q)).count } := by
    unfold linkAt linkBytes
    simp (disch := simp [*]) only [List.append_assoc, numAt_skip, numAt_byte, numAt_four, bytesOf_length, byte_length,
      ScopeField.bytes_length, Nat.reduceSub, Nat.sub_self]
  rw [others, scope, count]

/-! ## Every request -/

/-- What READ-LINK carries is read back (R49). -/
theorem readLink_read {k : LinkKey} (fit : (Instr.readLink k).wellFormed = true) (q : List Byte) :
    requestOf 13 (Instr.fieldBytes (.readLink k) ++ q) = some (.readLink k) := by
  have zero : fits 1 0 = true := by decide
  have one : fits 1 1 = true := by decide
  cases k with
  | byId j =>
    have id : j.fits = true := fit
    simp (disch := simp [*]) only [requestOf, Instr.fieldBytes, LinkKey.bytes, List.append_assoc, numAt_byte, linkIdAt_skip,
      byte_length, Nat.sub_self, linkIdAt_field]
  | fromSlot n =>
    have slot : fits 3 n = true := fit
    simp (disch := simp [*]) only [requestOf, Instr.fieldBytes, LinkKey.bytes, alternative, List.append_assoc, numAt_byte,
      numAt_skip, byte_length, Nat.sub_self, numAt_three]
  | other m =>
    obtain ⟨above, low⟩ := Bool.and_eq_true_iff.mp fit
    match m, of_decide_eq_true above with
    | m + 2, _ =>
      simp (disch := simp [*]) only [requestOf, Instr.fieldBytes, LinkKey.bytes, alternative, List.append_assoc, numAt_byte]


/-- The fields of a request are read back (R183). -/
theorem requestOf_fieldBytes {i : Instr} {n : Nat} (fit : i.wellFormed = true) (code : i.code = some n) (q : List Byte) :
    requestOf n (Instr.fieldBytes i ++ q) = some i := by
  cases i with
  | configure c =>
    cases code
    exact congrArg (fun x => some (Instr.configure x)) (configAt_fields fit q)
  | setClock t =>
    cases code
    exact congrArg (fun x => some (Instr.setClock x)) (numAt_four fit q)
  | book f =>
    cases code
    exact congrArg (fun x => some (Instr.book x)) (bookAt_fields fit q)
  | link f =>
    cases code
    exact congrArg (fun x => some (Instr.link x)) (linkAt_fields fit q)
  | unlink j =>
    cases code
    exact congrArg (fun x => some (Instr.unlink x)) (linkIdAt_field fit q)
  | guideEvent f =>
    cases code
    exact congrArg (fun x => some (Instr.guideEvent x)) (guideAt_fields fit q)
  | powerBudget k =>
    cases code
    exact congrArg (fun x => some (Instr.powerBudget x)) (numAt_byte fit q)
  | readDirective k =>
    cases code
    exact congrArg (fun x => some (Instr.readDirective x)) (numAt_byte fit q)
  | readPeer k =>
    cases code
    exact congrArg (fun x => some (Instr.readPeer x)) (numAt_byte fit q)
  | readStation k =>
    cases code
    exact congrArg (fun x => some (Instr.readStation x)) (numAt_byte fit q)
  | amend h x f =>
    cases code
    simp only [Instr.wellFormed, Bool.and_eq_true] at fit
    obtain ⟨⟨handle, expect⟩, fields⟩ := fit
    simp only [requestOf, Instr.fieldBytes, amendAt_fields fields]
    simp (disch := simp [*]) only [List.append_assoc, numAt_byte, optIdAt_skip, byte_length, Nat.sub_self, optIdAt_field]
  | cancel h x =>
    cases code
    simp only [Instr.wellFormed, Bool.and_eq_true] at fit
    obtain ⟨handle, expect⟩ := fit
    simp (disch := simp [*]) only [requestOf, Instr.fieldBytes, List.append_assoc, numAt_byte, optIdAt_skip, byte_length,
      Nat.sub_self, optIdAt_field]
  | readBooking h x =>
    cases code
    simp only [Instr.wellFormed, Bool.and_eq_true] at fit
    obtain ⟨handle, expect⟩ := fit
    simp (disch := simp [*]) only [requestOf, Instr.fieldBytes, List.append_assoc, numAt_byte, optIdAt_skip, byte_length,
      Nat.sub_self, optIdAt_field]
  | nextBooking x f =>
    cases code
    simp only [Instr.wellFormed, Bool.and_eq_true] at fit
    obtain ⟨start, filter⟩ := fit
    have handle : fitsOpt 1 (x.map StartAt.handle) = true := by
      cases x <;> simp_all [fitsOpt]
    have expect : (x.bind StartAt.expect).all BookingId.fits = true := by
      cases x <;> simp_all
    simp (disch := simp [*]) only [requestOf, Instr.fieldBytes, List.append_assoc, numAt_byte, numAt_skip, optAt_one,
      optIdAt_skip, optional_length, optionalId_length, Nat.reduceAdd, Nat.reduceSub, Nat.sub_self, optIdAt_field]
    cases x <;> rfl
  | running v e x =>
    cases code
    simp only [Instr.wellFormed, Bool.and_eq_true] at fit
    obtain ⟨⟨service, event⟩, status⟩ := fit
    simp (disch := simp [*]) only [requestOf, Instr.fieldBytes, List.append_assoc, numAt_byte, numAt_two, numAt_skip,
      bytesOf_length, Nat.reduceSub, Nat.sub_self]
  | holdLive m v f =>
    cases code
    simp only [Instr.wellFormed, Bool.and_eq_true] at fit
    obtain ⟨⟨multiplex, service⟩, force⟩ := fit
    simp (disch := simp [*]) only [requestOf, Instr.fieldBytes, List.append_assoc, numAt_byte, numAt_two, numAt_skip,
      bytesOf_length, Nat.reduceSub, Nat.sub_self]
  | tunerReport t k x =>
    cases code
    simp only [Instr.wellFormed, Bool.and_eq_true] at fit
    obtain ⟨⟨tuner, serial⟩, status⟩ := fit
    simp (disch := simp [*]) only [requestOf, Instr.fieldBytes, List.append_assoc, numAt_byte, numAt_two, numAt_skip,
      byte_length, bytesOf_length, Nat.reduceSub, Nat.sub_self]
  | resolve h x d =>
    cases code
    simp only [Instr.wellFormed, Bool.and_eq_true] at fit
    obtain ⟨⟨handle, expect⟩, decision⟩ := fit
    simp (disch := simp [*]) only [requestOf, Instr.fieldBytes, List.append_assoc, numAt_byte, numAt_skip, optIdAt_skip,
      byte_length, optionalId_length, Nat.reduceSub, Nat.sub_self, optIdAt_field]
  | readLink k =>
    cases code
    exact readLink_read fit q
  | join => cases code; rfl
  | leave => cases code; rfl
  | restart => cases code; rfl
  | releaseLive => cases code; rfl
  | fetchNotice => cases code; rfl
  | _ => cases code

end Sys2Proof.Machine
end

section
/-! The form check of a request record and what becomes of a record that fails it (R183). -/

namespace Sys2Proof.Machine

/-- The fields of a request take the length of its code (R183). -/
theorem fieldBytes_length {i : Instr} {n : Nat} (fit : i.wellFormed = true) (code : i.code = some n) :
    (Instr.fieldBytes i).length = fieldLength n := by
  cases i with
  | configure c =>
    cases code
    simp only [Instr.wellFormed, ConfigFields.wellFormed, Bool.and_eq_true, beq_iff_eq] at fit
    obtain ⟨⟨⟨⟨⟨⟨⟨⟨⟨⟨⟨⟨-, length⟩, -⟩, -⟩, -⟩, -⟩, -⟩, -⟩, -⟩, -⟩, -⟩, -⟩, -⟩ := fit
    simp [Instr.fieldBytes, configFields, fieldLength, length, flatMap_byte_length, -List.length_flatMap]
  | setClock | book | amend | cancel | readBooking | nextBooking | link | unlink | readLink | guideEvent | running
  | holdLive | powerBudget | readDirective | tunerReport | resolve | readPeer | readStation =>
    cases code
    simp [Instr.fieldBytes, fieldLength]
  | join | leave | restart | releaseLive | fetchNotice => cases code; rfl
  | _ => cases code

theorem yesNo_low (b : Bool) (q : List Byte) : ((yesNo b ++ q).getD 0 0).toNat ≤ 1 := by
  cases b <;> simp [yesNo, byte, bytesOf]

theorem optional_low (w : Nat) (x : Option Nat) (q : List Byte) : ((optional w x ++ q).getD 0 0).toNat ≤ 1 := by
  rw [optional, List.append_assoc]
  exact yesNo_low _ _

theorem optionalId_low (x : Option BookingId) (q : List Byte) : ((optionalId x ++ q).getD 0 0).toNat ≤ 1 := by
  rw [optionalId, List.append_assoc]
  exact yesNo_low _ _

/-- The presence bytes of a request that is sent are 0 or 1 (R183). -/
theorem fieldBytes_presence {i : Instr} {n : Nat} (code : i.code = some n) (q : List Byte) :
    ∀ k ∈ presenceAt n, ((Instr.fieldBytes i ++ q).getD k 0).toNat ≤ 1 := by
  cases i with
  | book | amend | cancel | readBooking | nextBooking | guideEvent | resolve =>
    cases code
    simp (disch := simp) only [presenceAt, List.forall_mem_cons, List.not_mem_nil, false_implies, implies_true,
      Instr.fieldBytes, List.append_assoc, getD_skip, byte_length, bytesOf_length, optional_length, optionalId_length,
      Nat.reduceAdd, Nat.reduceSub, Nat.sub_self, optional_low, optionalId_low, and_self]
  | configure | setClock | link | unlink | readLink | running | holdLive | powerBudget | readDirective | tunerReport
  | readPeer | readStation | join | leave | restart | releaseLive | fetchNotice =>
    cases code
    exact fun k hk => absurd hk List.not_mem_nil
  | _ => cases code

/-! ## A record that passes -/

/-- A record byte by byte: the code, the length, the fields and the CRC of these, and what follows it. -/
theorem requestRecord_append (n : Nat) (l extra : List Byte) : requestRecord n l ++ extra =
    BitVec.ofNat 8 n :: BitVec.ofNat 8 l.length ::
      (l ++ crc8 (BitVec.ofNat 8 n :: BitVec.ofNat 8 l.length :: l) :: extra) := by
  simp [requestRecord, byte_eq_field1, field1]

theorem requestRecord_length (n : Nat) (l : List Byte) : (requestRecord n l).length = 3 + l.length := by
  simp only [requestRecord, List.length_append, byte_length, List.length_singleton]
  omega

theorem toNat_ofNat_low {n : Nat} (h : n ≤ 64) : (BitVec.ofNat 8 n).toNat = n := by
  rw [BitVec.toNat_ofNat]
  omega

/-- A record of a code with fields of its length, whose presence bytes are 0 or 1, passes the check. -/
theorem formFails_requestRecord {n : Nat} {l extra : List Byte} (code : 1 ≤ n ∧ n ≤ 24) (length : l.length = fieldLength n)
    (short : fieldLength n ≤ 64) (presence : ∀ k ∈ presenceAt n, (l.getD k 0).toNat ≤ 1) :
    formFails (requestRecord n l ++ extra) = false := by
  have first : (BitVec.ofNat 8 n).toNat = n := toNat_ofNat_low (by omega)
  have second : (BitVec.ofNat 8 l.length).toNat = l.length := toNat_ofNat_low (by omega)
  have fields : (l ++ crc8 (BitVec.ofNat 8 n :: BitVec.ofNat 8 l.length :: l) :: extra).take l.length = l :=
    List.take_left' rfl
  have crc : (l ++ crc8 (BitVec.ofNat 8 n :: BitVec.ofNat 8 l.length :: l) :: extra).getD l.length 0 =
      crc8 (BitVec.ofNat 8 n :: BitVec.ofNat 8 l.length :: l) := by
    rw [getD_skip (Nat.le_refl _), Nat.sub_self]
    rfl
  have low : (presenceAt n).any (fun i => decide (1 < (l.getD i 0).toNat)) = false := by
    simpa using presence
  rw [requestRecord_append]
  unfold formFails
  dsimp only
  rw [first, second, fields, crc, low, ← length]
  have range : ¬ 24 < n ∧ n ≠ 0 ∧ ¬ 64 < l.length := by omega
  simp [range]

/-- The codes of the table and the lengths of their fields (R183). -/
theorem code_shape {i : Instr} {n : Nat} (code : i.code = some n) : (1 ≤ n ∧ n ≤ 24) ∧ fieldLength n ≤ 64 := by
  cases i <;> cases code <;> decide

/-- The request that a record spells, whatever bytes follow. -/
theorem readRequest_requestRecord {i : Instr} {n : Nat} (fit : i.wellFormed = true) (code : i.code = some n)
    (extra : List Byte) : readRequest (requestRecord n (Instr.fieldBytes i) ++ extra) = some i := by
  obtain ⟨range, short⟩ := code_shape code
  have length := fieldBytes_length fit code
  have presence := fieldBytes_presence code []
  rw [List.append_nil] at presence
  have read := requestOf_fieldBytes fit code []
  rw [List.append_nil] at read
  rw [readRequest, formFails_requestRecord range length short presence, requestRecord_append]
  have first : (BitVec.ofNat 8 n).toNat = n := toNat_ofNat_low (by omega)
  have second : (BitVec.ofNat 8 (Instr.fieldBytes i).length).toNat = (Instr.fieldBytes i).length :=
    toNat_ofNat_low (by omega)
  simp only [Bool.false_eq_true, ↓reduceIte, List.getD_cons_zero, List.getD_cons_succ, List.drop_succ_cons, List.drop_zero,
    first, second]
  rw [List.take_left' rfl, read]

/-! ## The transaction -/

theorem exec_badFormRequest (l : List Byte) (s : State) : exec (.badFormRequest l) s = execBadFormRequest l s := rfl

/-- A record of a request is the request: it leaves what the request leaves, but for what MISO carried. -/
theorem exec_requestRecord {i : Instr} {n : Nat} {s t : State} (takes : s.Takes) (fit : i.wellFormed = true)
    (code : i.code = some n) (extra : List Byte) (run : exec i s = .next t) :
    exec (.badFormRequest (requestRecord n (Instr.fieldBytes i) ++ extra)) s =
      .next (t.clocked s.port (3 + fieldLength n + extra.length)) := by
  obtain ⟨high, idle⟩ := takes
  obtain ⟨range, -⟩ := code_shape code
  have read := readRequest_requestRecord fit code extra
  have length : (requestRecord n (Instr.fieldBytes i) ++ extra).length = 3 + fieldLength n + extra.length := by
    rw [List.length_append, requestRecord_length, fieldBytes_length fit code]
  have nonzero : (BitVec.ofNat 8 n).toNat ≠ 0 := by
    rw [toNat_ofNat_low (by omega)]
    omega
  rw [exec_badFormRequest]
  rw [requestRecord_append] at read length ⊢
  unfold execBadFormRequest
  simp only [high, idle, nonzero, read, length, decide_false, Bool.or_self, Bool.false_eq_true, ↓reduceIte, ne_eq,
    not_true_eq_false, Option.map_some, takeRequest_of_request s (i := i) (by simp [code]), run]

/-- A record that fails the check is answered BAD-FORM. -/
theorem exec_badForm {c : Byte} {rest : List Byte} {s : State} (takes : s.Takes) (some : c ≠ 0)
    (fails : formFails (c :: rest) = true) : exec (.badFormRequest (c :: rest)) s =
      .next ((s.badForm c).clocked s.port (rest.length + 1)) := by
  obtain ⟨high, idle⟩ := takes
  have nonzero : c.toNat ≠ 0 := fun h => some (BitVec.eq_of_toNat_eq h)
  rw [exec_badFormRequest]
  unfold execBadFormRequest readRequest
  simp only [high, idle, nonzero, fails, decide_false, Bool.or_self, Bool.false_eq_true, ↓reduceIte, ne_eq,
    not_true_eq_false, Option.map_none, List.length_cons]

theorem presenceAt_lt {c k : Nat} (h : k ∈ presenceAt c) : k < fieldLength c := by
  unfold presenceAt at h
  split at h
  all_goals simp only [List.mem_cons, List.not_mem_nil, or_false] at h
  all_goals
    simp only [fieldLength]
    omega

theorem getD_take {l : List Byte} {k n : Nat} (h : k < n) : (l.take n).getD k 0 = l.getD k 0 := by
  simp [List.getD_eq_getElem?_getD, h]

/-- Settles O11: a request's record is read back as the request, and each of the six faults fails the form check. -/
theorem badFormIsAnswered : Obligations.BadFormIsAnswered := by
  refine ⟨fun i n extra s takes fit code => ?_, fun c rest s takes some fault => ?_⟩
  · obtain ⟨t, run, -⟩ := everyCommandAnswersNext i s
    refine ⟨(requestRecord_length _ _).trans (by rw [fieldBytes_length fit code]), t, run, ?_⟩
    rw [exec_requestRecord takes fit code extra run, State.clocked,
      show 3 + fieldLength n + extra.length - 1 = 2 + fieldLength n + extra.length by omega]
  · have fails : formFails (c :: rest) = true := by
      cases rest with
      | nil => rfl
      | cons len l =>
        obtain above | long | length | short | ⟨k, presence, high⟩ | crc := fault
        · simp [formFails, above]
        · simp [formFails, long]
        · simp [formFails, length]
        · simp [formFails, short]
        · by_cases length : len.toNat = fieldLength c.toNat
          · have inside : k < len.toNat := length ▸ presenceAt_lt presence
            have bad : (presenceAt c.toNat).any (fun i => decide (1 < ((l.take len.toNat).getD i 0).toNat)) = true :=
              List.any_eq_true.mpr ⟨k, presence, by rw [getD_take inside]; exact decide_eq_true high⟩
            simp only [formFails, bad, Bool.or_true, Bool.true_or]
          · simp [formFails, length]
        · have other : (l.getD len.toNat 0 != crc8 (c :: len :: l.take len.toNat)) = true := bne_iff_ne.mpr crc
          simp only [formFails, other, Bool.or_true]
    rw [exec_badForm takes some fails]
    rfl

end Sys2Proof.Machine
end

section
/-! BOOK's and AMEND's checks in order (R10, R12). -/

namespace Sys2Proof.Machine

/-! ## BOOK's checks -/

theorem exec_book (f : BookFields) (s : State) : exec (.book f) s = s.request 6 (State.book f) := rfl

theorem bookDraft_roomFor (f : BookFields) (s : Sched) : s.roomFor (bookDraft f).cls = true ↔ s.bookings.length < 128 := by
  simp [Sched.roomFor, bookDraft_local f]

theorem yesNoOf_eq_none (n : Nat) : yesNoOf n = none ↔ 1 < n := by
  match n with
  | 0 => decide
  | 1 => decide
  | n + 2 => simp [yesNoOf]

theorem Sched.hasProgramme_iff (s : Sched) (service e : Nat) : s.hasProgramme service e = true ↔
    ∃ b ∈ s.bookings, b.cls ≠ .hosted ∧ b.state ≠ .ended ∧ b.service = service ∧ b.event = some e := by
  simp [Sched.hasProgramme, Booking.hosted, and_assoc]

/-- A BOOK that a check refuses. -/
theorem State.Takes.bookRefused {f : BookFields} {s : State} {c : Code} (takes : s.Takes) (h : s.bookRefusal f = some c) :
    Refused (.book f) s c := by
  refine takes.refused rfl (exec_book f s) ?_
  simp only [State.book, h]

/-- Settles O17: each check is a branch of the refusal. -/
theorem bookIsCheckedInOrder : Obligations.BookIsCheckedInOrder := by
  intro f s takes start finish badValue late tooFar twice
  have untimed : (!s.base.timed) = true ↔ s.base.timed = false := by simp
  have bad : ((yesNoOf f.follow).isNone || 30 < f.pre || 30 < f.post || (bookDraft f).finish ≤ (bookDraft f).start ||
      (bookDraft f).start + 86400 < (bookDraft f).finish || (f.follow == 1 && f.event.isNone)) = true ↔ badValue := by
    simp only [Bool.or_eq_true, Bool.and_eq_true, decide_eq_true_eq, beq_iff_eq, Option.isNone_iff_eq_none, yesNoOf_eq_none,
      or_assoc]
    rfl
  have again : f.event.any (fun e => s.sch.hasProgramme f.service e) = true ↔ twice := by
    simp only [Option.any_eq_true, Sched.hasProgramme_iff]
    rfl
  have room : (!s.sch.roomFor (bookDraft f).cls) = true ↔ 128 ≤ s.sch.bookings.length := by
    rw [Bool.not_eq_true', ← Bool.not_eq_true, bookDraft_roomFor, Nat.not_lt]
  have timed (h : s.base.timed = true) : ¬ (!s.base.timed) = true := by simp [h]
  refine ⟨fun h1 => takes.bookRefused ?_, fun h1 h2 => takes.bookRefused ?_, fun h1 h2 h3 => takes.bookRefused ?_,
    fun h1 h2 h3 h4 => takes.bookRefused ?_, fun h1 h2 h3 h4 h5 => takes.bookRefused ?_,
    fun h1 h2 h3 h4 h5 h6 => takes.bookRefused ?_, fun h1 h2 h3 h4 h5 h6 => ?_⟩
  · rw [State.bookRefusal, if_pos (untimed.mpr h1)]
  · rw [State.bookRefusal, if_neg (timed h1), if_pos (bad.mpr h2)]
  · rw [State.bookRefusal, if_neg (timed h1), if_neg (mt bad.mp h2)]
    exact if_pos h3
  · rw [State.bookRefusal, if_neg (timed h1), if_neg (mt bad.mp h2)]
    exact (if_neg h3).trans (if_pos h4)
  · rw [State.bookRefusal, if_neg (timed h1), if_neg (mt bad.mp h2)]
    exact (if_neg h3).trans ((if_neg h4).trans (if_pos (again.mpr h5)))
  · rw [State.bookRefusal, if_neg (timed h1), if_neg (mt bad.mp h2)]
    exact (if_neg h3).trans ((if_neg h4).trans ((if_neg (mt again.mp h5)).trans (if_pos (room.mpr h6))))
  · have passes : s.bookRefusal f = none := by
      rw [State.bookRefusal, if_neg (timed h1), if_neg (mt bad.mp h2)]
      exact (if_neg h3).trans ((if_neg h4).trans ((if_neg (mt again.mp h5)).trans (if_neg (mt room.mp (Nat.not_le.mpr h6)))))
    obtain ⟨t, answered, -⟩ := takes.answers rfl (exec_book f s) (by rw [State.book, passes]; rfl) (s.beside_of _ _)
    exact ⟨t, _, answered⟩

end Sys2Proof.Machine
end

section
/-! Figures, triggers, segments and intervals: the statements about functions of one record. -/

namespace Sys2Proof.Machine

/-! ## The figures of a tuner (R63) -/

theorem earliestPrep_mem (l : List Booking) : ∀ b, earliestPrep l = some b → b ∈ l := by
  induction l with
  | nil => exact fun b h => nomatch h
  | cons x l ih =>
    intro b h
    rw [earliestPrep] at h
    cases e : earliestPrep l with
    | none =>
      rw [e] at h
      cases h
      exact List.mem_cons_self
    | some c =>
      simp only [e] at h
      split at h <;> cases h
      · exact List.mem_cons_of_mem _ (ih _ e)
      · exact List.mem_cons_self

/-- The earliest entry into PREPARING, where one booking entered before every other. -/
theorem earliestPrep_of_first {b : Booking} : ∀ {l : List Booking}, b ∈ l → (∀ c ∈ l, c = b ∨ b.prepSeq < c.prepSeq) →
    earliestPrep l = some b
  | x :: l, mem, first => by
    have rest (c : Booking) (h : c ∈ l) : c = b ∨ b.prepSeq < c.prepSeq := first c (List.mem_cons_of_mem _ h)
    unfold earliestPrep
    by_cases inside : b ∈ l
    · rw [earliestPrep_of_first inside rest]
      rcases first x List.mem_cons_self with rfl | later
      · simp
      · simp [later]
    · obtain rfl : b = x := (List.mem_cons.mp mem).resolve_right inside
      cases h : earliestPrep l with
      | none => rfl
      | some c =>
        have hc := earliestPrep_mem l c h
        rcases rest c hc with rfl | lt
        · exact absurd hc inside
        · simp [Nat.not_lt.mpr (Nat.le_of_lt lt)]

theorem foldl_min_le {α : Type} (f : α → Nat) : ∀ (l : List α) (m : Nat),
    l.foldl (fun r b => min r (f b)) m ≤ m ∧ ∀ b ∈ l, l.foldl (fun r b => min r (f b)) m ≤ f b
  | [], m => ⟨Nat.le_refl m, fun _ h => nomatch h⟩
  | b :: l, m => by
    obtain ⟨start, each⟩ := foldl_min_le f l (min m (f b))
    refine ⟨Nat.le_trans start (Nat.min_le_left _ _), fun c hc => ?_⟩
    rcases List.mem_cons.mp hc with rfl | hc
    · exact Nat.le_trans start (Nat.min_le_right _ _)
    · exact each c hc

/-- The least of a list's values and a start is the start or one of them. -/
theorem foldl_min_reached {α : Type} (f : α → Nat) : ∀ (l : List α) (m : Nat),
    l.foldl (fun r b => min r (f b)) m = m ∨ ∃ b ∈ l, l.foldl (fun r b => min r (f b)) m = f b
  | [], _ => .inl rfl
  | b :: l, m => by
    rcases foldl_min_reached f l (min m (f b)) with start | ⟨c, hc, e⟩
    · rcases Nat.le_total m (f b) with le | le
      · exact .inl (start.trans (Nat.min_eq_left le))
      · exact .inr ⟨b, List.mem_cons_self, start.trans (Nat.min_eq_right le)⟩
    · exact .inr ⟨c, List.mem_cons_of_mem _ hc, e⟩

theorem le_foldl_max {α : Type} (f : α → Nat) : ∀ (l : List α) (m : Nat),
    m ≤ l.foldl (fun r b => max r (f b)) m ∧ ∀ b ∈ l, f b ≤ l.foldl (fun r b => max r (f b)) m
  | [], m => ⟨Nat.le_refl m, fun _ h => nomatch h⟩
  | b :: l, m => by
    obtain ⟨start, each⟩ := le_foldl_max f l (max m (f b))
    refine ⟨Nat.le_trans (Nat.le_max_left _ _) start, fun c hc => ?_⟩
    rcases List.mem_cons.mp hc with rfl | hc
    · exact Nat.le_trans (Nat.le_max_right _ _) start
    · exact each c hc

theorem foldl_max_reached {α : Type} (f : α → Nat) : ∀ (l : List α) (m : Nat),
    l.foldl (fun r b => max r (f b)) m = m ∨ ∃ b ∈ l, l.foldl (fun r b => max r (f b)) m = f b
  | [], _ => .inl rfl
  | b :: l, m => by
    rcases foldl_max_reached f l (max m (f b)) with start | ⟨c, hc, e⟩
    · rcases Nat.le_total m (f b) with le | le
      · exact .inr ⟨b, List.mem_cons_self, start.trans (Nat.max_eq_right le)⟩
      · exact .inl (start.trans (Nat.max_eq_left le))
    · exact .inr ⟨c, List.mem_cons_of_mem _ hc, e⟩

theorem Sched.topRank_of_idle {s : Sched} {k : Tuner} (h : (s.tuners.get k).live = none) : s.topRank k = s.bookingTop k := by
  simp [Sched.topRank, h]

theorem Sched.neededMux_of_idle {s : Sched} {k : Tuner} (h : (s.tuners.get k).live = none) : s.neededMux k = s.bookingMux k := by
  simp [Sched.neededMux, h]

/-- The top rank of a tuner's occupants, the ranks being at most 31, is that of one of them, and no other's is better. -/
theorem Sched.bookingTop_spec {s : Sched} {k : Tuner} (some : s.occupants k ≠ []) (low : ∀ b ∈ s.occupants k, b.rank ≤ 31) :
    (∃ b ∈ s.occupants k, s.bookingTop k = b.rank) ∧ ∀ b ∈ s.occupants k, s.bookingTop k ≤ b.rank := by
  obtain ⟨-, each⟩ := foldl_min_le Booking.rank (s.occupants k) 31
  refine ⟨?_, each⟩
  rcases foldl_min_reached Booking.rank (s.occupants k) 31 with start | reached
  · obtain ⟨b, hb⟩ := List.exists_mem_of_ne_nil _ some
    exact ⟨b, hb, start.trans (Nat.le_antisymm (start ▸ each b hb) (low b hb))⟩
  · exact reached

/-- The busy-until of occupants without a hold is the latest of their close times. -/
theorem Sched.busyUntil_spec (v : Base) {s : Sched} {k : Tuner} (h : (s.tuners.get k).live = none)
    (some : s.occupants k ≠ []) : ∃ u, s.busyUntil v k = Option.some u ∧ (∃ b ∈ s.occupants k, u = b.closeTime v) ∧
      ∀ b ∈ s.occupants k, b.closeTime v ≤ u := by
  unfold Sched.busyUntil
  cases e : s.occupants k with
  | nil => exact absurd e some
  | cons b l =>
    obtain ⟨start, each⟩ := le_foldl_max (Booking.closeTime v) l (b.closeTime v)
    refine ⟨l.foldl (fun m c => max m (c.closeTime v)) (b.closeTime v), by simp [h], ?_, ?_⟩
    · rcases foldl_max_reached (Booking.closeTime v) l (b.closeTime v) with first | ⟨c, hc, other⟩
      · exact ⟨b, List.mem_cons_self, first⟩
      · exact ⟨c, List.mem_cons_of_mem _ hc, other⟩
    · intro c hc
      rcases List.mem_cons.mp hc with rfl | hc
      · exact start
      · exact each c hc

/-- Settles O33. -/
theorem figuresOfATuner : Obligations.FiguresOfATuner := by
  intro v s k
  refine ⟨fun l live => ?_, fun idle => ⟨fun none => ?_, fun b mem first => ?_, fun some low => ?_⟩⟩
  · simp [Sched.neededMux, Sched.topRank, Sched.busyUntil, live]
  · simp [Sched.neededMux, Sched.topRank, Sched.busyUntil, Sched.bookingMux, Sched.bookingTop, idle, none, earliestPrep]
  · rw [Sched.neededMux_of_idle idle, Sched.bookingMux, earliestPrep_of_first mem first]
    rfl
  · rw [Sched.topRank_of_idle idle]
    obtain ⟨reached, each⟩ := Sched.bookingTop_spec some low
    exact ⟨reached, each, Sched.busyUntil_spec v idle some⟩

/-! ## The armed trigger (R31, R32) -/

theorem Booking.stopTime_eq (b : Booking) :
    b.stopTime = (if b.follow then b.endedAt.getD b.finish else b.finish) + 60 * b.post := by
  unfold Booking.stopTime Booking.spanEnd
  split
  · simp_all
  · rename_i no
    cases hf : b.follow with
    | false => rfl
    | true =>
      cases he : b.endedAt with
      | none => rfl
      | some t => exact absurd he (no t hf)

theorem Booking.keepsRunning_iff (b : Booking) :
    b.keepsRunning = true ↔ b.running = some .running ∨ b.running = some .paused := by
  simp [Booking.keepsRunning]

theorem Booking.closingTrigger_eq (v : Base) (b : Booking) : b.closingTrigger v =
    if b.follow = true ∧ (b.overrunTime v < b.stopTime ∨ (b.stopTime ≤ v.clock ∧
      (b.running = some .running ∨ b.running = some .paused))) then (.overrun, b.overrunTime v) else (.stop, b.stopTime) := by
  unfold Booking.closingTrigger
  simp only [← Booking.keepsRunning_iff]
  cases b.follow with
  | false => rfl
  | true =>
    by_cases passed : b.overrunTime v < b.stopTime
    · simp [passed]
    · simp [passed]

/-- Settles O34: the table's rows are those of the model's, each time under its definition. -/
theorem armedTrigger : Obligations.ArmedTrigger := by
  intro v b prepare start grace stop overrun goesOn closing
  have stopped : b.stopTime = stop := b.stopTime_eq
  have closes : b.closingTrigger v = closing := by
    rw [Booking.closingTrigger_eq, stopped]
    rfl
  constructor
  · unfold Booking.closeTime
    rw [stopped]
    simp only [Booking.keepsRunning_iff]
    cases b.follow <;> rfl
  · unfold Booking.armed
    rw [closes]
    cases b.state <;> try rfl
    simp only [Bool.and_eq_true, decide_eq_true_eq, and_assoc]
    rfl

/-! ## The outcome of the segments (R121) -/

/-- The end of a segment; one that is open covers nothing. -/
def Segment.upTo (g : Segment) : Nat := g.til.getD g.frm

/-- One round of the cover: the furthest end of the segments that begin at or before a point. -/
def reachFrom (l : List Segment) (p q : Nat) : Nat := l.foldl (fun q g => if g.frm ≤ p then max q g.upTo else q) q

theorem coverTo_succ (l : List Segment) (n p : Nat) : coverTo l (n + 1) p = coverTo l n (reachFrom l p p) := rfl

theorem le_reachFrom (p : Nat) : ∀ (l : List Segment) (q : Nat),
    q ≤ reachFrom l p q ∧ ∀ g ∈ l, g.frm ≤ p → g.upTo ≤ reachFrom l p q
  | [], q => ⟨Nat.le_refl q, fun _ h => nomatch h⟩
  | g :: l, q => by
    obtain ⟨start, each⟩ := le_reachFrom p l (if g.frm ≤ p then max q g.upTo else q)
    refine ⟨Nat.le_trans ?_ start, fun x hx begun => ?_⟩
    · split
      · exact Nat.le_max_left _ _
      · exact Nat.le_refl q
    · rcases List.mem_cons.mp hx with rfl | hx
      · rw [if_pos begun] at start
        have := Nat.le_trans (Nat.le_max_right q x.upTo) start
        rw [reachFrom, List.foldl_cons, if_pos begun]
        exact this
      · exact each x hx begun

theorem reachFrom_reached (p : Nat) : ∀ (l : List Segment) (q : Nat),
    reachFrom l p q = q ∨ ∃ g ∈ l, g.frm ≤ p ∧ reachFrom l p q = g.upTo
  | [], _ => .inl rfl
  | g :: l, q => by
    have step : reachFrom (g :: l) p q = reachFrom l p (if g.frm ≤ p then max q g.upTo else q) := rfl
    rw [step]
    rcases reachFrom_reached p l (if g.frm ≤ p then max q g.upTo else q) with start | ⟨x, hx, begun, e⟩
    · rw [start]
      split
      · rename_i begun
        rcases Nat.le_total q g.upTo with le | le
        · exact .inr ⟨g, List.mem_cons_self, begun, Nat.max_eq_right le⟩
        · exact .inl (Nat.max_eq_left le)
      · exact .inl rfl
    · exact .inr ⟨x, List.mem_cons_of_mem _ hx, begun, e⟩

/-- Every instant that the rounds pass lies in a segment. -/
theorem coverTo_sound (l : List Segment) : ∀ (n p u : Nat), p ≤ u → u < coverTo l n p → ∃ g ∈ l, g.frm ≤ u ∧ u < g.upTo
  | 0, p, u, le, lt => absurd lt (Nat.not_lt.mpr le)
  | n + 1, p, u, le, lt => by
    rw [coverTo_succ] at lt
    by_cases passed : u < reachFrom l p p
    · rcases reachFrom_reached p l p with stays | ⟨g, hg, begun, e⟩
      · omega
      · exact ⟨g, hg, Nat.le_trans begun le, e ▸ passed⟩
    · exact coverTo_sound l n _ u (Nat.not_lt.mp passed) lt

theorem le_coverTo (l : List Segment) : ∀ n p : Nat, p ≤ coverTo l n p
  | 0, p => Nat.le_refl p
  | n + 1, p => Nat.le_trans (le_reachFrom p l p).1 (le_coverTo l n _)

/-- No segment leads on from a point. -/
def Ends (l : List Segment) (p : Nat) : Prop := ∀ g ∈ l, g.frm ≤ p → g.upTo ≤ p

theorem reachFrom_of_ends {l : List Segment} {p : Nat} (h : Ends l p) : reachFrom l p p = p := by
  rcases reachFrom_reached p l p with stays | ⟨g, hg, begun, e⟩
  · exact stays
  · have := h g hg begun
    have := (le_reachFrom p l p).1
    omega

theorem coverTo_of_ends {l : List Segment} {p : Nat} (h : Ends l p) : ∀ n, coverTo l n p = p
  | 0 => rfl
  | n + 1 => by
    rw [coverTo_succ, reachFrom_of_ends h]
    exact coverTo_of_ends h n

theorem countP_lt_countP {α : Type} {p q : α → Bool} {l : List α} (h : ∀ x, q x = true → p x = true) {x : α} (mem : x ∈ l)
    (hp : p x = true) (hq : q x = false) : l.countP q < l.countP p := by
  have inside : l.countP q = (l.filter p).countP q := by
    rw [List.countP_filter]
    refine List.countP_congr fun y _ => ?_
    simpa using h y
  rw [inside, List.countP_eq_length_filter (p := p)]
  refine Nat.lt_of_le_of_ne List.countP_le_length fun all => ?_
  have taken := List.countP_eq_length.mp all x (List.mem_filter.mpr ⟨mem, hp⟩)
  exact Bool.false_ne_true (hq.symm.trans taken)

/-- The rounds end where no segment leads on, given one for each segment that ends later: a round that goes on leaves one
of them behind. -/
theorem coverTo_ends (l : List Segment) : ∀ n p : Nat, (l.countP fun g => p < g.upTo) ≤ n → Ends l (coverTo l n p)
  | 0, p, few => fun g hg _ => by
    have := List.countP_eq_zero.mp (Nat.le_zero.mp few) g hg
    rw [coverTo]
    exact Nat.not_lt.mp (by simpa using this)
  | n + 1, p, few => by
    rcases reachFrom_reached p l p with stays | ⟨g, hg, begun, e⟩
    · have ends : Ends l p := fun g hg begun => by
        have := (le_reachFrom p l p).2 g hg begun
        omega
      rw [coverTo_of_ends ends]
      exact ends
    · by_cases further : p < reachFrom l p p
      · rw [coverTo_succ]
        refine coverTo_ends l n _ (Nat.le_of_lt_succ (Nat.lt_of_lt_of_le ?_ few))
        refine countP_lt_countP (fun x later => ?_) hg (by simpa [← e] using further) (by simp [e])
        simp only [decide_eq_true_eq] at later ⊢
        omega
      · have ends : Ends l p := fun g hg begun => by
          have := (le_reachFrom p l p).2 g hg begun
          omega
        rw [coverTo_of_ends ends]
        exact ends

/-- Settles O35. -/
theorem segmentsGiveTheOutcome : Obligations.SegmentsGiveTheOutcome := by
  intro b missed part
  have covered : b.covers = true ↔ ∀ u, b.start ≤ u → u < b.finish → ∃ g ∈ b.segs, g.frm ≤ u ∧ u < g.til.getD g.frm := by
    unfold Booking.covers
    rw [decide_eq_true_eq]
    refine ⟨fun h u le lt => coverTo_sound _ _ _ u le (Nat.lt_of_lt_of_le lt h), fun h => Nat.not_lt.mp fun short => ?_⟩
    obtain ⟨g, hg, begun, later⟩ := h _ (le_coverTo b.segs b.segs.length b.start) short
    have := coverTo_ends b.segs b.segs.length b.start List.countP_le_length g hg begun
    exact absurd later (Nat.not_lt.mpr this)
  refine ⟨fun none => by simp [Booking.bySegs, none], fun some => ⟨fun h => ?_, fun h => ?_⟩⟩
  · simp [Booking.bySegs, some, covered.mpr h]
  · simp [Booking.bySegs, some, mt covered.mp h]

end Sys2Proof.Machine
end

section
/-! The turn bits of a frame (R124), and the interval results of a peer (R149 to R151). -/

namespace Sys2Proof.Machine

/-! ## Turn bits -/

/-- A receiver in the same run as the sender reads back what the sender was given. -/
theorem removeTurnBits_turnBits (bits : List Bool) : ∀ (last : Bool) (n : Nat),
    removeTurnBits last n (turnBits last n bits) = some bits := by
  induction bits with
  | nil =>
    intro last n
    by_cases full : n = 4 <;> simp [turnBits, removeTurnBits, full]
  | cons b rest ih =>
    intro last n
    by_cases full : n = 4
    · subst full
      by_cases turn : b = !last <;> simp [turnBits, removeTurnBits, turn, ih]
    · by_cases same : b = last <;> simp [turnBits, removeTurnBits, full, same, ih]

/-- A run of five equal bits. -/
def HasRun (l : List Bool) : Prop := ∃ b, List.replicate 5 b <:+: l

theorem not_hasRun_of_short {l : List Bool} (h : l.length < 5) : ¬ HasRun l := fun ⟨b, run⟩ => by
  have := run.length_le
  rw [List.length_replicate] at this
  omega

/-- A run of five stands after four equal bits at most, once another bit follows them. -/
theorem HasRun.after_turn {last c : Bool} (turn : c ≠ last) {l : List Bool} : ∀ {n : Nat}, n ≤ 4 →
    HasRun (List.replicate n last ++ c :: l) → HasRun (c :: l)
  | 0, _, h => h
  | n + 1, few, ⟨b, run⟩ => by
    have split : List.replicate (n + 1) last ++ c :: l = last :: (List.replicate n last ++ c :: l) := rfl
    rw [split, List.infix_cons_iff, ← split] at run
    rcases run with front | later
    · exfalso
      have zero : 0 < n + 1 := by omega
      have at0 := front.getElem (i := 0) (by simp)
      have atn := front.getElem (i := n + 1) (by simp; omega)
      simp [-List.reduceReplicate] at at0 atn
      exact turn (atn.symm.trans at0)
    · exact HasRun.after_turn turn (Nat.le_of_succ_le few) ⟨b, later⟩

theorem replicate_append_cons (n : Nat) (b : Bool) (l : List Bool) :
    List.replicate n b ++ b :: l = List.replicate (n + 1) b ++ l := by
  rw [List.replicate_succ', List.append_assoc]
  rfl

/-- What a sender adds to a run of at most four makes no run of five. -/
theorem not_hasRun_turnBits (bits : List Bool) : ∀ (last : Bool) (n : Nat), n ≤ 4 →
    ¬ HasRun (List.replicate n last ++ turnBits last n bits) := by
  induction bits with
  | nil =>
    intro last n few
    by_cases full : n = 4
    · subst full
      intro h
      exact not_hasRun_of_short (by simp) (h.after_turn (by simp) (Nat.le_refl 4))
    · refine not_hasRun_of_short ?_
      simp [turnBits, full]
      omega
  | cons b rest ih =>
    intro last n few h
    by_cases full : n = 4
    · subst full
      rw [turnBits, if_pos rfl] at h
      have turned := h.after_turn (by simp) (Nat.le_refl 4)
      by_cases turn : b = !last
      · subst turn
        exact ih (!last) 2 (by omega) (by simpa using turned)
      · have again := HasRun.after_turn (n := 1) turn (by omega) turned
        exact ih b 1 (by omega) (by simpa [turn] using again)
    · rw [turnBits, if_neg full] at h
      by_cases same : b = last
      · subst same
        refine ih b (n + 1) (by omega) ?_
        rw [← replicate_append_cons]
        simpa using h
      · exact ih b 1 (by omega) (HasRun.after_turn same few (by simpa [same] using h))

/-- A receiver that reads a run of five reads nothing back. -/
theorem removeTurnBits_of_hasRun (bits : List Bool) : ∀ (last : Bool) (n : Nat), n ≤ 4 →
    HasRun (List.replicate n last ++ bits) → removeTurnBits last n bits = none := by
  induction bits with
  | nil =>
    intro last n few h
    exact absurd h (not_hasRun_of_short (by simp; omega))
  | cons x rest ih =>
    intro last n few h
    by_cases same : x = last
    · subst same
      by_cases full : n = 4
      · simp [removeTurnBits, full]
      · rw [replicate_append_cons] at h
        simp [removeTurnBits, full, ih x (n + 1) (by omega) h]
    · have later := ih x 1 (by omega) (h.after_turn same few)
      by_cases full : n = 4 <;> simp [removeTurnBits, full, same, later]

/-- Settles O44. -/
theorem turnBitsAreRemoved : Obligations.TurnBitsAreRemoved := by
  refine ⟨fun first bits => removeTurnBits_turnBits bits first 1, fun first bits before after b e => ?_,
    fun first bits before after b e => ?_⟩
  · refine not_hasRun_turnBits bits first 1 (by omega) ⟨b, before, after, ?_⟩
    exact e.symm
  · refine removeTurnBits_of_hasRun bits first 1 (by omega) ⟨b, before, after, ?_⟩
    exact e.symm

/-! ## Interval results -/

theorem Interval.bad_iff (r : Interval) : r.bad = true ↔ r ≠ .good := by simp [Interval.bad]

/-- The presence after a result that has joined the history, row by row. -/
theorem Peer.moved_count (w : Nat) (r : Interval) (p : Peer) : (p.count w r).moved r =
    match p.presence with
    | .absent => .absent
    | .hearing => if r.bad then .absent else if 3 ≤ (p.count w r).good then .present else .hearing
    | .present =>
      if r.bad ∧ 3 ≤ (p.count w r).missing then .absent
      else if r.bad ∧ 2 ≤ countOf Interval.bad (p.count w r).history then .suspect else .present
    | .suspect =>
      if r.bad ∧ (4 ≤ countOf Interval.bad (p.count w r).history ∨ 3 ≤ (p.count w r).missing) then .absent
      else if ¬ r.bad ∧ 3 ≤ (p.count w r).good then .present else .suspect := by
  have kept : (p.count w r).presence = p.presence := rfl
  unfold Peer.moved
  rw [kept]
  cases p.presence with
  | absent => rfl
  | hearing => rfl
  | present => cases r.bad <;> simp
  | suspect => cases r.bad <;> simp

/-- Settles O50. -/
theorem intervalResults : Obligations.IntervalResults := by
  refine ⟨?_, fun n inc => ⟨rfl, rfl, rfl, rfl⟩, fun v f p => ⟨rfl, rfl, rfl⟩⟩
  intro w r p history good missing faulty next
  have moved : (p.count w r).moved r = next := by
    rw [Peer.moved_count]
    simp only [Interval.bad_iff, Classical.not_not]
    rfl
  unfold Peer.settled
  dsimp only
  rw [moved]
  cases next <;> rfl

end Sys2Proof.Machine
end

section
/-! The timed events: what each leaves as it was. -/

namespace Sys2Proof.Machine

/-! ## An event that happens -/

theorem Happened.of {i : Instr} {s t : State} (run : exec i s = .next t) (beside : s.Beside t) : Happened i s t :=
  ⟨run, beside.port, beside.resetLow, beside.free, beside.pending⟩

/-- A time-driven event of the scheduling state, when its instant comes. -/
theorem State.happened_event {i : Instr} {s : State} {due : State → Option Nat} {f : State → Ev → Ev} {u : Nat}
    (run : exec i s = s.atInstant due fun s => s.event (f s)) (high : s.resetLow = false) (h : due s = some u) :
    ∃ t, Happened i s t ∧ t.base = (s.countTo u).base ∧ t.sch = s.sch.event (s.countTo u).base (f (s.countTo u)) :=
  ⟨_, .of (run.trans (s.atInstant_runs due _ u high h)) ((s.beside_countTo u).trans (State.beside_event _ _)), rfl, rfl⟩

/-- One that moves the scheduling state alone. -/
theorem State.happened_onSched {i : Instr} {s : State} {due : State → Option Nat} {f : Sched → Sched} {u : Nat}
    (run : exec i s = s.atInstant due (State.onSched f)) (high : s.resetLow = false) (h : due s = some u) :
    ∃ t, Happened i s t ∧ t.base = (s.countTo u).base ∧ t.sch = f s.sch :=
  ⟨_, .of (run.trans (s.atInstant_runs due _ u high h)) ((s.beside_countTo u).trans (State.beside_onSched _ _)), rfl, rfl⟩

/-! ## The due instants -/

theorem Tuner.ofIndex_get {α : Type} (x : Two α) (n : Nat) : x.get (Tuner.ofIndex n) = if n = 0 then x.a else x.b := by
  unfold Tuner.ofIndex
  split <;> rfl

theorem Instr.due_trigger (s : State) (h : Nat) (k : TrigKind) : Instr.due s (k.command h) = State.armedAt h k s := by
  cases k <;> rfl

theorem Instr.due_tuneTimer (s : State) (n : Nat) : Instr.due s (.tuneTimerExpiry n) = State.tuneDue n s := by
  unfold Instr.due State.tuneDue
  simp only [Tuner.ofIndex_get]
  by_cases range : 1 < n
  · simp [range, Nat.not_le.mpr range]
  · simp [range, Nat.not_lt.mp range]

theorem Instr.due_recheckTimer (s : State) (n : Nat) : Instr.due s (.recheckTimerExpiry n) = State.recheckDue n s := by
  unfold Instr.due State.recheckDue
  simp only [Tuner.ofIndex_get]
  by_cases range : 1 < n
  · simp [range, Nat.not_le.mpr range]
  · simp [range, Nat.not_lt.mp range]

theorem Hold.prepareAt_eq (v : Base) (x : Hold) : x.prepareAt v = (x.details.spanStart - v.cfg.tuneLead) * 4096000 := by
  have start : (x.details.draft x.id).prepareTime v = x.details.spanStart - v.cfg.tuneLead :=
    congrArg (· - v.cfg.tuneLead) (Nat.add_sub_cancel x.details.spanStart (60 * x.details.pre))
  rw [Hold.prepareAt, start]
  rfl

/-- The instant at which the lapsed record of a booking id goes. -/
def State.lapsedDue (j : BookingId) (s : State) : Option Nat :=
  (s.sch.lapsed.find? fun x => x.id == j).map (Hold.prepareAt s.base)

theorem Instr.due_lapsedRecord (s : State) (j : BookingId) : Instr.due s (.lapsedRecordDiscard j) = State.lapsedDue j s := by
  unfold State.lapsedDue
  rw [funext (Hold.prepareAt_eq s.base)]
  rfl

/-! ## What stays -/

/-- A command does nothing without a due instant, and at it leaves what `Sched.Evolves` says. -/
def TimedKeeps (i : Instr) : Prop :=
  ∀ s : State, s.resetLow = false →
    match Instr.due s i with
    | none => exec i s = .next s
    | some u => ∃ t, Happened i s t ∧ t.base = (s.countTo u).base ∧ s.sch.Evolves t.sch

theorem TimedKeeps.event {i : Instr} {due : State → Option Nat} {f : State → Ev → Ev} (same : ∀ s, Instr.due s i = due s)
    (run : ∀ s, exec i s = s.atInstant due fun s => s.event (f s))
    (h : ∀ (s : State) (e : Ev), e.s.EvolvesIn s.base.cfg.depth (f s e).s) : TimedKeeps i := by
  intro s high
  rw [same]
  cases k : due s with
  | none => exact (run s).trans (s.atInstant_stopped due _ k)
  | some u =>
    obtain ⟨t, happened, base, sch⟩ := State.happened_event (run s) high k
    exact ⟨t, happened, base, sch ▸ (Sched.evolves_event _ _ _ (h (s.countTo u) (Ev.of s.sch))).toEvolves⟩

theorem TimedKeeps.onSched {i : Instr} {due : State → Option Nat} {f : Sched → Sched} (same : ∀ s, Instr.due s i = due s)
    (run : ∀ s, exec i s = s.atInstant due (State.onSched f)) (h : ∀ x : Sched, x.EvolvesIn 0 (f x)) : TimedKeeps i := by
  intro s high
  rw [same]
  cases k : due s with
  | none => exact (run s).trans (s.atInstant_stopped due _ k)
  | some u =>
    obtain ⟨t, happened, base, sch⟩ := State.happened_onSched (run s) high k
    exact ⟨t, happened, base, sch ▸ (h s.sch).toEvolves⟩

theorem timedKeeps_trigger (h : Nat) (k : TrigKind) : TimedKeeps (k.command h) :=
  .event (fun s => Instr.due_trigger s h k) (exec_trigger h k) fun s e => e.evolves_fire s.base h k

/-- Settles O36: each command is an event that evolves, or moves holds and lapsed records. -/
theorem timedEventsKeepTheRest : Obligations.TimedEventsKeepTheRest := by
  intro n j i s high mem
  refine (?_ : TimedKeeps i) s high
  simp only [List.mem_cons, List.not_mem_nil, or_false] at mem
  rcases mem with rfl | rfl | rfl | rfl | rfl | rfl | rfl | rfl | rfl | rfl | rfl | rfl | rfl
  · exact timedKeeps_trigger n .prepare
  · exact timedKeeps_trigger n .start
  · exact timedKeeps_trigger n .grace
  · exact timedKeeps_trigger n .stop
  · exact timedKeeps_trigger n .overrun
  · exact .event (fun s => Instr.due_tuneTimer s n) (exec_tuneTimerExpiry n) fun s e => e.evolves_fail s.base _
  · exact .event (fun s => Instr.due_recheckTimer s n) (exec_recheckTimerExpiry n) fun s e => e.evolves_recheck s.base _
  · exact .event (due := State.readyAt n) (fun _ => rfl) (exec_seekReadyTime n) fun _ e => .refl e.s
  · exact .event (due := State.windowEnd) (fun _ => rfl) exec_bidWindowEnd fun s e => e.evolves_windowEnds s.base
  · exact .event (due := State.takeEnd) (fun _ => rfl) exec_takeTimerExpiry fun s e => e.evolves_takeEnds s.base
  · exact .event (fun _ => rfl) (exec_confirmDeadlineExpiry n) fun s e => e.evolves_confirmPasses s.base n
  · exact .onSched (fun _ => rfl) (exec_holdExpiry j) (Sched.evolves_lapse j)
  · exact .onSched (due := State.lapsedDue j) (fun s => Instr.due_lapsedRecord s j) (exec_lapsedRecordDiscard j) fun x => x.evolves_holds _ _ id
      (Nat.le_trans (List.length_filter_le _ _))

end Sys2Proof.Machine
end

section
/-! How an event ends when the parts that it asks for find nothing to do, what arming a trigger ahead of the clock does, and
when the directives in force still say what stands. -/

namespace Sys2Proof.Machine

/-! ## The parts that find nothing to do -/

/-- No record on a tuner's stack meets the conditions of a pop. -/
def Sched.Still (s : Sched) (k : Tuner) : Prop := ∀ r rest, s.stacked.get k = r :: rest → s.pops k r = false

/-- A re-try of the unplaced list would change nothing. -/
def Sched.NoRetry (v : Base) (keep : Bool) (s : Sched) : Prop := ∀ e : Ev, e.s = s → e.retryAll v keep = e

/-- The engine has no booking to take up. -/
def Sched.NoLook (v : Base) (s : Sched) : Prop :=
  s.engine ≠ .idle ∨ s.seekQueue.find? (SeekEntry.isReady v) = none

theorem Sched.still_of_empty {s : Sched} {k : Tuner} (h : s.stacked.get k = []) : s.Still k := fun r rest e => by
  rw [h] at e
  cases e

theorem Sched.noRetry_of_empty {v : Base} {s : Sched} (keep : Bool) (h : s.unplaced = []) : s.NoRetry v keep := fun e same => by
  subst same
  simp [Ev.retryAll, h]

theorem Sched.noLook_of_empty {v : Base} {s : Sched} (h : s.seekQueue = []) : s.NoLook v := .inr (by rw [h]; rfl)

theorem examine_still {v : Base} {k : Tuner} {s : Sched} (h : s.Still k) (e : Ev) (same : e.s = s) :
    ∀ n, examine n v k e = e
  | 0 => rfl
  | n + 1 => by
    subst same
    unfold examine
    split
    · rfl
    · rename_i r rest found
      rw [h r rest found]
      rfl

theorem Ev.look1_idle {v : Base} {e : Ev} (h : e.s.NoLook v) : e.look1 v = e := by
  unfold Ev.look1
  split
  · rename_i q idle found
    rcases h with busy | none
    · exact absurd idle busy
    · rw [none] at found
      cases found
  · rfl

/-- An event whose further parts, where it asks for them, find nothing to do. -/
structure Ev.Rests (v : Base) (e : Ev) : Prop where
  examA : e.exam.a = true → e.s.Still .A
  examB : e.exam.b = true → e.s.Still .B
  retry : ∀ keep, e.retry = some keep → e.s.NoRetry v keep
  look : e.look = true → e.s.NoLook v

/-- The event with nothing left to ask. -/
def Ev.asked (e : Ev) : Ev := { e with exam := ⟨false, false⟩, retry := none, look := false }

@[simp] theorem Ev.asked_s (e : Ev) : e.asked.s = e.s := rfl

@[simp] theorem Ev.asked_late (e : Ev) : e.asked.late = e.late := rfl

theorem work_done (v : Base) (e : Ev) (n : Nat) : work n v e.asked = e.asked := by
  cases n <;> rfl

theorem work_look (v : Base) (n : Nat) (s : Sched) (late : List Nat) (look : Bool) (h : look = true → s.NoLook v) :
    work (n + 1) v ⟨s, ⟨false, false⟩, none, look, late⟩ = ⟨s, ⟨false, false⟩, none, false, late⟩ := by
  cases look with
  | false => rfl
  | true =>
    show work n v (Ev.look1 v ⟨s, ⟨false, false⟩, none, false, late⟩) = _
    rw [Ev.look1_idle (h rfl)]
    exact work_done v ⟨s, ⟨false, false⟩, none, false, late⟩ n

theorem work_retry (v : Base) (n : Nat) (s : Sched) (late : List Nat) (retry : Option Bool) (look : Bool)
    (r : ∀ keep, retry = some keep → s.NoRetry v keep) (l : look = true → s.NoLook v) :
    work (n + 2) v ⟨s, ⟨false, false⟩, retry, look, late⟩ = ⟨s, ⟨false, false⟩, none, false, late⟩ := by
  cases retry with
  | none => exact work_look v (n + 1) s late look l
  | some keep =>
    show work (n + 1) v (Ev.retryAll v keep ⟨s, ⟨false, false⟩, none, look, late⟩) = _
    rw [r keep rfl _ rfl]
    exact work_look v n s late look l

theorem work_rests (v : Base) (n : Nat) (e : Ev) (h : e.Rests v) : work (n + 4) v e = e.asked := by
  obtain ⟨s, ⟨a, b⟩, retry, look, late⟩ := e
  have second (n : Nat) : work (n + 3) v ⟨s, ⟨false, b⟩, retry, look, late⟩ = ⟨s, ⟨false, false⟩, none, false, late⟩ := by
    cases b with
    | false => exact work_retry v (n + 1) s late retry look h.retry h.look
    | true =>
      show work (n + 2) v (examine 4 v .B ⟨s, ⟨false, false⟩, retry, look, late⟩) = _
      rw [examine_still (s := s) (h.examB rfl) _ rfl]
      exact work_retry v n s late retry look h.retry h.look
  cases a with
  | false => exact second (n + 1)
  | true =>
    show work (n + 3) v (examine 4 v .A ⟨s, ⟨false, b⟩, retry, look, late⟩) = _
    rw [examine_still (s := s) (h.examA rfl) _ rfl]
    exact second n

theorem Ev.finish_rests {v : Base} {e : Ev} (h : e.Rests v) : e.finish v = e.asked := work_rests v 508 e h

theorem Ev.close_rests {v : Base} {e : Ev} (h : e.Rests v) : e.close v = e.asked.on (Sched.reviseAll v) := by
  rw [Ev.close, Ev.finish_rests h]

theorem settleIn_nil (v : Base) (s : Sched) : ∀ n, settleIn n v s [] = s
  | 0 => rfl
  | _ + 1 => rfl

/-- With nothing late, such an event ends with its own effects and the directives that they call for. -/
theorem Ev.settle_rests {v : Base} {e : Ev} (h : e.Rests v) (late : e.late = []) : e.settle v = e.s.reviseAll v := by
  rw [Ev.settle, Ev.close_rests h]
  show settleIn 1024 v (e.s.reviseAll v) e.late = _
  rw [late]
  exact settleIn_nil v _ _

theorem Ev.settle_settled {v : Base} {e : Ev} (h : e.Rests v) (late : e.late = []) (settled : e.s.Settled) :
    e.settle v = e.s := by
  rw [Ev.settle_rests h late, Sched.reviseAll_settled v _ settled]

/-- An event that asks for nothing rests. -/
theorem Ev.rests_quiet {v : Base} {e : Ev} (exam : e.exam = ⟨false, false⟩) (retry : e.retry = none) (look : e.look = false) :
    e.Rests v :=
  ⟨fun a => by simp [exam] at a, fun b => by simp [exam] at b, fun keep k => by simp [retry] at k,
    fun l => by simp [look] at l⟩

/-- With nothing unplaced, nothing on a stack and nothing to take up, whatever it asks for. -/
theorem Ev.rests_of_empty {v : Base} {e : Ev} (unplaced : e.s.unplaced = []) (stacked : e.s.stacked = ⟨[], []⟩)
    (look : e.s.NoLook v) : e.Rests v :=
  ⟨fun _ => Sched.still_of_empty (by rw [stacked]; rfl), fun _ => Sched.still_of_empty (by rw [stacked]; rfl),
    fun keep _ => Sched.noRetry_of_empty keep unplaced, fun _ => look⟩

/-! ## Arming -/

/-- The Trigger List with one entry armed for a handle, in place of what was. -/
def armedWith (h : Nat) (k : TrigKind) (t : Nat) (l : List Trigger) : List Trigger :=
  insertTrigger ⟨h, k, t⟩ (l.filter fun y => y.handle != h)

theorem find?_insertTrigger {p : Trigger → Bool} {x : Trigger} (hx : p x = true) : ∀ {l : List Trigger},
    (∀ y ∈ l, p y = false) → (insertTrigger x l).find? p = some x
  | [], _ => by simp [insertTrigger, hx]
  | y :: l, others => by
    unfold insertTrigger
    split
    · simp [hx]
    · rw [List.find?_cons, others y List.mem_cons_self]
      exact find?_insertTrigger hx fun z hz => others z (List.mem_cons_of_mem _ hz)

theorem trigger_armedWith (s : Sched) (h : Nat) (k : TrigKind) (t : Nat) (l : List Trigger) :
    ({ s with triggers := armedWith h k t l } : Sched).trigger h = some ⟨h, k, t⟩ := by
  refine find?_insertTrigger (by simp) fun y hy => ?_
  have := (List.mem_filter.mp hy).2
  simpa using this

theorem Sched.arm_some {v : Base} {h : Nat} {s : Sched} {b : Booking} {k : TrigKind} {t : Nat} (found : s.bk h = some b)
    (armed : b.armed v = some (k, t)) : s.arm v h = { s with triggers := armedWith h k t s.triggers } := by
  unfold Sched.arm
  rw [found]
  show (match b.armed v with | none => _ | some (k, t) => _) = _
  rw [armed]
  rfl

/-- A trigger armed ahead of the clock makes no late event. -/
theorem Ev.arm_ahead {v : Base} {h : Nat} {e : Ev} {b : Booking} {k : TrigKind} {t : Nat} (found : e.s.bk h = some b)
    (armed : b.armed v = some (k, t)) (ahead : v.clock < t) :
    e.arm v h = e.on fun s => { s with triggers := armedWith h k t s.triggers } := by
  have state : e.s.arm v h = { e.s with triggers := armedWith h k t e.s.triggers } := Sched.arm_some found armed
  have notDue : (e.s.arm v h).triggerDue v h = false := by
    rw [state, Sched.triggerDue, trigger_armedWith]
    simpa using ahead
  unfold Ev.arm
  simp only [Ev.on_s, notDue, Bool.false_and, Bool.false_eq_true, if_false]
  exact congrArg (fun x => { e with s := x }) state

/-! ## Directives that still stand -/

/-- What a tuner's needed multiplex takes from a record. -/
def Booking.tuneKey (b : Booking) : Bool × Nat × Nat := (b.occupies, b.mux, b.prepSeq)

theorem earliestPrep_congr (l : List Booking) : ∀ m : List Booking, l.map Booking.tuneKey = m.map Booking.tuneKey →
    (earliestPrep l).map Booking.tuneKey = (earliestPrep m).map Booking.tuneKey := by
  induction l with
  | nil =>
    intro m same
    rw [List.map_eq_nil_iff.mp same.symm]
  | cons x l ih =>
    intro m' same
    obtain ⟨y, m, rfl, head, tail⟩ := List.map_eq_cons_iff.mp same.symm
    have seq : y.prepSeq = x.prepSeq := congrArg (fun k => k.2.2) head
    have rest := ih m tail.symm
    rw [earliestPrep, earliestPrep]
    cases hl : earliestPrep l with
    | none =>
      rw [hl] at rest
      have hm : earliestPrep m = none := by simpa using rest.symm
      simpa [hm] using head.symm
    | some b =>
      rw [hl] at rest
      obtain ⟨c, hm, key⟩ := Option.map_eq_some_iff.mp rest.symm
      have seq' : c.prepSeq = b.prepSeq := congrArg (fun k => k.2.2) key
      simp only [hm, seq, seq']
      split
      · simpa using key.symm
      · simpa using head.symm

/-- The occupants of a tuner, entry by entry of its plan. -/
theorem Sched.occupants_eq (s : Sched) (k : Tuner) :
    s.occupants k = (s.plans.get k).filterMap fun p => (s.bk p.handle).filter Booking.occupies := by
  unfold Sched.occupants Sched.planBookings
  induction s.plans.get k with
  | nil => rfl
  | cons p l ih =>
    cases h : s.bk p.handle with
    | none => simpa [h] using ih
    | some b =>
      by_cases o : b.occupies = true
      · simpa [h, o, Option.filter] using ih
      · simpa [h, o, Option.filter] using ih

/-- What keeps the needed multiplex: the live holds, and of each plan entry's record what counts. -/
theorem Sched.neededMux_congr {s t : Sched} {k : Tuner} (live : (t.tuners.get k).live = (s.tuners.get k).live)
    (occupants : (t.occupants k).map Booking.tuneKey = (s.occupants k).map Booking.tuneKey) :
    t.neededMux k = s.neededMux k := by
  have mux : t.bookingMux k = s.bookingMux k := by
    have := congrArg (Option.map fun key : Bool × Nat × Nat => key.2.1) (earliestPrep_congr _ _ occupants)
    simpa [Sched.bookingMux, Option.map_map, Function.comp_def, Booking.tuneKey] using this
  unfold Sched.neededMux
  rw [live, mux]

theorem filterMap_eq_of_forall_mem {α β : Type} {f g : α → Option β} : ∀ {l : List α}, (∀ x ∈ l, f x = g x) →
    l.filterMap f = l.filterMap g
  | [], _ => rfl
  | x :: l, h => by
    rw [List.filterMap_cons, List.filterMap_cons, h x List.mem_cons_self,
      filterMap_eq_of_forall_mem fun y hy => h y (List.mem_cons_of_mem x hy)]

/-- Two states that plan alike, with records that tune alike, have the same occupants but for what does not tune. -/
theorem Sched.occupants_congr {s t : Sched} {k : Tuner} (plans : t.plans.get k = s.plans.get k)
    (records : ∀ p ∈ s.plans.get k, (t.bk p.handle).map Booking.tuneKey = (s.bk p.handle).map Booking.tuneKey) :
    (t.occupants k).map Booking.tuneKey = (s.occupants k).map Booking.tuneKey := by
  rw [Sched.occupants_eq, Sched.occupants_eq, plans, List.map_filterMap, List.map_filterMap]
  refine filterMap_eq_of_forall_mem fun p hp => ?_
  have keyed (x : Option Booking) : (x.filter Booking.occupies).map Booking.tuneKey =
      (x.map Booking.tuneKey).filter fun key => key.1 := by
    cases x with
    | none => rfl
    | some b => by_cases o : b.occupies = true <;> simp [Option.filter, o, Booking.tuneKey]
  rw [keyed, keyed, records p hp]

theorem Sched.Settled.congr {s t : Sched} (settled : s.Settled) (tuners : t.tuners = s.tuners)
    (occupants : ∀ k, (t.occupants k).map Booking.tuneKey = (s.occupants k).map Booking.tuneKey) : t.Settled := by
  have stale (k : Tuner) : t.directiveStale k = s.directiveStale k := by
    unfold Sched.directiveStale
    rw [Sched.neededMux_congr (by rw [tuners]) (occupants k), tuners]
  exact ⟨(stale .A).trans settled.1, (stale .B).trans settled.2⟩

/-- The directives still say what stands where plans and tuners are as they were and each record tunes as it did. -/
theorem Sched.Settled.of_records {s t : Sched} (settled : s.Settled) (tuners : t.tuners = s.tuners) (plans : t.plans = s.plans)
    (records : ∀ g, (t.bk g).map Booking.tuneKey = (s.bk g).map Booking.tuneKey) : t.Settled :=
  settled.congr tuners fun k => Sched.occupants_congr (by rw [plans]) fun p _ => records p.handle

theorem Sched.Settled.of_bookings {s t : Sched} (settled : s.Settled) (tuners : t.tuners = s.tuners) (plans : t.plans = s.plans)
    (bookings : t.bookings = s.bookings) : t.Settled :=
  settled.of_records tuners plans fun g => by unfold Sched.bk; rw [bookings]

end Sys2Proof.Machine
end

section
/-! What the end of a booking reports, and how a frame that is heard reaches the station. -/

namespace Sys2Proof.Machine

/-! ## Offering a message that is no ROLL -/

theorem offerAnswer_plain {v : Base} {m : Msg} (plain : m.isRoll = false) (s : Sched) : offerAnswer v m s =
    if v.station.admits m = true then (if s.txq.length < 12 then .queued else .droppedFull) else .droppedState := by
  unfold offerAnswer
  rw [plain]
  cases v.station.admits m <;> rfl

/-- It joins the tail of the queue, where the station state admits it and there is room. -/
theorem Sched.offer_plain {m : Msg} (plain : m.isRoll = false) (v : Base) (rank : Nat) (b : Option Nat) (s : Sched) :
    s.offer v rank m b =
      if v.station.admits m = true ∧ s.txq.length < 12 then { s with txq := s.txq ++ [compose v rank m b] } else s := by
  unfold Sched.offer
  rw [offerAnswer_plain plain]
  by_cases admits : v.station.admits m = true
  · by_cases room : s.txq.length < 12
    · simp [admits, room]
    · simp [admits, room]
  · simp [admits]

theorem taken_plain {m : Msg} (plain : m.isRoll = false) (v : Base) (s : Sched) :
    taken v m s = true ↔ v.station.admits m = true ∧ s.txq.length < 12 := by
  unfold taken
  rw [offerAnswer_plain plain]
  by_cases admits : v.station.admits m = true
  · by_cases room : s.txq.length < 12
    · simp [admits, room]
    · simp [admits, room]
  · simp [admits]

/-! ## What leaving plans, lists and records keeps -/

/-- The parts of the scheduling state that a booking's leaving does not reach. -/
def Sched.aside (s : Sched) :=
  ((s.bookings, s.pendingOutcomes, s.orderCtr, s.serialCtr, s.prepCtr, s.triggers, s.links, s.linkCtr, s.budget),
    (s.waitingRoll, s.attempt, s.holds, s.lapsed, s.tallies, s.tallyCtr, s.marks, s.notices, s.overflow))

theorem Sched.aside_iff {s t : Sched} : s.aside = t.aside ↔
    (s.bookings = t.bookings ∧ s.pendingOutcomes = t.pendingOutcomes ∧ s.orderCtr = t.orderCtr ∧ s.serialCtr = t.serialCtr ∧
      s.prepCtr = t.prepCtr ∧ s.triggers = t.triggers ∧ s.links = t.links ∧ s.linkCtr = t.linkCtr ∧ s.budget = t.budget) ∧
    (s.waitingRoll = t.waitingRoll ∧ s.attempt = t.attempt ∧ s.holds = t.holds ∧ s.lapsed = t.lapsed ∧
      s.tallies = t.tallies ∧ s.tallyCtr = t.tallyCtr ∧ s.marks = t.marks ∧ s.notices = t.notices ∧
      s.overflow = t.overflow) := by
  simp only [Sched.aside, Prod.mk.injEq]

theorem Sched.aside_offer {m : Msg} (plain : m.isRoll = false) (v : Base) (rank : Nat) (b : Option Nat) (s : Sched) :
    (s.offer v rank m b).aside = s.aside := by
  rw [Sched.offer_plain plain]
  split <;> rfl

theorem Ev.aside_leavePlanOf (h : Nat) (e : Ev) (k : Tuner) : (e.leavePlanOf h k).s.aside = e.s.aside := by
  unfold Ev.leavePlanOf
  dsimp only
  split
  · split
    · rfl
    · split <;> rfl
  · rfl

theorem Ev.aside_leavePlan (h : Nat) (e : Ev) : (e.leavePlan h).s.aside = e.s.aside :=
  (Ev.aside_leavePlanOf h _ .B).trans (e.aside_leavePlanOf h .A)

theorem Ev.aside_leaveStackOf (h : Nat) (e : Ev) (k : Tuner) : (e.leaveStackOf h k).s.aside = e.s.aside := by
  unfold Ev.leaveStackOf
  dsimp only
  split
  · split <;> rfl
  · rfl

theorem Ev.aside_leaveStack (h : Nat) (e : Ev) : (e.leaveStack h).s.aside = e.s.aside :=
  (Ev.aside_leaveStackOf h _ .B).trans (e.aside_leaveStackOf h .A)

theorem Ev.aside_withdraw (v : Base) (h n : Nat) (e : Ev) : (e.withdraw v h n).s.aside = e.s.aside := by
  unfold Ev.withdraw
  split
  · rfl
  · exact Sched.aside_offer rfl v _ _ _

theorem Ev.aside_abandonEngine (v : Base) (h : Nat) (e : Ev) : (e.abandonEngine v h).s.aside = e.s.aside := by
  unfold Ev.abandonEngine
  split
  · split <;> rfl
  · split
    · dsimp only
      split
      · rfl
      · exact e.aside_withdraw v h _
    · rfl
  · rfl

theorem Ev.aside_abandon (v : Base) (h : Nat) (e : Ev) : (e.abandon v h).s.aside = e.s.aside := e.aside_abandonEngine v h

theorem Ev.aside_leaveAll (v : Base) (h : Nat) (e : Ev) : (e.leaveAll v h).s.aside = e.s.aside := by
  unfold Ev.leaveAll
  refine (Ev.aside_abandon v h _).trans ((Ev.aside_leaveStack h _).trans ?_)
  exact Ev.aside_leavePlan h (e.on fun s => s.leaveCapture h)

theorem Sched.bk_of_aside {s t : Sched} (same : s.aside = t.aside) (h : Nat) : s.bk h = t.bk h := by
  unfold Sched.bk
  rw [(Sched.aside_iff.mp same).1.1]

/-! ## The report of an end -/

/-- A report stands through what evolves. -/
theorem Sched.Reported.evolves {s t u : Sched} {h : Nat} {n : Notice} (reported : s.Reported t h n) (step : t.Evolves u) :
    s.Reported u h n := by
  unfold Sched.Reported at reported ⊢
  split
  · rename_i room
    rw [if_pos room] at reported
    exact step.notices.subset reported
  · rename_i full
    rw [if_neg full] at reported
    obtain ⟨pending, c, found, ended, rest⟩ := reported
    exact ⟨step.pendingOutcomes.subset pending, c,
      step.ended (fun none => by rw [none] at pending; cases pending) h c found ended, ended, rest⟩

/-- It speaks of the Notice Queue and the pending outcomes before it alone. -/
theorem Sched.Reported.congr {s s' t : Sched} {h : Nat} {n : Notice} (notices : s'.notices = s.notices)
    (pending : s'.pendingOutcomes = s.pendingOutcomes) (reported : s.Reported t h n) : s'.Reported t h n := by
  unfold Sched.Reported
  rw [notices, pending]
  exact reported

/-- An ENDED entry that offers its OUTCOME is reported. -/
theorem Sched.reported_offerOutcome {s : Sched} {h : Nat} {c : Booking} (found : s.bk h = some c) (ended : c.state = .ended)
    (plan : c.plan = .absent) (outcome : c.outcome.isSome = true) : s.Reported (s.offerOutcome h) h c.outcomeNotice := by
  unfold Sched.Reported Sched.offerOutcome
  rw [found]
  by_cases room : s.pendingOutcomes = [] ∧ s.notices.length < 32
  · rw [if_pos room]
    simp [room.1, room.2]
  · rw [if_neg room]
    have no : ¬ (s.pendingOutcomes.isEmpty && decide (s.notices.length < 32)) = true := by simpa using room
    simp only [if_neg no]
    exact ⟨by simp, c, found, ended, plan, outcome, rfl⟩

theorem Sched.aside_tallyRoom {s : Sched} (room : s.tallies.length < 8) : s.tallyRoom = s := by
  unfold Sched.tallyRoom
  split
  · rfl
  · rename_i old rest e
    rw [if_neg (by omega)]

theorem TallyRec.msg_plain (v : Base) (r : TallyRec) : (r.msg v).isRoll = false := rfl

theorem Sched.aside_episodeOutcome (b : Booking) (o : BOutcome × Reason) (s : Sched) :
    (s.episodeOutcome b o).bookings = s.bookings ∧ (s.episodeOutcome b o).notices = s.notices ∧
      (s.episodeOutcome b o).pendingOutcomes = s.pendingOutcomes ∧ (s.episodeOutcome b o).tallies = s.tallies := by
  unfold Sched.episodeOutcome
  split <;> exact ⟨rfl, rfl, rfl, rfl⟩

theorem offerTally_keeps (v : Base) (r : TallyRec) (s : Sched) : (offerTally v r s).2.aside = s.aside := by
  unfold offerTally
  split
  · exact Sched.aside_offer (r.msg_plain v) v _ _ _
  · rfl

theorem Sched.addTally_keeps (v : Base) (b : Booking) (o : BOutcome × Reason) (s : Sched) (room : s.tallies.length < 8) :
    (s.addTally v b o).bookings = s.bookings ∧ (s.addTally v b o).notices = s.notices ∧
      (s.addTally v b o).pendingOutcomes = s.pendingOutcomes := by
  unfold Sched.addTally
  rw [Sched.aside_tallyRoom room]
  obtain ⟨⟨bookings, pending, -⟩, -, -, -, -, -, -, -, notices, -⟩ :=
    Sched.aside_iff.mp (offerTally_keeps v (b.tallyRec o s.tallyCtr) s)
  exact ⟨bookings, notices, pending⟩

/-- A booking with its open segment closed at a time. -/
def Booking.closedAt (time : Nat) (b : Booking) : Booking := { b with segs := closeOpen time b.segs }

/-- The record of a booking once it has ended. -/
def Booking.endedAs (time : Nat) (o : Booking → BOutcome × Reason) (b : Booking) : Booking :=
  Booking.ended (o (b.closedAt time)) (b.closedAt time)

/-- The state in which a booking that ends has its ENDED record, before its OUTCOME is offered. -/
def Ev.recorded (v : Base) (h time : Nat) (tally : Bool) (o : BOutcome × Reason) (b : Booking) (e : Ev) : Ev :=
  let e := (e.on fun s => s.closeSeg h time).leaveAll v h
  let e := (e.on fun s => (s.modB h (Booking.ended o)).disarm h).on (Sched.episodeOutcome b o)
  if b.hosted && tally then e.on (Sched.addTally v (b.closedAt time) o) else e

theorem Ev.endAt_eq {e : Ev} {h : Nat} {b : Booking} (v : Base) (time : Nat) (tally : Bool) (o : Booking → BOutcome × Reason)
    (found : e.s.bk h = some b) (alive : b.state ≠ .ended) : e.endAt v h time tally o =
      (((e.recorded v h time tally (o (b.closedAt time)) b).on fun s => s.offerOutcome h).askRetry
        false) := by
  unfold Ev.endAt
  rw [found]
  show (if b.state = .ended then e else _) = _
  rw [if_neg alive]
  rfl

/-- The entry is recorded as ENDED, while the notices are as they were. -/
theorem Ev.recorded_keeps {e : Ev} {h : Nat} {b : Booking} (v : Base) (time : Nat) (tally : Bool)
    (o : Booking → BOutcome × Reason) (found : e.s.bk h = some b) (alive : b.state ≠ .ended)
    (room : b.hosted = true → tally = true → e.s.tallies.length < 8) :
    let s := (e.recorded v h time tally (o (b.closedAt time)) b).s
    s.bk h = some (b.endedAs time o) ∧ s.notices = e.s.notices ∧ s.pendingOutcomes = e.s.pendingOutcomes := by
  have same := Ev.aside_leaveAll v h (e.on fun s => s.closeSeg h time)
  unfold Ev.recorded
  generalize (e.on fun s => s.closeSeg h time).leaveAll v h = left at same
  obtain ⟨⟨-, pending, -⟩, -, -, -, -, tallies, -, -, notices, -⟩ := Sched.aside_iff.mp same
  have closed : left.s.bk h = some (b.closedAt time) :=
    (Sched.bk_of_aside same h).trans (Sched.bk_modB_self _ (fun _ => rfl) found alive)
  have modified : (left.s.modB h (Booking.ended (o (b.closedAt time)))).bk h = some (b.endedAs time o) :=
    Sched.bk_modB_self _ (fun _ => rfl) closed alive
  obtain ⟨bookings', notices', pending', tallies'⟩ :=
    Sched.aside_episodeOutcome b (o (b.closedAt time)) ((left.s.modB h (Booking.ended (o (b.closedAt time)))).disarm h)
  dsimp only [Ev.on_s]
  split
  · rename_i tells
    rw [Bool.and_eq_true] at tells
    have few := room tells.1 tells.2
    rw [← show left.s.tallies = e.s.tallies from tallies] at few
    obtain ⟨bookings'', notices'', pending''⟩ := Sched.addTally_keeps v (b.closedAt time) (o (b.closedAt time)) _
      (tallies'.symm ▸ few : (((left.s.modB h _).disarm h).episodeOutcome b (o (b.closedAt time))).tallies.length < 8)
    refine ⟨Eq.trans ?_ modified, notices''.trans (notices'.trans notices), pending''.trans (pending'.trans pending)⟩
    exact congrArg (List.find? fun b => b.handle == h) (bookings''.trans bookings')
  · refine ⟨Eq.trans ?_ modified, notices'.trans notices, pending'.trans pending⟩
    exact congrArg (List.find? fun b => b.handle == h) bookings'

/-- The end of a booking is reported, with the outcome and the reason that its segments, closed, were given (R16 to R18). -/
theorem Ev.endAt_reported {e : Ev} {h : Nat} {b : Booking} (v : Base) (time : Nat) (tally : Bool)
    (o : Booking → BOutcome × Reason) (found : e.s.bk h = some b) (alive : b.state ≠ .ended)
    (room : b.hosted = true → tally = true → e.s.tallies.length < 8) :
    e.s.Reported (e.endAt v h time tally o).s h (b.endedNotice time (o (b.closedAt time))) := by
  obtain ⟨overAt, notices, pending⟩ := Ev.recorded_keeps v time tally o found alive room
  rw [Ev.endAt_eq v time tally o found alive]
  exact (Sched.reported_offerOutcome overAt rfl rfl rfl).congr notices.symm pending.symm

theorem Ev.endNow_reported {e : Ev} {h : Nat} {b : Booking} (v : Base) (o : Booking → BOutcome × Reason)
    (found : e.s.bk h = some b) (alive : b.state ≠ .ended) (room : b.hosted = true → e.s.tallies.length < 8) :
    e.s.Reported (e.endNow v h o).s h (b.endedNotice v.clock (o (b.closedAt v.clock))) :=
  Ev.endAt_reported v v.clock true o found alive fun hosted _ => room hosted

/-- CANCEL's end of a booking that is not hosted. -/
theorem Ev.cancel_reported {e : Ev} {h : Nat} {b : Booking} (v : Base) (r : Reason) (found : e.s.bk h = some b)
    (alive : b.state ≠ .ended) (own : b.hosted = false) :
    e.s.Reported (e.cancel v h r).s h (b.endedNotice v.clock (.cancelled, r)) := by
  unfold Ev.cancel
  simp only [found, Option.map_some]
  have ends (e' : Ev) (same : e'.s.aside = e.s.aside) :
      e.s.Reported (e'.endNow v h fun _ => (.cancelled, r)).s h (b.endedNotice v.clock (.cancelled, r)) := by
    obtain ⟨⟨-, pending, -⟩, -, -, -, -, -, -, -, notices, -⟩ := Sched.aside_iff.mp same
    refine (Ev.endNow_reported v (fun _ => (.cancelled, r)) ((Sched.bk_of_aside same h).trans found) alive
      fun hosted => ?_).congr notices.symm pending.symm
    rw [own] at hosted
    cases hosted
  split
  · exact ends _ (e.aside_withdraw v h _)
  · exact ends e rfl

/-- A whole event reports what its own effects do. -/
theorem Sched.event_reported {s : Sched} {v : Base} {f : Ev → Ev} {h : Nat} {n : Notice}
    (own : s.Reported (f (Ev.of s)).s h n) : s.Reported (s.event v f) h n :=
  own.evolves (Ev.evolves_settle v (f (Ev.of s))).toEvolves

/-! ## A frame that is heard -/

theorem State.yieldWire_idle {s : State} (h : s.sch.attempt = none) :
    s.yieldWire = { s with base := { s.base with idleBits := 0 } } := by
  have still : s.attemptFails = s := by simp [State.attemptFails, h]
  rw [State.yieldWire, still]

theorem State.countFrame_good {s : State} (clear : s.base.rxFault = false) :
    s.countFrame true = { s with base := s.base.countFrame true } := by
  have kept : (s.base.countFrame true).rxFault = false := by simp [Base.countFrame, clear]
  unfold State.countFrame Sched.linkFaultNotice
  dsimp only
  rw [clear, kept, if_pos rfl]

/-- A frame that a station hears, addressed to it, admitted and resolved, is counted and handed on (R136). -/
theorem State.receive_heard {s : State} {h : FrameHead} {c : FrameCheck} (f : State → State) (hears : s.Hears h)
    (good : c.good = true) (addressed : c.addressed = true) (resolves : c.resolves = true) :
    s.receive h c f = f { s with base := s.base.heard } := by
  obtain ⟨-, household, other, joined, idle, clear⟩ := hears
  have weighs : ¬ (s.base.station = .detached ∨ s.base.station = .isolated) := by simp [joined]
  unfold State.receive
  rw [State.yieldWire_idle idle]
  simp only [household, other, weighs, good, addressed, resolves, ne_eq, not_true_eq_false, if_false, Bool.not_true,
    Bool.false_eq_true]
  exact congrArg f (State.countFrame_good (s := { s with base := { s.base with idleBits := 0 } }) clear)

end Sys2Proof.Machine
end

section
/-! CANCEL, AMEND and RESOLVE. -/

namespace Sys2Proof.Machine

/-! ## A request that is one event -/

theorem Sched.event_evolves {v : Base} {f : Ev → Ev} (s : Sched) (h : ∀ e : Ev, e.s.EvolvesIn v.cfg.depth (f e).s) :
    s.Evolves (s.event v f) := (s.evolves_event v f (h (Ev.of s))).toEvolves

/-- A request that carries out an event and answers from what the event leaves before the late ones. -/
theorem State.Takes.answersEvent {i : Instr} {c : Nat} {F : State → Answer} {s : State} {g : Ev → Ev}
    {r : Sched → List Byte} (takes : s.Takes) (code : i.code = some c) (run : exec i s = s.request c F)
    (answer : F s = s.answerEvent g r) :
    ∃ t, Answered i s t .ok (r ((g (Ev.of s.sch)).close s.base).s) ∧ t.base = s.base ∧ t.sch = s.sch.event s.base g :=
  takes.answers (t := s.event g) code run answer (s.beside_event g)

/-- One whose further parts find nothing to do, with no directive due. -/
theorem State.Takes.answersSettled {i : Instr} {c : Nat} {F : State → Answer} {s : State} {g : Ev → Ev}
    {r : Sched → List Byte} (takes : s.Takes) (code : i.code = some c) (run : exec i s = s.request c F)
    (answer : F s = s.answerEvent g r) (rests : (g (Ev.of s.sch)).Rests s.base) (late : (g (Ev.of s.sch)).late = [])
    (settled : (g (Ev.of s.sch)).s.Settled) :
    ∃ t, Answered i s t .ok (r (g (Ev.of s.sch)).s) ∧ t.base = s.base ∧ t.sch = (g (Ev.of s.sch)).s := by
  obtain ⟨t, answered, base, sch⟩ := takes.answersEvent code run answer
  have closed : ((g (Ev.of s.sch)).close s.base).s = (g (Ev.of s.sch)).s := by
    rw [Ev.close_rests rests]
    exact Sched.reviseAll_settled _ _ settled
  rw [closed] at answered
  exact ⟨t, answered, base, sch.trans (Ev.settle_settled rests late settled)⟩

/-! ## CANCEL -/

theorem exec_cancel (h : Nat) (x : Option BookingId) (s : State) :
    exec (.cancel h x) s = s.request 8 (State.withBooking h x State.cancelEntry) := rfl

theorem Booking.hosted_iff (b : Booking) : b.hosted = true ↔ b.cls = .hosted := by simp [Booking.hosted]

theorem Booking.not_hosted {b : Booking} (h : b.cls ≠ .hosted) : b.hosted = false := by simp [Booking.hosted, h]

/-- Settles O20. -/
theorem cancelEndsTheBooking : Obligations.CancelEndsTheBooking := by
  intro h x b s takes range found agrees
  have entry := State.withBooking_found (f := State.cancelEntry) range found agrees
  obtain ⟨rfl, -⟩ := s.sch.bk_handle found
  refine ⟨fun no => takes.refused rfl (exec_cancel _ x s) (entry.trans ?_), fun own alive => ?_⟩
  · have bad : (b.hosted || b.state == .ended) = true := by simpa [Booking.hosted] using no
    rw [State.cancelEntry, if_pos bad]
  · have good : ¬ (b.hosted || b.state == .ended) = true := by simp [Booking.hosted, own, alive]
    obtain ⟨t, answered, base, sch⟩ := takes.answers rfl (exec_cancel _ x s)
      (entry.trans (by rw [State.cancelEntry, if_neg good])) (s.beside_event _)
    refine ⟨t, answered, base, sch ▸ s.sch.event_evolves (Ev.evolves_cancel s.base _ _), sch ▸ ?_⟩
    exact Sched.event_reported (Ev.cancel_reported (e := Ev.of s.sch) s.base .cancelled found alive (Booking.not_hosted own))

/-! ## AMEND -/

theorem exec_amend (h : Nat) (x : Option BookingId) (f : AmendFields) (s : State) :
    exec (.amend h x f) s = s.request 7 (State.withBooking h x (State.amendEntry f)) := rfl

theorem State.Takes.amendRefused {h : Nat} {x : Option BookingId} {f : AmendFields} {b : Booking} {s : State} {c : Code}
    (takes : s.Takes) (range : h ≤ 127) (found : s.sch.bk h = some b) (agrees : x = none ∨ x = some b.id)
    (refusal : b.amendRefusal s.base f = some c) : Refused (.amend h x f) s c := by
  refine takes.refused rfl (exec_amend h x f s) ((State.withBooking_found range found agrees).trans ?_)
  rw [State.amendEntry, refusal]

/-- What a change of one record keeps of the directives, when the record tunes as it did. -/
theorem Sched.Settled.modB {s : Sched} (settled : s.Settled) (h : Nat) (f : Booking → Booking)
    (handle : ∀ b, (f b).handle = b.handle)
    (same : ∀ b, s.bk h = some b → b.state ≠ .ended → (f b).tuneKey = b.tuneKey) : (s.modB h f).Settled := by
  refine settled.of_records rfl rfl fun g => ?_
  rw [s.bk_modB h g f handle]
  split
  · rename_i e
    subst e
    cases found : s.bk g with
    | none => rfl
    | some b =>
      by_cases over' : b.state = .ended
      · simp [over']
      · simp [over', same b found over']
  · rfl

/-- A change of one record leaves the others. -/
theorem Sched.bk_modB_other (s : Sched) {h g : Nat} (f : Booking → Booking) (handle : ∀ b, (f b).handle = b.handle)
    (other : g ≠ h) : (s.modB h f).bk g = s.bk g := by
  rw [s.bk_modB h g f handle, if_neg other]

theorem onlySome_iff (f : AmendFields) :
    onlySome f = true ↔ f.pre = none ∧ f.follow = none ∧ f.start = none ∧ f.finish = none := by
  simp [onlySome, and_assoc]

theorem Booking.not_admits_iff (v : Base) (f : AmendFields) (b : Booking) : b.admits v f = false ↔
    b.state = .ended ∨ (b.state = .lent ∧ b.prepareTime v ≤ v.clock) ∨
      ((b.state = .preparing ∨ b.state = .recording ∨ b.state = .paused ∨ b.state = .suspended) ∧
        ¬(f.pre = none ∧ f.follow = none ∧ f.start = none ∧ f.finish = none)) := by
  rw [← onlySome_iff, Bool.not_eq_true]
  unfold Booking.admits
  cases b.state <;> simp

/-- The record that an AMEND of priority and post-roll alone makes. -/
theorem Booking.amended_some {f : AmendFields} {b : Booking} (pre : f.pre = none) (follow : f.follow = none)
    (start : f.start = none) (finish : f.finish = none) (running : b.follow = true ∨ b.running = none)
    (endedAt : b.follow = true ∨ b.endedAt = none) : b.amended f =
      { b with priority := min 7 (f.priority.getD b.priority), post := f.post.getD b.post } := by
  unfold Booking.amended
  cases h : b.follow <;> simp_all

/-- Settles O19. -/
theorem amend : Obligations.Amend := by
  refine ⟨?_, ?_⟩
  · intro h x f b s takes range found agrees start finish only badState badValue late tooFar
    have c1 : (b.hosted || !b.admits s.base f) = true ↔ badState := by
      rw [Bool.or_eq_true, Booking.hosted_iff, Bool.not_eq_true', Booking.not_admits_iff]
      rfl
    have c2 : (((f.start.isSome || f.finish.isSome) && b.cls != .manual) || f.follow.any (fun x => (yesNoOf x).isNone) ||
        (f.follow == some 1 && b.cls == .manual) || 30 < (b.amended f).pre || 30 < (b.amended f).post ||
        (b.amended f).finish ≤ (b.amended f).start || (b.amended f).start + 86400 < (b.amended f).finish) = true ↔
          badValue := by
      simp only [Bool.or_eq_true, Bool.and_eq_true, decide_eq_true_eq, beq_iff_eq, bne_iff_ne, Option.any_eq_true,
        Option.isNone_iff_eq_none, yesNoOf_eq_none, Option.isSome_iff_ne_none, or_assoc]
      rfl
    have c3 : ((f.start.isSome || f.finish.isSome) && (b.amended f).finish ≤ s.base.clock) = true ↔ late := by
      simp only [Bool.or_eq_true, Bool.and_eq_true, decide_eq_true_eq, Option.isSome_iff_ne_none]
      rfl
    have c4 : (f.start.isSome && s.base.clock + horizon < (b.amended f).start) = true ↔ tooFar := by
      simp only [Bool.and_eq_true, decide_eq_true_eq, Option.isSome_iff_ne_none]
      rfl
    refine ⟨fun h1 => takes.amendRefused range found agrees ?_, fun h1 h2 => takes.amendRefused range found agrees ?_,
      fun h1 h2 h3 => takes.amendRefused range found agrees ?_,
      fun h1 h2 h3 h4 => takes.amendRefused range found agrees ?_, fun h1 h2 h3 h4 => ?_⟩
    · exact if_pos (c1.mpr h1)
    · exact (if_neg (mt c1.mp h1)).trans (if_pos (c2.mpr h2))
    · exact (if_neg (mt c1.mp h1)).trans ((if_neg (mt c2.mp h2)).trans (if_pos (c3.mpr h3)))
    · exact (if_neg (mt c1.mp h1)).trans ((if_neg (mt c2.mp h2)).trans ((if_neg (mt c3.mp h3)).trans (if_pos (c4.mpr h4))))
    · have passes : b.amendRefusal s.base f = none :=
        (if_neg (mt c1.mp h1)).trans ((if_neg (mt c2.mp h2)).trans ((if_neg (mt c3.mp h3)).trans (if_neg (mt c4.mp h4))))
      obtain ⟨t, answered, -⟩ := takes.answersEvent rfl (exec_amend h x f s)
        ((State.withBooking_found range found agrees).trans (by rw [State.amendEntry, passes]))
      exact ⟨t, _, answered⟩
  · intro h x f b s takes range found agrees settled own state pre follow start finish post preLow postLow order day running
      endedAt c
    have amended : b.amended f = c := Booking.amended_some pre follow start finish running endedAt
    have alive : b.state ≠ .ended := by rcases state with e | e | e | e | e <;> simp [e]
    have admits : b.admits s.base f = true := by
      have only : onlySome f = true := (onlySome_iff f).mpr ⟨pre, follow, start, finish⟩
      unfold Booking.admits
      rcases state with e | e | e | e | e <;> simp [e, only]
    have low : f.post.getD b.post ≤ 30 := by
      cases e : f.post with
      | none => simpa using postLow
      | some y => simpa using post y e
    have passes : b.amendRefusal s.base f = none := by
      unfold Booking.amendRefusal
      rw [amended]
      simp [c, Booking.hosted, own, admits, start, finish, follow, Nat.not_lt.mpr preLow, Nat.not_lt.mpr low,
        Nat.not_le.mpr order, Nat.not_lt.mpr day]
    obtain ⟨rfl, -⟩ := s.sch.bk_handle found
    have found' : (s.sch.modB b.handle (Booking.amended f)).bk b.handle = some c := by
      rw [Sched.bk_modB_self (Booking.amended f) (fun _ => rfl) found alive, amended]
    let g : Ev → Ev := fun e => (e.on fun x => x.modB b.handle (Booking.amended f)).afterAmend s.base f b
    have run : s.withBooking b.handle x (State.amendEntry f) = s.answerEvent g fun x => x.stateField b.handle := by
      rw [State.withBooking_found range found agrees, State.amendEntry, passes]
    have after (e : Ev) : e.afterAmend s.base f b =
        if c.triggerFields = b.triggerFields then e else e.arm s.base b.handle := by
      rw [← amended]
      unfold Ev.afterAmend
      rcases state with k | k | k | k | k <;> rw [k]
    have modified : (s.sch.modB b.handle (Booking.amended f)).Settled := settled.modB _ _ (fun _ => rfl) fun a ha _ => by
      cases Option.some.inj (ha.symm.trans found)
      rw [amended]
      rfl
    have leaves (t' : List Trigger) (quiet : (g (Ev.of s.sch)).Rests s.base) (late : (g (Ev.of s.sch)).late = [])
        (eq : (g (Ev.of s.sch)).s = { s.sch.modB b.handle (Booking.amended f) with triggers := t' }) :
        ∃ t, Answered (.amend b.handle x f) s t .ok [BitVec.ofNat 8 b.state.code] ∧ t.base = s.base ∧
          t.sch.bk b.handle = some c ∧ t.sch = { s.sch with bookings := t.sch.bookings, triggers := t' } ∧
          ∀ g, g ≠ b.handle → t.sch.bk g = s.sch.bk g := by
      obtain ⟨t, answered, base, sch⟩ := takes.answersSettled rfl (exec_amend b.handle x f s) run quiet late
        (eq ▸ modified.of_bookings rfl rfl rfl)
      have found'' : t.sch.bk b.handle = some c := by
        rw [sch, eq]
        exact found'
      have code : t.sch.stateField b.handle = [BitVec.ofNat 8 b.state.code] := by
        rw [Sched.stateField, found'', byte_eq_field1]
        rfl
      rw [← sch, code] at answered
      refine ⟨t, answered, base, found'', by rw [sch, eq]; rfl, fun k other => ?_⟩
      rw [sch, eq]
      exact s.sch.bk_modB_other _ (fun _ => rfl) other
    constructor
    · intro same
      have keeps : g (Ev.of s.sch) = (Ev.of s.sch).on fun x => x.modB b.handle (Booking.amended f) := by
        refine (after _).trans (if_pos ?_)
        show ((b.start, b.finish, b.pre, c.post), b.follow, b.running, b.endedAt) = _
        rw [same]
        rfl
      exact leaves s.sch.triggers (keeps ▸ Ev.rests_quiet rfl rfl rfl) (keeps ▸ rfl) (keeps ▸ rfl)
    · intro k d changed armed ahead
      have arms : g (Ev.of s.sch) = ((Ev.of s.sch).on fun x => x.modB b.handle (Booking.amended f)).on fun s =>
          { s with triggers := armedWith b.handle k d s.triggers } := by
        refine (after _).trans ((if_neg ?_).trans (Ev.arm_ahead found' armed ahead))
        intro e
        have := congrArg (fun p => p.1.2.2.2) e
        exact changed this
      exact leaves _ (arms ▸ Ev.rests_quiet rfl rfl rfl) (arms ▸ rfl) (arms ▸ rfl)

end Sys2Proof.Machine
end

section
/-! Placing a booking that no tuner takes, and RESOLVE. -/

namespace Sys2Proof.Machine

theorem Ev.on_congr {e : Ev} {f g : Sched → Sched} (h : f e.s = g e.s) : e.on f = e.on g :=
  congrArg (fun s => { e with s := s }) h

/-! ## Notices that find room -/

theorem Sched.notice_room {s : Sched} (n : Notice) (room : s.notices.length < 32) (pending : s.pendingOutcomes = []) :
    s.notice n = { s with notices := s.notices ++ [n] } := by
  simp [Sched.notice, room, pending]

theorem Ev.on_notice {e : Ev} {n : Notice} (room : e.s.notices.length < 32) (pending : e.s.pendingOutcomes = []) :
    (e.on fun s => s.notice n) = e.on fun s => { s with notices := s.notices ++ [n] } :=
  Ev.on_congr (Sched.notice_room n room pending)

/-! ## Steps 1 to 3 where no tuner is usable -/

theorem Sched.usable_none {s : Sched} (a : s.usable .A = false) (b : s.usable .B = false) (k : Tuner) : s.usable k = false := by
  cases k
  · exact a
  · exact b

theorem Sched.displaceChoice_unusable {s : Sched} (none' : ∀ k, s.usable k = false) (v : Base) (auto : Bool)
    (prefer avoid : Option Tuner) (w : Want) : s.displaceChoice v auto prefer avoid w = none := by
  have rank (k : Tuner) : s.displaceRank v auto w k = none := by simp [Sched.displaceRank, none' k]
  simp [Sched.displaceChoice, rank]

theorem Sched.choose_unusable {s : Sched} (none' : ∀ k, s.usable k = false) (v : Base) (auto : Bool)
    (prefer avoid : Option Tuner) (b : Booking) : s.choose v auto prefer avoid b = none := by
  unfold Sched.choose
  cases b.want v with
  | none => rfl
  | some w => simp [none', Sched.displaceChoice_unusable none']

theorem Sched.referral_unusable {s : Sched} (none' : ∀ k, s.usable k = false) (v : Base) (b : Booking) (check : Bool) :
    s.referral v b check = none := by
  unfold Sched.referral
  dsimp only
  split
  · rw [Sched.displaceChoice_unusable none']
    rfl
  · rfl

/-- A booking that steps 1 to 3 do not place goes on to steps 4 to 6. -/
theorem Ev.place_afterThree {v : Base} {o : Open} {h : Nat} {e : Ev} {b : Booking} (found : e.s.bk h = some b)
    (no : e.s.choose v o.auto o.prefer o.avoid b = none) : e.place v o h = e.afterThree v o b := by
  unfold Ev.place placeIn
  simp only [found, no]

/-! ## Step 6 -/

theorem Base.maySeek_not_joined {v : Base} (h : v.station ≠ .joined) (b : Booking) : v.maySeek b = false := by
  simp [Base.maySeek, h]

theorem Ev.leaveStack_empty {e : Ev} (h : Nat) (stacked : e.s.stacked = ⟨[], []⟩) : e.leaveStack h = e := by
  have one (k : Tuner) : e.leaveStackOf h k = e := by
    have none : e.s.stacked.get k = [] := by rw [stacked]; cases k <;> rfl
    simp [Ev.leaveStackOf, none]
  rw [Ev.leaveStack, one .A, one .B]

/-- Steps 4 and 5 closed, a booking that is not hosted is left unplaced. -/
theorem Ev.afterThree_unplaced {v : Base} {o : Open} {b : Booking} {e : Ev} (own : b.hosted = false)
    (seek : (o.seek && v.maySeek b && decide (b.attempts < v.cfg.seekLimit)) = false)
    (refer : o.refer = true → e.s.referral v b o.check = none) (rest : o.rest = true) :
    e.afterThree v o b = e.leaveUnplaced v o b := by
  have noRefer : (if o.refer then e.s.referral v b o.check else none) = none := by
    split
    · rename_i h
      exact refer h
    · rfl
  simp only [Ev.afterThree, own, seek, noRefer, rest, Bool.false_and, Bool.false_eq_true, if_false, if_true]

theorem Sched.joinUnplaced_empty {s : Sched} (h : Nat) (unplaced : s.unplaced = []) :
    s.joinUnplaced h = { s with unplaced := [h] } := by
  simp [Sched.joinUnplaced, unplaced, Sched.insertHandle]

/-- The UNPLACED notice of a booking (R95). -/
def Booking.unplacedNotice (last : LastStep) (b : Booking) : Notice :=
  .unplaced b.handle b.id b.cls b.service b.start b.finish last

/-- Step 6 where nothing else is unplaced or on a stack: the booking is WAITING alone in the unplaced list, its trigger
armed, and its notice queued where it is new or comes from another state (R95). -/
theorem Ev.leaveUnplaced_alone {v : Base} {o : Open} {b : Booking} {e : Ev} {k : TrigKind} {u : Nat}
    (found : e.s.bk b.handle = some b) (alive : b.state ≠ .ended) (stacked : e.s.stacked = ⟨[], []⟩)
    (unplaced : e.s.unplaced = []) (room : e.s.notices.length < 32) (pending : e.s.pendingOutcomes = [])
    (armed : (b.inState .waiting .absent).armed v = some (k, u)) (ahead : v.clock < u)
    (tells : (o.fresh || b.state != .waiting) = true) :
    e.leaveUnplaced v o b = e.on fun s =>
      { s.modB b.handle (Booking.inState .waiting .absent) with
        unplaced := [b.handle]
        triggers := armedWith b.handle k u s.triggers
        notices := s.notices ++ [b.unplacedNotice (e.s.lastStep v o b)] } := by
  have waiting : (e.s.modB b.handle (Booking.inState .waiting .absent)).bk b.handle = some (b.inState .waiting .absent) :=
    Sched.bk_modB_self _ (fun _ => rfl) found alive
  have joined : (e.on fun s => (s.modB b.handle (Booking.inState .waiting .absent)).joinUnplaced b.handle) =
      e.on fun s => { s.modB b.handle (Booking.inState .waiting .absent) with unplaced := [b.handle] } :=
    Ev.on_congr (Sched.joinUnplaced_empty (s := e.s.modB b.handle (Booking.inState .waiting .absent)) b.handle unplaced)
  unfold Ev.leaveUnplaced
  rw [Ev.leaveStack_empty b.handle stacked]
  dsimp only
  rw [joined, Ev.arm_ahead (b := b.inState .waiting .absent) waiting armed ahead, if_pos tells, Ev.on_notice]
  · rfl
  · exact room
  · exact pending

/-! ## RESOLVE -/

theorem exec_resolve (h : Nat) (x : Option BookingId) (d : Nat) (s : State) :
    exec (.resolve h x d) s = s.request 21 (State.withBooking h x (State.resolve d)) := rfl

/-- What a referral opens when it is answered ADMIT or DECLINE (R103). -/
def resolveOpen (d : Nat) : Open := if d = 0 then .admitted else .decline

theorem Ev.resolve_place {d : Nat} (low : d ≤ 1) (v : Base) (h : Nat) (e : Ev) :
    e.resolve v d h = (e.on fun s => s.leaveReferral h).place v (resolveOpen d) h := by
  match d, low with
  | 0, _ => rfl
  | 1, _ => rfl

/-- A referral answered ADMIT or DECLINE where no tuner takes the booking and it may not seek (R103, R95). -/
theorem Ev.resolve_unplaced {v : Base} {e : Ev} {b : Booking} {d : Nat} {k : TrigKind} {u : Nat} (low : d ≤ 1)
    (found : e.s.bk b.handle = some b) (state : b.state = .referred) (own : b.cls ≠ .hosted) (bare : e.s.Bare)
    (none' : ∀ k, e.s.usable k = false) (apart : v.station ≠ .joined) (room : e.s.Room 1)
    (left : b.attempts < v.cfg.seekLimit) (armed : (b.inState .waiting .absent).armed v = some (k, u)) (ahead : v.clock < u) :
    e.resolve v d b.handle = e.on fun s =>
      { (s.leaveReferral b.handle).modB b.handle (Booking.inState .waiting .absent) with
        unplaced := [b.handle]
        triggers := armedWith b.handle k u s.triggers
        notices := s.notices ++ [b.unplacedNotice (if d = 0 then .noTuner else .declined)] } := by
  obtain ⟨-, stacked, unplaced⟩ := bare
  let e' := e.on fun s => s.leaveReferral b.handle
  have noSeek := Base.maySeek_not_joined apart b
  have last : e'.s.lastStep v (resolveOpen d) b = if d = 0 then .noTuner else .declined := by
    unfold resolveOpen
    split
    · simp [Sched.lastStep, Open.admitted, noSeek, left]
    · rfl
  rw [Ev.resolve_place low, Ev.place_afterThree (e := e') found (Sched.choose_unusable (s := e'.s) none' _ _ _ _ _),
    Ev.afterThree_unplaced (Booking.not_hosted own) (by simp [noSeek])
      (fun _ => Sched.referral_unusable (s := e'.s) none' _ _ _) (by unfold resolveOpen; split <;> rfl),
    Ev.leaveUnplaced_alone (e := e') found (by simp [state]) stacked unplaced (by have := room.1; show e.s.notices.length < 32; omega) room.2 armed ahead
      (by simp [state]), last]
  rfl

/-- Settles O21. -/
theorem resolve : Obligations.Resolve := by
  refine ⟨?_, ?_⟩
  · intro h x d b s takes range found agrees
    have entry := State.withBooking_found (f := State.resolve d) range found agrees
    refine ⟨fun high => takes.refused rfl (exec_resolve h x d s) (entry.trans ?_),
      fun low other => takes.refused rfl (exec_resolve h x d s) (entry.trans ?_), fun low state => ?_⟩
    · rw [State.resolve, if_pos high]
    · rw [State.resolve, if_neg (Nat.not_lt.mpr low), if_pos other]
    · obtain ⟨rfl, -⟩ := s.sch.bk_handle found
      obtain ⟨t, answered, base, sch⟩ := takes.answersEvent rfl (exec_resolve b.handle x d s)
        (entry.trans (by rw [State.resolve, if_neg (Nat.not_lt.mpr low), if_neg (Classical.not_not.mpr state)]))
      refine ⟨t, _, answered, base, sch ▸ s.sch.event_evolves (Ev.evolves_resolve s.base d _), fun two own => ?_⟩
      subst two
      exact sch ▸ Sched.event_reported (Ev.cancel_reported (e := Ev.of s.sch) s.base .cancelled found (by simp [state])
        (Booking.not_hosted own))
  · intro h x d b k u s takes range found agrees low state own bare settled noA noB apart room left c armed ahead
    obtain ⟨rfl, -⟩ := s.sch.bk_handle found
    have effect := Ev.resolve_unplaced (e := Ev.of s.sch) low found state own bare (Sched.usable_none noA noB) apart room left
      armed ahead
    have settled' : (((s.sch.leaveReferral b.handle).modB b.handle (Booking.inState .waiting .absent))).Settled :=
      Sched.Settled.modB (settled.of_bookings (t := s.sch.leaveReferral b.handle) rfl rfl rfl) _ _ (fun _ => rfl) fun a ha _ => by
        cases Option.some.inj (ha.symm.trans found)
        simp [Booking.tuneKey, Booking.occupies, Booking.inState, state, BState.occupies]
    have entry := State.withBooking_found (f := State.resolve d) range found agrees
    obtain ⟨t, answered, base, sch⟩ := takes.answersSettled rfl (exec_resolve b.handle x d s)
      (entry.trans (by rw [State.resolve, if_neg (by omega), if_neg (Classical.not_not.mpr state)]))
      (by rw [effect]; exact Ev.rests_quiet rfl rfl rfl) (by rw [effect]; rfl)
      (by rw [effect]; exact settled'.of_bookings rfl rfl rfl)
    rw [← sch] at answered
    rw [effect] at sch
    have found' : t.sch.bk b.handle = some c := by
      rw [sch]
      exact Sched.bk_modB_self (s := s.sch.leaveReferral b.handle) _ (fun _ => rfl) found (by simp [state])
    refine ⟨t, ?_, base, found', fun g other => ?_, ?_⟩
    · have result : (if d = 0 then t.sch.placed b.handle else t.sch.stateField b.handle) =
          0 :: if d = 0 then [0, 0] else [] := by
        split
        · simp only [Sched.placed, found']
          rw [if_neg (show c.state ≠ .planned from nofun)]
          exact (by decide : byte 0 ++ optionalTuner none = [0, 0, 0])
        · simp only [Sched.stateField, found']
          exact (by decide : byte 0 = [0])
      rwa [result] at answered
    · rw [sch]
      exact (s.sch.leaveReferral b.handle).bk_modB_other _ (fun _ => rfl) other
    · rw [sch]
      rfl

end Sys2Proof.Machine
end

section
/-! LINK and READ-LINK. -/

namespace Sys2Proof.Machine

/-! ## LINK -/

theorem exec_link (f : LinkFields) (s : State) : exec (.link f) s = s.request 11 (State.link f) := rfl

theorem serialAfter_eq (n : Nat) : serialAfter n = if n < 65535 then n + 1 else 1 := by
  unfold serialAfter
  split
  · rw [if_neg (by omega)]
  · rw [if_pos (by omega)]

theorem scopeOf_eq_none (x : ScopeField) : scopeOf x = none ↔ ∃ n, x = .other n := by
  cases x <;> simp [scopeOf]

theorem countFieldOf_eq_none (x : CountField) :
    countFieldOf x = none ↔ (∃ n, x = .other n) ∨ ∃ n, x = .number n ∧ (n = 0 ∨ 255 < n) := by
  cases x with
  | unbounded => simp [countFieldOf]
  | other n => simp [countFieldOf]
  | number n =>
    simp only [countFieldOf, reduceCtorEq, exists_false, false_or, CountField.number.injEq, exists_eq_left']
    split
    · simp only [reduceCtorEq, false_iff]
      omega
    · simp only [true_iff]
      omega

/-- No link in use, and no booking's series link, has the serial of the next link (R43). -/
theorem Sched.nextLinkSerial_fresh {s : Sched} (links : s.links.length ≤ 32) (bookings : s.bookings.length ≤ 128)
    (station : Nat) : (∀ m ∈ s.links, m.id.serial ≠ s.nextLinkSerial station) ∧
      ∀ b ∈ s.bookings, b.link ≠ some ⟨station, s.nextLinkSerial station⟩ := by
  have free := findSerial_not_used (fuel := 161)
    (l := s.links.map (·.id.serial) ++ s.bookings.filterMap fun b => b.link.map (·.serial)) s.linkCtr
    (used := fun n => s.links.any (fun l => l.id.serial == n) || s.bookings.any fun b => b.link == some ⟨station, n⟩)
    (fun n used => by
      simp only [Bool.or_eq_true, List.any_eq_true, beq_iff_eq] at used
      rw [List.mem_append]
      obtain ⟨l, hl, e⟩ | ⟨b, hb, e⟩ := used
      · exact .inl (List.mem_map.mpr ⟨l, hl, e⟩)
      · exact .inr (List.mem_filterMap.mpr ⟨b, hb, by rw [e]; rfl⟩))
    (by
      have := List.length_filterMap_le (fun b : Booking => b.link.map (·.serial)) s.bookings
      rw [List.length_append, List.length_map]
      omega)
    (by omega)
  change (s.links.any (fun l => l.id.serial == s.nextLinkSerial station) ||
    s.bookings.any fun b => b.link == some ⟨station, s.nextLinkSerial station⟩) = false at free
  simp only [Bool.or_eq_false_iff, List.any_eq_false, beq_iff_eq] at free
  exact free

theorem State.Takes.linkRefused {f : LinkFields} {s : State} {c : Code} (takes : s.Takes) (h : s.linkRefusal f = some c) :
    Refused (.link f) s c := by
  refine takes.refused rfl (exec_link f s) ?_
  simp only [State.link, h]

/-- The record of a new link whose count is among the alternatives. -/
theorem LinkFields.draft_eq {f : LinkFields} (count : countFieldOf f.count ≠ none)
    (slot : Nat) (id : LinkId) : LinkFields.draft f slot id =
      { slot := slot, id := id, series := f.series, scope := match f.scope with | .service n => some n | _ => none,
        priority := min 7 f.priority, pre := f.pre, post := f.post, follow := f.follow == 1, firstRun := f.firstRun == 1,
        count := match f.count with | .number n => some ⟨n, n⟩ | _ => none,
        exhausted := false, backlog := false, episodes := [] } := by
  have scope' : (scopeOf f.scope).getD none = match f.scope with | .service n => some n | _ => none := by
    cases f.scope <;> rfl
  have count' : (countFieldOf f.count).getD none = match f.count with | .number n => some ⟨n, n⟩ | _ => none := by
    cases e : f.count with
    | unbounded => rfl
    | other n => rfl
    | number n =>
      rw [e] at count
      unfold countFieldOf at count ⊢
      dsimp only at count ⊢
      split
      · rfl
      · rename_i no
        rw [if_neg no] at count
        exact absurd rfl count
  unfold LinkFields.draft
  rw [scope', count']

theorem scopeOf_eq {x : ScopeField} {scope : Option Nat} (read : scope = match x with | .service n => some n | _ => none)
    (good : scopeOf x ≠ none) : scopeOf x = some scope := by
  subst read
  cases x with
  | any => rfl
  | service n => rfl
  | other n => exact absurd rfl good

/-- Settles O22: the checks in their order, then the slot and the serial of the new link. -/
theorem linkMakesALink : Obligations.LinkMakesALink := by
  intro f s takes inv badValue scope twice
  have c1 : (!s.base.timed) = true ↔ s.base.timed = false := by simp
  have c2 : ((scopeOf f.scope).isNone || (countFieldOf f.count).isNone || (yesNoOf f.follow).isNone ||
      (yesNoOf f.firstRun).isNone || 30 < f.pre || 30 < f.post) = true ↔ badValue := by
    simp only [Bool.or_eq_true, decide_eq_true_eq, Option.isNone_iff_eq_none, yesNoOf_eq_none, scopeOf_eq_none,
      countFieldOf_eq_none, or_assoc]
    rfl
  have c3 (good : ¬badValue) : (s.sch.links.any fun l => l.series == f.series && some l.scope == scopeOf f.scope) = true ↔
      twice := by
    have known : scopeOf f.scope ≠ none := fun e => good (.inl ((scopeOf_eq_none _).mp e))
    have known' : scopeOf f.scope = some scope := scopeOf_eq rfl known
    simp only [List.any_eq_true, Bool.and_eq_true, beq_iff_eq, known', Option.some.injEq]
    rfl
  have timed (h : s.base.timed = true) : ¬ (!s.base.timed) = true := by simp [h]
  refine ⟨fun h1 => takes.linkRefused ?_, fun h1 h2 => takes.linkRefused ?_, fun h1 h2 h3 => takes.linkRefused ?_,
    fun h1 h2 h3 h4 => takes.linkRefused ?_, fun h1 h2 h3 h4 => ?_⟩
  · exact if_pos (c1.mpr h1)
  · exact (if_neg (timed h1)).trans (if_pos (c2.mpr h2))
  · exact (if_neg (timed h1)).trans ((if_neg (mt c2.mp h2)).trans (if_pos ((c3 h2).mpr h3)))
  · exact (if_neg (timed h1)).trans ((if_neg (mt c2.mp h2)).trans ((if_neg (mt (c3 h2).mp h3)).trans
      (if_pos (Nat.le_of_eq h4.symm))))
  · have passes : s.linkRefusal f = none :=
      (if_neg (timed h1)).trans ((if_neg (mt c2.mp h2)).trans ((if_neg (mt (c3 h2).mp h3)).trans
        (if_neg (Nat.not_le.mpr h4))))
    let id : LinkId := ⟨s.base.cfg.station, s.sch.nextLinkSerial s.base.cfg.station⟩
    let slot := lowestFree 32 (s.sch.links.map (·.slot))
    obtain ⟨t, answered, base, sch⟩ := takes.answers (t := s.onSched fun x =>
        { x with links := insertLink (LinkFields.draft f slot id) x.links, linkCtr := serialAfter id.serial })
      rfl (exec_link f s) (by rw [State.link, passes]) (s.beside_onSched _)
    obtain ⟨below, fresh, lower⟩ := lowestFree_spec (n := 32) (used := s.sch.links.map (·.slot)) (by rwa [List.length_map])
    obtain ⟨links, bookings⟩ := Sched.nextLinkSerial_fresh inv.sch.links inv.sch.bookings s.base.cfg.station
    refine ⟨t, LinkFields.draft f slot id, ?_, ⟨below, fun m hm e => ?_, fun n hn => ?_⟩, ⟨rfl, links, bookings⟩,
      LinkFields.draft_eq (fun e => h2 ?_) slot id, base, ?_⟩
    · rw [linkField_eq_fields, byte_eq_field1] at answered
      exact answered
    · exact fresh (List.mem_map.mpr ⟨m, hm, e⟩)
    · obtain ⟨m, hm, e⟩ := List.mem_map.mp (lower n hn)
      exact ⟨m, hm, e⟩
    · rcases (countFieldOf_eq_none _).mp e with other | number
      · exact .inr (.inl other)
      · exact .inr (.inr (.inl number))
    · rw [sch, ← serialAfter_eq]
      rfl

end Sys2Proof.Machine
end

section
/-! UNLINK and READ-LINK. -/

namespace Sys2Proof.Machine

/-! ## UNLINK -/

theorem exec_unlink (i : LinkId) (s : State) : exec (.unlink i) s = s.request 12 (State.unlink i) := rfl

theorem exec_readLink (k : LinkKey) (s : State) : exec (.readLink k) s = s.request 13 (State.readLink k) := rfl

theorem State.unlink_unknown {i : LinkId} {s : State} (unknown : ∀ l ∈ s.sch.links, l.id ≠ i) :
    s.unlink i = s.refuse .noSuch := by
  have no : ¬ (s.sch.links.any fun l => l.id == i) = true := by simpa using unknown
  exact if_neg no

/-- The answer of an UNLINK that finds its link, from what its fold over the bookings of the link leaves. -/
theorem State.unlink_known {i : LinkId} {s u : State} {l : Link} {a c : Nat} (inside : l ∈ s.sch.links) (id : l.id = i)
    (fold : (s.sch.ofLink i).foldl (unlinkOne i) (s, 0, 0) = (u, a, c)) :
    s.unlink i = (u.onSched fun x => { x with links := x.links.filter fun m => m.id != i }).done (byte a ++ byte c) := by
  have yes : (s.sch.links.any fun l => l.id == i) = true := by simpa using ⟨l, inside, id⟩
  unfold State.unlink
  rw [if_pos yes, fold]

theorem BState.continues_iff (st : BState) : st.continues = true ↔
    st = .preparing ∨ st = .recording ∨ st = .paused ∨ st = .suspended := by
  cases st <;> simp [BState.continues, BState.occupies]

theorem unlinkOne_left {i : LinkId} {s : State} {h : Nat} {b : Booking} (found : s.sch.bk h = some b) (link : b.link = some i)
    (alive : b.state ≠ .ended) (continues : b.state.continues = true) (a c : Nat) :
    unlinkOne i (s, a, c) h = (s, a, c + 1) := by
  simp [unlinkOne, found, link, alive, continues]

theorem unlinkOne_ended {i : LinkId} {s : State} {h : Nat} {b : Booking} (found : s.sch.bk h = some b)
    (link : b.link = some i) (alive : b.state ≠ .ended) (continues : b.state.continues = false) (a c : Nat) :
    unlinkOne i (s, a, c) h = (s.event fun e => e.cancel s.base h .cancelled, a + 1, c) := by
  simp [unlinkOne, found, link, alive, continues]

/-- Links that keep their fixed fields are picked alike by their ids. -/
theorem Link.fixed_filter {l m : List Link} (same : l.map Link.fixed = m.map Link.fixed) (i : LinkId) :
    (l.filter fun x => x.id != i).map Link.fixed = (m.filter fun x => x.id != i).map Link.fixed := by
  have picks (l : List Link) : (l.filter fun x => x.id != i).map Link.fixed =
      (l.map Link.fixed).filter fun k => k.1.2.1 != i := by rw [List.filter_map]; rfl
  rw [picks, picks, same]

theorem unlink_refuses_or_ends (i : LinkId) (s : State) (takes : s.Takes) :
    ((∀ l ∈ s.sch.links, l.id ≠ i) → Refused (.unlink i) s .noSuch) ∧
    ∀ l ∈ s.sch.links, l.id = i →
      (s.sch.ofLink i = [] → ∃ t, Answered (.unlink i) s t .ok [0, 0] ∧ t.base = s.base ∧
        t.sch = { s.sch with links := s.sch.links.filter fun m => m.id != i }) ∧
      ∀ h b, s.sch.ofLink i = [h] → s.sch.bk h = some b → b.link = some i → b.state ≠ .ended → b.cls ≠ .hosted →
        if b.state = .preparing ∨ b.state = .recording ∨ b.state = .paused ∨ b.state = .suspended then
          ∃ t, Answered (.unlink i) s t .ok [0, 1] ∧ t.base = s.base ∧
            t.sch = { s.sch with links := s.sch.links.filter fun m => m.id != i }
        else
          ∃ t, Answered (.unlink i) s t .ok [1, 0] ∧ t.base = s.base ∧
            t.sch.links.map Link.fixed = (s.sch.links.filter fun m => m.id != i).map Link.fixed ∧
            s.sch.Reported t.sch h (b.endedNotice s.base.clock (.cancelled, .cancelled)) := by
  refine ⟨fun unknown => takes.refused rfl (exec_unlink i s) (State.unlink_unknown unknown), fun l inside id => ⟨fun none => ?_,
    fun h b one found link alive own => ?_⟩⟩
  · exact takes.answers rfl (exec_unlink i s) (State.unlink_known inside id (by rw [none]; rfl)) (s.beside_onSched _)
  · split
    · rename_i under
      refine takes.answers rfl (exec_unlink i s) (State.unlink_known inside id (u := s) (a := 0) (c := 1) ?_)
        (s.beside_onSched _)
      rw [one]
      exact unlinkOne_left found link alive ((BState.continues_iff _).mpr under) 0 0
    · rename_i notUnder
      have ends := unlinkOne_ended found link alive
        (Bool.eq_false_iff.mpr (mt (BState.continues_iff _).mp notUnder)) 0 0
      obtain ⟨t, answered, base, sch⟩ := takes.answers rfl (exec_unlink i s)
        (State.unlink_known inside id (a := 1) (c := 0) (by rw [one]; exact ends))
        ((s.beside_event _).trans (State.beside_onSched _ _))
      refine ⟨t, answered, base, ?_, ?_⟩
      · rw [sch]
        exact Link.fixed_filter (s.sch.event_evolves (Ev.evolves_cancel s.base h .cancelled)).links i
      · rw [sch]
        exact Sched.event_reported (Ev.cancel_reported (e := Ev.of s.sch) s.base .cancelled found alive
          (Booking.not_hosted own))

/-! ## READ-LINK -/

/-- The record of a link, field by field (R49). -/
theorem Sched.linkBytes_eq (s : Sched) (l : Link) : s.linkBytes l =
    [BitVec.ofNat 8 l.slot, BitVec.ofNat 8 l.id.origin, BitVec.ofNat 8 (l.id.serial / 256), BitVec.ofNat 8 l.id.serial,
      BitVec.ofNat 8 (l.series / 16777216), BitVec.ofNat 8 (l.series / 65536), BitVec.ofNat 8 (l.series / 256),
      BitVec.ofNat 8 l.series, BitVec.ofNat 8 l.scope.isSome.toNat, BitVec.ofNat 8 ((l.scope.getD 0) / 256),
      BitVec.ofNat 8 (l.scope.getD 0), BitVec.ofNat 8 l.priority, BitVec.ofNat 8 l.pre, BitVec.ofNat 8 l.post,
      BitVec.ofNat 8 l.follow.toNat, BitVec.ofNat 8 l.firstRun.toNat, BitVec.ofNat 8 l.count.isSome.toNat,
      BitVec.ofNat 8 ((l.count.map (·.remaining)).getD 0), BitVec.ofNat 8 ((l.count.map (·.initial)).getD 0),
      BitVec.ofNat 8 l.exhausted.toNat, BitVec.ofNat 8 l.backlog.toNat, BitVec.ofNat 8 l.episodes.length] ++
    l.episodes.flatMap (bytesOf 4) ++
    [BitVec.ofNat 8 (s.bookings.filter fun b => b.link == some l.id && b.state != .ended).length] := by
  unfold Sched.linkBytes Sched.ofLink listField
  simp only [byte_eq_field1, linkField_eq_fields, bytesOf_four_eq_field4, bytesOf_two_eq_field2, yesNo_eq_field1,
    List.length_map, List.append_assoc, funext bytesOf_four_eq_field4]
  rfl

/-- Settles O23: UNLINK as above, and the link that READ-LINK finds by its key. -/
theorem unlinkAndReadLink : Obligations.UnlinkAndReadLink := by
  refine ⟨unlink_refuses_or_ends, fun s takes inv => ?_⟩
  intro bytes
  have layout : s.sch.linkBytes = bytes := funext s.sch.linkBytes_eq
  refine ⟨fun i none => takes.refused rfl (exec_readLink _ s) ?_, fun l inside unique => ?_,
    fun n above => takes.refused rfl (exec_readLink _ s) ?_, fun n range none => takes.refused rfl (exec_readLink _ s) ?_,
    fun n range l inside here least => ?_, fun n => takes.refused rfl (exec_readLink _ s) rfl⟩
  · have nobody : s.sch.links.find? (fun l => l.id == i) = .none := by simpa using none
    simp only [State.readLink, nobody]
  · have first : s.sch.links.find? (fun m => m.id == l.id) = some l := by
      cases found : s.sch.links.find? (fun m => m.id == l.id) with
      | none => exact absurd (beq_self_eq_true l.id) (List.find?_eq_none.mp found l inside)
      | some m => rw [unique m (List.mem_of_find?_eq_some found) (beq_iff_eq.mp (List.find?_some (p := fun m : Link => m.id == l.id) found))]
    rw [← layout]
    exact takes.told rfl (exec_readLink _ s) (by simp only [State.readLink, first])
  · exact if_pos above
  · have nobody : s.sch.links.find? (fun l => n ≤ l.slot) = .none := by simpa using none
    simp only [State.readLink, nobody, if_neg (Nat.not_lt.mpr range)]
  · have first : s.sch.links.find? (fun m => n ≤ m.slot) = some l :=
      find?_eq_some_of_least inv.sch.slots inside (decide_eq_true here) fun m hm picks =>
        least m hm (of_decide_eq_true picks)
    rw [← layout]
    exact takes.told rfl (exec_readLink _ s) (by simp only [State.readLink, first, if_neg (Nat.not_lt.mpr range)])

end Sys2Proof.Machine
end

section
/-! GUIDE-EVENT: what it refuses, what makes nothing, and what it does to a booking that it reaches. -/

namespace Sys2Proof.Machine

/-! ## The checks and the two steps -/

theorem exec_guideEvent (f : GuideFields) (s : State) :
    exec (.guideEvent f) s = s.request 14 (State.guideEvent f) := rfl

/-- A guide event that passes the checks is answered from its two steps. -/
theorem State.guideEvent_steps {f : GuideFields} {s t u : State} {a b c d : Nat} (timed : s.base.timed = true)
    (duration : f.duration ≤ 1440) (repeated : f.repeated ≤ 1) (one : s.guideStep1 f = (t, a, b))
    (two : t.guideStep2 f = (u, c, d)) : s.guideEvent f = u.done (byte a ++ byte b ++ byte c ++ byte d) := by
  have fields : ¬ (1440 < f.duration ∨ (yesNoOf f.repeated).isNone = true) := by
    rw [Option.isNone_iff_eq_none, yesNoOf_eq_none]
    omega
  unfold State.guideEvent
  rw [timed, if_neg (by simp), if_neg fields]
  dsimp only
  rw [one]
  dsimp only
  rw [two]

theorem reached_iff (f : GuideFields) (b : Booking) : reached f b = true ↔
    (b.cls = .event ∨ b.cls = .episode) ∧ b.state ≠ .ended ∧ b.service = f.service ∧ b.event = some f.event := by
  simp [reached, and_assoc]

theorem reached_own {f : GuideFields} {b : Booking} (h : reached f b = true) : b.cls ≠ .hosted := by
  rcases ((reached_iff f b).mp h).1 with e | e <;> simp [e]

theorem State.guideStep1_none {f : GuideFields} {s : State} (none : ∀ b ∈ s.sch.bookings, reached f b = false) :
    s.guideStep1 f = (s, 0, 0) := by
  have nobody : s.sch.bookings.filter (reached f) = [] := by simpa [List.filter_eq_nil_iff] using none
  simp [State.guideStep1, nobody]

/-- A guide event that reaches one booking and moves none. -/
theorem State.guideStep1_still {f : GuideFields} {s t : State} {b : Booking} {n : Nat}
    (one : s.sch.bookings.filter (reached f) = [b]) (step : guideOne f (s, 0, 0) b.handle = (t, 0, n)) :
    s.guideStep1 f = (t, 0, n) := by
  simp [State.guideStep1, one, step]

/-- One that moves it: the re-try follows (R53). -/
theorem State.guideStep1_moved {f : GuideFields} {s t : State} {b : Booking} {n : Nat}
    (one : s.sch.bookings.filter (reached f) = [b]) (step : guideOne f (s, 0, 0) b.handle = (t, 1, n)) :
    s.guideStep1 f = (t.event fun e => e.askRetry false, 1, n) := by
  simp [State.guideStep1, one, step]

theorem State.guideStep2_none {f : GuideFields} (h : f.duration = 0 ∨ f.series = none) (s : State) :
    s.guideStep2 f = (s, 0, 0) := by
  have none : f.duration = 0 ∨ f.series.isNone = true := by simpa using h
  exact if_pos none

/-- A link is among those that step 2 takes (R56). -/
def Link.matches (f : GuideFields) (l : Link) : Bool :=
  !l.exhausted && some l.series == f.series && l.scope.all (· == f.service)

theorem Sched.matching_eq (f : GuideFields) (s : Sched) : s.matching f =
    ((s.links.filter (Link.matches f)).foldl (fun acc l => insertByPriority l acc) []).map (·.slot) := rfl

theorem State.guideStep2_unmatched {f : GuideFields} {s : State} (none : ∀ l ∈ s.sch.links, Link.matches f l = false) :
    s.guideStep2 f = (s, 0, 0) := by
  have nobody : s.sch.links.filter (Link.matches f) = [] := by simpa [List.filter_eq_nil_iff] using none
  have empty : s.sch.matching f = [] := by simp [Sched.matching_eq, nobody]
  unfold State.guideStep2
  rw [empty]
  split <;> rfl

/-- Step 2 where the one link matches. -/
theorem State.guideStep2_one {f : GuideFields} {s : State} {l : Link} (long : 1 ≤ f.duration) (links : s.sch.links = [l])
    (hit : Link.matches f l = true) : s.guideStep2 f = matchOne f (s, 0, 0) l.slot := by
  have slots : s.sch.matching f = [l.slot] := by simp [Sched.matching_eq, links, hit, insertByPriority]
  have series : f.series = some l.series := by
    simp only [Link.matches, Bool.and_eq_true, beq_iff_eq] at hit
    exact hit.1.2.symm
  unfold State.guideStep2
  rw [slots, if_neg (by simp [series]; omega)]
  rfl

/-! ## A link that the guide event matches -/

/-- The guide event's start and end as R50 gives them. -/
theorem GuideFields.guideEnd_after {f : GuideFields} (long : 1 ≤ f.duration) :
    GuideFields.guideStart f < GuideFields.guideEnd f := by
  unfold GuideFields.guideStart GuideFields.guideEnd minuteDown minuteUp
  omega

theorem Link.matches_of {f : GuideFields} {l : Link} (series : f.series = some l.series)
    (scope : l.scope = none ∨ l.scope = some f.service) (left : l.exhausted = false) : Link.matches f l = true := by
  rcases scope with e | e <;> simp [Link.matches, series, e, left]

/-- A link that nothing bars from the guide event. -/
theorem State.skips_none {f : GuideFields} {l : Link} {s : State} (left : l.exhausted = false)
    (first : l.firstRun = false ∨ f.repeated = 0) (episode : ∀ c ∈ f.episode, c ∉ l.episodes)
    (programme : ∀ b ∈ s.sch.bookings, b.service ≠ f.service ∨ b.event ≠ some f.event)
    (ahead : s.base.clock < GuideFields.guideEnd f) (near : GuideFields.guideStart f ≤ s.base.clock + 44640 * 60) :
    s.skips f l = false := by
  have noFirst : (l.firstRun && f.repeated == 1) = false := by
    rcases first with e | e <;> simp [e]
  have noEpisode : f.episode.any (fun c => l.episodes.contains c) = false := by
    cases e : f.episode with
    | none => rfl
    | some c => simpa using episode c e
  have noProgramme : s.sch.hasProgramme f.service f.event = false := by
    rw [Bool.eq_false_iff, Ne, Sched.hasProgramme_iff]
    rintro ⟨b, hb, -, -, service, event⟩
    exact (programme b hb).elim (· service) (· event)
  unfold State.skips horizon
  simp only [noFirst, noEpisode, noProgramme, left, Bool.false_or, Bool.or_false, Bool.or_eq_false_iff, decide_eq_false_iff_not]
  omega

theorem matchOne_full {f : GuideFields} {l : Link} {s : State} (links : s.sch.links = [l]) (skips : s.skips f l = false)
    (full : s.sch.bookings.length = 128) :
    matchOne f (s, 0, 0) l.slot = (s.onSched (Sched.meetFull f l), 0, 1) := by
  have found : s.sch.links.find? (fun m => m.slot == l.slot) = some l := by simp [links]
  have noRoom : s.sch.roomFor .episode = false := by simp [Sched.roomFor, full]
  simp [matchOne, found, skips, noRoom]

theorem Sched.meetFull_one {f : GuideFields} {l : Link} {s : Sched} (links : s.links = [l]) (room : s.Room 1) :
    s.meetFull f l = { s with
      links := [{ l with backlog := true }]
      notices := s.notices ++
        if l.backlog then [] else [.linkBacklog l.id l.series f.service f.event (GuideFields.guideStart f)] } := by
  have marked : s.modLink l.slot (fun l => { l with backlog := true }) = { s with links := [{ l with backlog := true }] } := by
    simp [Sched.modLink, links]
  unfold Sched.meetFull
  rw [marked]
  cases l.backlog with
  | true => simp
  | false => exact Sched.notice_room _ (by have := room.1; show s.notices.length < 32; omega) room.2

/-- Settles O24: the checks, a guide event that neither step takes up, and a matching link with a full table. -/
theorem guideEventThatMakesNothing : Obligations.GuideEventThatMakesNothing := by
  refine ⟨fun f s takes => ⟨fun untimed => takes.refused rfl (exec_guideEvent f s) ?_,
    fun timed bad => takes.refused rfl (exec_guideEvent f s) ?_, fun timed duration repeated unreached unmatched => ?_⟩, ?_⟩
  · rw [State.guideEvent, untimed]
    rfl
  · have fields : 1440 < f.duration ∨ (yesNoOf f.repeated).isNone = true := by
      rwa [Option.isNone_iff_eq_none, yesNoOf_eq_none]
    rw [State.guideEvent, timed, if_neg (by simp), if_pos fields]
  · have one : s.guideStep1 f = (s, 0, 0) := State.guideStep1_none fun b hb => by
      rw [Bool.eq_false_iff, Ne, reached_iff]
      rintro ⟨cls, alive, service, event⟩
      rcases unreached b hb with e | e | e | e | e <;> simp_all
    have two : s.guideStep2 f = (s, 0, 0) := by
      rcases unmatched with short | none | links
      · exact State.guideStep2_none (.inl short) s
      · exact State.guideStep2_none (.inr none) s
      · refine State.guideStep2_unmatched fun l hl => ?_
        rcases links l hl with e | e | ⟨n, e, other⟩
        · simp [Link.matches, Ne.symm e]
        · simp [Link.matches, e]
        · simp [Link.matches, e, other]
    exact takes.told rfl (exec_guideEvent f s) (State.guideEvent_steps timed duration repeated one two)
  · intro f l s takes timed long duration repeated links series scope left first episode programme full room ahead near
    have one : s.guideStep1 f = (s, 0, 0) := State.guideStep1_none fun b hb => by
      rw [Bool.eq_false_iff, Ne, reached_iff]
      rintro ⟨-, -, service, event⟩
      exact (programme b hb).elim (· service) (· event)
    have skips : s.skips f l = false :=
      State.skips_none left first episode programme (Nat.lt_trans ahead (GuideFields.guideEnd_after long)) near
    have two := (State.guideStep2_one long links (Link.matches_of series scope left)).trans (matchOne_full links skips full)
    obtain ⟨t, answered, base, sch⟩ := takes.answers rfl (exec_guideEvent f s)
      (State.guideEvent_steps timed duration repeated one two) (s.beside_onSched _)
    exact ⟨t, answered, base, sch.trans (Sched.meetFull_one links room)⟩

/-! ## A booking that the guide event reaches -/

theorem guideOne_withdrawn {f : GuideFields} {s : State} {h : Nat} {b : Booking} (found : s.sch.bk h = some b)
    (hit : reached f b = true) (short : f.duration = 0) (notUnder : b.underWay s.base = false) :
    guideOne f (s, 0, 0) h = (s.event fun e => e.cancel s.base h .guideWithdrawn, 0, 1) := by
  simp [guideOne, found, hit, short, notUnder]

theorem guideOne_moved {f : GuideFields} {s : State} {h : Nat} {b : Booking} (found : s.sch.bk h = some b)
    (hit : reached f b = true) (long : 1 ≤ f.duration) (moved : b.movedBy s.base f = true) :
    guideOne f (s, 0, 0) h =
      (s.event fun e => (e.on fun x => x.modB h (Booking.guided s.base f)).afterMove s.base f b, 1, 0) := by
  simp [guideOne, found, hit, moved, Nat.ne_of_gt long]

/-- A booking under way takes the guide's end alone (R51). -/
theorem Booking.guided_underWay {v : Base} {f : GuideFields} {b : Booking} (under : b.underWay v = true)
    (ahead : b.follow = false ∨ v.clock < max (b.start + 60) (min (b.start + 86400) (GuideFields.guideEnd f)) + 60 * b.post) :
    b.guided v f = { b with finish := max (b.start + 60) (min (b.start + 86400) (GuideFields.guideEnd f)) } := by
  have still : (b.follow && decide (max (b.start + 60) (min (b.start + 86400) (GuideFields.guideEnd f)) + 60 * b.post ≤ v.clock)) =
      false := by
    rcases ahead with e | e
    · simp [e]
    · simp [Nat.not_le.mpr e]
  unfold Booking.guided Booking.underWayEnd
  rw [if_pos under]
  dsimp only
  rw [still, if_neg Bool.false_ne_true]

/-- Settles O25: the withdrawal is an end like CANCEL's, and a move under way re-arms the trigger alone. -/
theorem guideEventChangesABooking : Obligations.GuideEventChangesABooking := by
  constructor
  · intro f b s takes timed short repeated one found fresh state
    have hit : reached f b = true := (List.mem_filter.mp (one ▸ List.mem_singleton_self b : b ∈ s.sch.bookings.filter _)).2
    have notUnder : b.underWay s.base = false := by
      rcases state with e | e | e | e | e <;> simp [Booking.underWay, Booking.started, e, fresh, BState.occupies]
    have alive : b.state ≠ .ended := by rcases state with e | e | e | e | e <;> simp [e]
    obtain ⟨t, answered, base, sch⟩ := takes.answers rfl (exec_guideEvent f s)
      (State.guideEvent_steps timed (by omega) repeated (State.guideStep1_still one (guideOne_withdrawn found hit short notUnder))
        (State.guideStep2_none (.inl short) _)) (s.beside_event _)
    refine ⟨t, answered, base, ?_, ?_⟩
    · rw [sch]
      exact s.sch.event_evolves (Ev.evolves_cancel s.base _ _)
    · rw [sch]
      exact Sched.event_reported (Ev.cancel_reported (e := Ev.of s.sch) s.base .guideWithdrawn found alive
        (Booking.not_hosted (reached_own hit)))
  · intro f b k d s takes timed long duration series repeated one found unplaced settled state guideEnd finish c moved ahead
      armed due
    have hit : reached f b = true := (List.mem_filter.mp (one ▸ List.mem_singleton_self b : b ∈ s.sch.bookings.filter _)).2
    have under : b.underWay s.base = true := by
      rcases state with e | e | e | e <;> simp [Booking.underWay, Booking.started, e, BState.occupies]
    have alive : b.state ≠ .ended := by rcases state with e | e | e | e <;> simp [e]
    have guided : b.guided s.base f = c := Booking.guided_underWay under ahead
    have moves : b.movedBy s.base f = true := by
      simp only [Booking.movedBy, guided, Bool.or_eq_true, bne_iff_ne]
      exact .inr moved
    let g : Ev → Ev := fun e => (e.on fun x => x.modB b.handle (Booking.guided s.base f)).afterMove s.base f b
    have found' : (s.sch.modB b.handle (Booking.guided s.base f)).bk b.handle = some c := by
      rw [Sched.bk_modB_self (Booking.guided s.base f) (fun x => by unfold Booking.guided; split <;> rfl) found alive, guided]
    have after (e : Ev) : e.afterMove s.base f b = e.arm s.base b.handle := by
      unfold Ev.afterMove
      rw [under]
      rcases state with e | e | e | e <;> rw [e] <;> rfl
    have arms : g (Ev.of s.sch) = ((Ev.of s.sch).on fun x => x.modB b.handle (Booking.guided s.base f)).on fun s =>
        { s with triggers := armedWith b.handle k d s.triggers } :=
      (after _).trans (Ev.arm_ahead found' armed due)
    have settled' : (s.sch.modB b.handle (Booking.guided s.base f)).Settled :=
      settled.modB _ _ (fun x => by unfold Booking.guided; split <;> rfl) fun a ha _ => by
        cases Option.some.inj (ha.symm.trans found)
        rw [guided]
        rfl
    have first : s.sch.event s.base g =
        { s.sch.modB b.handle (Booking.guided s.base f) with triggers := armedWith b.handle k d s.sch.triggers } := by
      have quiet : (g (Ev.of s.sch)).Rests s.base := arms ▸ Ev.rests_quiet rfl rfl rfl
      rw [Sched.event, Ev.settle_settled quiet (arms ▸ rfl) (arms ▸ settled'.of_bookings rfl rfl rfl), arms]
      rfl
    have second : (s.sch.event s.base g).event s.base (fun e => e.askRetry false) = s.sch.event s.base g := by
      rw [first]
      refine Ev.settle_settled (e := (Ev.of _).askRetry false) ⟨fun a => by simp [Ev.of, Ev.askRetry] at a,
        fun a => by simp [Ev.of, Ev.askRetry] at a, fun keep _ => Sched.noRetry_of_empty keep unplaced,
        fun a => by simp [Ev.of, Ev.askRetry] at a⟩ rfl ?_
      exact settled'.of_bookings rfl rfl rfl
    obtain ⟨t, answered, base, sch⟩ := takes.answers rfl (exec_guideEvent f s)
      (State.guideEvent_steps timed duration repeated (State.guideStep1_moved one (guideOne_moved found hit long moves))
        (State.guideStep2_none (.inr series) _)) ((s.beside_event _).trans (State.beside_event _ _))
    have left : t.sch = { s.sch.modB b.handle (Booking.guided s.base f) with
        triggers := armedWith b.handle k d s.sch.triggers } := sch.trans (second.trans first)
    refine ⟨t, answered, base, ?_, ?_, fun g other => ?_⟩
    · rw [left]
      exact found'
    · rw [left]
      rfl
    · rw [left]
      exact s.sch.bk_modB_other _ (fun x => by unfold Booking.guided; split <;> rfl) other

end Sys2Proof.Machine
end

section
/-! The directives that an event issues, and TUNER-REPORT. -/

namespace Sys2Proof.Machine

/-! ## When a directive is due -/

/-- A tuner's directive is due, or not, by its record's directive, hold and captures and by its occupants. -/
theorem Sched.directiveStale_congr {s t : Sched} {k : Tuner} (directive : (t.tuners.get k).directive = (s.tuners.get k).directive)
    (live : (t.tuners.get k).live = (s.tuners.get k).live) (captures : (t.tuners.get k).captures = (s.tuners.get k).captures)
    (occupants : (t.occupants k).map Booking.tuneKey = (s.occupants k).map Booking.tuneKey) :
    t.directiveStale k = s.directiveStale k := by
  unfold Sched.directiveStale
  dsimp only
  rw [Sched.neededMux_congr live occupants, directive, live, captures]

theorem Sched.settled_iff (s : Sched) : s.Settled ↔ ∀ k, s.directiveStale k = false :=
  ⟨fun h k => by cases k; exact h.1; exact h.2, fun h => ⟨h .A, h .B⟩⟩

theorem Sched.directiveStale_iff (s : Sched) (k : Tuner) : s.directiveStale k = false ↔
    (s.tuners.get k).directive.mux = s.neededMux k ∧
      (s.tuners.get k).directive.live = (s.tuners.get k).live.map (·.service) ∧
      (s.tuners.get k).directive.captures = (s.tuners.get k).captures := by
  simp [Sched.directiveStale, and_assoc]

/-- A tuner's record may change in its state, timers, marks and unread mark alone without a directive falling due. -/
theorem Sched.Settled.modTuner {s : Sched} (settled : s.Settled) (k : Tuner) (f : TunerRec → TunerRec)
    (directive : (f (s.tuners.get k)).directive = (s.tuners.get k).directive)
    (live : (f (s.tuners.get k)).live = (s.tuners.get k).live)
    (captures : (f (s.tuners.get k)).captures = (s.tuners.get k).captures) : (s.modTuner k f).Settled := by
  rw [Sched.settled_iff] at settled ⊢
  intro u
  rw [← settled u]
  by_cases same : u = k
  · subst same
    refine Sched.directiveStale_congr ?_ ?_ ?_ rfl <;> simpa
  · have other : u = k.other := by cases u <;> cases k <;> simp_all [Tuner.other]
    subst other
    refine Sched.directiveStale_congr ?_ ?_ ?_ rfl <;> simp [Two.mod]

/-! ## TUNER-REPORT -/

theorem exec_tunerReport (n serial status : Nat) (s : State) :
    exec (.tunerReport n serial status) s = s.request 20 (State.tunerReport n serial status) := rfl

/-- A current report of a fitted tuner is an event. -/
theorem State.tunerReport_current {n serial status : Nat} {s : State} (range : n ≤ 1) (good : status ≤ 1)
    (fitted : n < s.base.cfg.fitted) (current : serial = (s.sch.tuners.get (Tuner.ofIndex n)).directive.serial) :
    s.tunerReport n serial status = s.answerEvent (Ev.report s.base (Tuner.ofIndex n) status) fun x =>
      yesNo false ++ byte (x.tuners.get (Tuner.ofIndex n)).state.code := by
  have passes : ¬ (1 < n ∨ 1 < status) := by omega
  have isFitted : s.base.isFitted n = true := decide_eq_true fitted
  unfold State.tunerReport
  rw [if_neg passes, isFitted, if_neg (by simp)]
  exact if_neg (Classical.not_not.mpr current)

/-- A tuner on which no booking is PREPARING locks without a capture. -/
theorem Ev.lock_quiet {v : Base} {k : Tuner} {e : Ev} (nobody : ∀ b ∈ e.s.occupants k, b.state ≠ .preparing) :
    e.lock v k = e.on fun s => s.modTuner k fun r => { r with state := .locked, tuneTimer := none } := by
  have empty : (e.s.occupants k).filter (fun b => b.state == .preparing) = [] := by
    simpa [List.filter_eq_nil_iff] using nobody
  unfold Ev.lock Ev.captureAll
  exact congrArg (fun l => (byPrep l).foldl _ _) empty

theorem Ev.report_locks {v : Base} {k : Tuner} {e : Ev} (state : (e.s.tuners.get k).state = .tuning ∨
    (e.s.tuners.get k).state = .unknown) : e.report v k 0 = e.lock v k := by
  unfold Ev.report
  rcases state with h | h <;> rw [h] <;> rfl

theorem Ev.report_still {v : Base} {k : Tuner} {e : Ev} {status : Nat} (state : (e.s.tuners.get k).state = .idle ∨
    (e.s.tuners.get k).state = .failed ∨ (status = 0 ∧ (e.s.tuners.get k).state = .locked)) : e.report v k status = e := by
  unfold Ev.report
  rcases state with h | h | ⟨rfl, h⟩
  · rw [h]
  · rw [h]
  · rw [h]
    rfl

/-- Settles O29: the checks, a stale report, and the current ones that lock the tuner or find nothing to do. -/
theorem tunerReport : Obligations.TunerReport := by
  intro n serial status s takes i k r
  refine ⟨fun bad => takes.refused rfl (exec_tunerReport n serial status s) (if_pos bad), fun range good out =>
    takes.refused rfl (exec_tunerReport n serial status s) ?_, fun range good fitted => ⟨fun stale => ?_, fun current settled =>
    ⟨fun locks state none => ?_, fun still => ?_⟩⟩⟩
  · have isFitted : s.base.isFitted n = false := decide_eq_false (Nat.not_lt.mpr out)
    rw [State.tunerReport, if_neg (by omega), isFitted]
    rfl
  · have isFitted : s.base.isFitted n = true := decide_eq_true fitted
    refine takes.told rfl (exec_tunerReport n serial status s) ?_
    rw [State.tunerReport, if_neg (by omega), isFitted, if_neg (by simp)]
    refine (if_pos stale).trans ?_
    rw [bytesOf_two_eq_field2]
    rfl
  · subst locks
    have lock := (Ev.report_locks (v := s.base) (k := Tuner.ofIndex n) (e := Ev.of s.sch) state).trans (Ev.lock_quiet none)
    obtain ⟨t, answered, base, sch⟩ := takes.answersSettled rfl (exec_tunerReport n serial 0 s)
      (State.tunerReport_current range good fitted current) (lock ▸ Ev.rests_quiet rfl rfl rfl) (lock ▸ rfl)
      (lock ▸ settled.modTuner k _ rfl rfl rfl)
    rw [lock] at answered sch
    refine ⟨t, ?_, base, sch⟩
    have bytes : yesNo false ++ byte ((s.sch.modTuner k fun r => { r with state := .locked, tuneTimer := .none }).tuners.get
        k).state.code = [0, 2] := by
      rw [Sched.modTuner_tuners, Two.get_mod]
      exact (by decide : yesNo false ++ byte TState.locked.code = [0, 2])
    exact bytes ▸ answered
  · have nothing := Ev.report_still (v := s.base) (k := Tuner.ofIndex n) (e := Ev.of s.sch) still
    obtain ⟨t, answered, base, sch⟩ := takes.answersSettled rfl (exec_tunerReport n serial status s)
      (State.tunerReport_current range good fitted current) (by rw [nothing]; exact Ev.rests_quiet rfl rfl rfl)
      (by rw [nothing]; rfl) (by rw [nothing]; exact settled)
    rw [nothing] at answered sch
    refine ⟨t, ?_, base, sch⟩
    rw [yesNo_eq_field1, byte_eq_field1] at answered
    exact answered

end Sys2Proof.Machine
end

section
/-! CONFIGURE, and the receive-fault window. -/

namespace Sys2Proof.Machine

/-! ## CONFIGURE -/

theorem exec_configure (c : ConfigFields) (s : State) : exec (.configure c) s = s.request 1 (State.configure c) := rfl

theorem within_iff (lo hi n : Nat) : within lo hi n = true ↔ lo ≤ n ∧ n ≤ hi := by simp [within]

theorem Base.locked_iff (v : Base) : v.locked = true ↔
    v.station = .joining ∨ v.station = .joined ∨ v.station = .leaving := by
  simp [Base.locked, or_assoc]

/-- The ranges of the settings (R190). -/
theorem inRange_iff (c : ConfigFields) : inRange c = true ↔
    (1 ≤ c.station ∧ c.station ≤ 8 ∧ c.household ≤ 65535 ∧ 1 ≤ c.fitted ∧ c.fitted ≤ 2 ∧ 2 ≤ c.rollPeriod ∧
      c.rollPeriod ≤ 30 ∧ (c.window = 6 ∨ c.window = 8 ∨ c.window = 10) ∧ (c.debounce = 0 ∨ c.debounce = 1)) ∧
    (2 ≤ c.skew ∧ c.skew ≤ 60 ∧ c.clash.length = 16 ∧ (∀ n ∈ c.clash, n = 0 ∨ n = 1) ∧
      (c.livePolicy = 0 ∨ c.livePolicy = 1) ∧ c.depth ≤ 3 ∧
      250 ≤ c.bidWindow ∧ c.bidWindow ≤ 4000 ∧ 500 ≤ c.takeTimeout ∧ c.takeTimeout ≤ 4000) ∧
    (1 ≤ c.seekLimit ∧ c.seekLimit ≤ 5 ∧ 10 ≤ c.tuneLead ∧ c.tuneLead ≤ 120 ∧ 2 ≤ c.tuneTimeout ∧
      c.tuneTimeout ≤ 30 ∧ 30 ≤ c.recheck ∧ c.recheck ≤ 600 ∧ c.grace ≤ 60 ∧ c.overrun ≤ 180) := by
  have flag (n : Nat) : within 0 1 n = true ↔ n = 0 ∨ n = 1 := by rw [within_iff]; omega
  simp only [inRange, Bool.and_eq_true, Bool.or_eq_true, beq_iff_eq, List.all_eq_true, flag, within_iff, and_assoc, or_assoc,
    Nat.zero_le, true_and]

theorem Sched.evictDown_empty {s : Sched} (k : Tuner) (kind : EvictKind) (n : Nat) (empty : s.stacked = ⟨[], []⟩) :
    s.evictDown k kind n = s := by
  have none : s.stacked.get k = [] := by rw [empty]; cases k <;> rfl
  rw [Sched.evictDown, none]
  rfl

theorem Ev.armAll_empty {v : Base} {e : Ev} (empty : e.s.bookings = []) : e.armAll v = e := by
  rw [Ev.armAll, empty]
  rfl

/-- New settings with the fitted count as it was reach nothing where no booking stands and the stacks are empty. -/
theorem Ev.reconfigure_empty {v : Base} {old : Settings} {e : Ev} (bookings : e.s.bookings = [])
    (stacked : e.s.stacked = ⟨[], []⟩) (fitted : v.cfg.fitted = old.fitted) : e.reconfigure v old = e := by
  have down : (e.on fun s => (s.evictDown .A .configure v.cfg.depth).evictDown .B .configure v.cfg.depth) = e :=
    Ev.on_congr (g := id) (by rw [Sched.evictDown_empty .A _ _ stacked, Sched.evictDown_empty .B _ _ stacked]; rfl)
  unfold Ev.reconfigure
  rw [down]
  dsimp only
  rw [if_pos fitted, Ev.armAll_empty bookings]
  exact ite_self e

theorem Base.detach_of_detached {v : Base} (h : v.station = .detached) : v.detach =
    { v with
      joinTimer := none, leaveTimer := none, rollTimer := none, leavingSent := false
      peers := Peer.emptyTable v.cfg.station } := by
  cases v
  cases h
  rfl

/-- Settles O40: the checks in their order, and an event with nothing to do. -/
theorem configure : Obligations.Configure := by
  intro c s takes yesNo good locked hosted
  have c1 : s.base.locked = true ↔ locked := s.base.locked_iff
  have c2 : (!inRange c) = true ↔ ¬good := by
    rw [Bool.not_eq_true', ← Bool.not_eq_true]
    exact not_congr (inRange_iff c)
  have c3 : (s.sch.bookings.any fun b => b.hosted && b.id.origin == c.station) = true ↔ hosted := by
    simp only [List.any_eq_true, Bool.and_eq_true, Booking.hosted_iff, beq_iff_eq]
    rfl
  have refused (r : Code) (h : s.configureRefusal c = some r) : Refused (.configure c) s r :=
    takes.refused rfl (exec_configure c s) (by simp only [State.configure, h])
  refine ⟨fun h1 => refused _ (if_pos (c1.mpr h1)),
    fun h1 h2 => refused _ ((if_neg (mt c1.mp h1)).trans (if_pos (c2.mpr h2))),
    fun h1 h2 h3 => refused _ ((if_neg (mt c1.mp h1)).trans ((if_neg (mt c2.mp (Classical.not_not.mpr h2))).trans (if_pos (c3.mpr h3)))),
    fun h2 detached bookings bare settled fitted => ?_⟩
  have h1 : ¬locked := by simp [locked, detached]
  have h3 : ¬hosted := by simp [hosted, bookings]
  have passes : s.configureRefusal c = none :=
    (if_neg (mt c1.mp h1)).trans ((if_neg (mt c2.mp (Classical.not_not.mpr h2))).trans (if_neg (mt c3.mp h3)))
  let v := s.base.configured (settingsOf c)
  have rests : (Ev.of s.sch).Rests v := Ev.rests_quiet rfl rfl rfl
  have nothing : Ev.configure s.base (settingsOf c) (Ev.of s.sch) = (Ev.of s.sch).asked := by
    have still : (Ev.of s.sch).reconfigure v s.base.cfg = Ev.of s.sch := Ev.reconfigure_empty bookings bare.2.1 fitted
    have apart : (s.base.station == .isolated) = false := by rw [detached]; rfl
    unfold Ev.configure
    rw [apart]
    exact (congrArg (Ev.finish v) still).trans (Ev.finish_rests rests)
  obtain ⟨t, answered, base, sch⟩ := takes.answers rfl (exec_configure c s)
    (t := { s with base := v }.event (Ev.configure s.base (settingsOf c))) (by rw [State.configure, passes])
    ((s.beside_of _ _).trans (State.beside_event _ _))
  refine ⟨t, answered, sch.trans ?_, base.trans ?_⟩
  · show (Ev.configure s.base (settingsOf c) (Ev.of s.sch)).settle v = s.sch
    rw [nothing]
    exact Ev.settle_settled (Ev.rests_quiet rfl rfl rfl) rfl settled
  · show s.base.configured (settingsOf c) = _
    rw [Base.configured, Base.detach_of_detached detached]
    rfl

/-! ## The receive-fault window -/

theorem Base.countFrame_eq (v : Base) (good : Bool) : v.countFrame good =
    let w := v.window ++ [good]
    let kept := w.drop (w.length - 16)
    let bad := (kept.filter fun g => !g).length
    let run := if good then min 16 (v.goodRun + 1) else 0
    { v with
      window := kept, goodRun := run
      rxFault := if good = true ∧ run = 16 then false else if good = false ∧ 3 ≤ bad then true else v.rxFault } := by
  cases good
  · simp only [Base.countFrame, lastN, badCount, Bool.false_eq_true, false_and, if_false, true_and]
    rfl
  · simp only [Base.countFrame, lastN, true_and, if_true, Bool.true_eq_false, false_and, if_false]

/-- Settles O45: the window, the count and the flag by the one result, and the two events that count a bad frame. -/
theorem countedFrames : Obligations.CountedFrames := by
  constructor
  · intro good s w kept bad run flag
    have base := s.base.countFrame_eq good
    refine ⟨base, ?_⟩
    show s.sch.linkFaultNotice s.base (s.base.countFrame good) = _
    unfold Sched.linkFaultNotice
    rw [base]
    by_cases same : flag = s.base.rxFault
    · rw [if_pos same, if_pos same.symm]
    · rw [if_neg same, if_neg (Ne.symm same)]
      rfl
  · intro i s high idle heard
    constructor
    · rintro (⟨why, rfl⟩ | ⟨n, rfl⟩)
      · rw [exec_badFrameReceived, State.happens_high _ _ high, State.yieldWire_idle idle]
      · rw [exec_malformedFrame, State.happens_high _ _ high, State.yieldWire_idle idle, if_pos rfl]
    · rintro ⟨n, c, rfl, other⟩
      rw [exec_malformedFrame, State.happens_high _ _ high, if_neg other, State.yieldWire_idle idle]

end Sys2Proof.Machine
end

section
/-! The station's own ROLL, and its life: the roll timer, JOIN and LEAVE with their timers. -/

namespace Sys2Proof.Machine

/-! ## Offering a message with a place of its own -/

/-- A message that the station state admits joins the tail of the queue, where there is room and, for a ROLL, no ROLL
waits (R132). -/
theorem Sched.offer_fresh {v : Base} {m : Msg} {s : Sched} (admits : v.station.admits m = true)
    (noRoll : ∀ q ∈ s.txq, q.msg.isRoll = false) (room : s.txq.length < 12) (rank : Nat) (b : Option Nat) :
    s.offer v rank m b = { s with txq := s.txq ++ [compose v rank m b] } := by
  have alone : s.txq.any (·.msg.isRoll) = false := by simpa using noRoll
  simp [Sched.offer, offerAnswer, admits, alone, room]

theorem Sched.offerTallies_none {s : Sched} (v : Base) (p : TallyRec → Bool) (none : s.tallies = []) :
    s.offerTallies v p = s := by
  unfold Sched.offerTallies
  rw [none, offerTallyList]
  exact congrArg (fun l => { s with tallies := l }) none.symm

/-! ## Timed events -/

theorem State.happened_at {i : Instr} {s : State} {due : State → Option Nat} {f : State → State} {u : Nat}
    (run : exec i s = s.atInstant due f) (high : s.resetLow = false) (h : due s = some u)
    (beside : (s.countTo u).Beside (f (s.countTo u))) : Happened i s (f (s.countTo u)) :=
  .of (run.trans (s.atInstant_runs due f u high h)) ((s.beside_countTo u).trans beside)

/-- An event whose parts find nothing to do before its last effect. -/
theorem Ev.settle_finished {v : Base} {e : Ev} {f : Sched → Sched} (rests : e.Rests v) (late : e.late = [])
    (settled : (f e.s).Settled) : ((e.finish v).on f).settle v = f e.s := by
  rw [Ev.finish_rests rests]
  exact Ev.settle_settled (e := e.asked.on f) (Ev.rests_quiet rfl rfl rfl) late settled

/-! ## The roll timer -/

/-- What a ROLL says of the station itself (R142). -/
theorem Sched.roll_says (v : Base) (s : Sched) : ∃ r, s.roll v = .roll r ∧ r.incarnation = v.incarnation ∧
    r.flags = ⟨!v.timed, v.rxFault, v.station == .leaving, v.station == .joining⟩ ∧ r.period = v.cfg.rollPeriod ∧
    r.day = v.clock / 86400 := ⟨_, rfl, rfl, rfl, rfl, rfl⟩

/-- The tuners of a ROLL (R142). -/
theorem Sched.rollTuners_eq (v : Base) (s : Sched) : v.fittedTuners.map (s.rollTuner v) =
    (if v.cfg.fitted = 1 then [Tuner.A] else [.A, .B]).map fun k =>
      { state := (s.tuners.get k).state.code
        mux := (s.tuners.get k).directive.mux
        busy := match s.busyUntil v k with
          | none => 65535
          | some u =>
            if u + 86400 < v.clock / 86400 * 86400 then 0
            else min 65535 ((u + 86400 - v.clock / 86400 * 86400) / 60)
        top := s.topRank k } := rfl

/-- Settles O49: the ROLL has a place of its own, and no tally waits to be offered. -/
theorem rollTimerExpiry : Obligations.RollTimerExpiry := by
  intro d s high timer joined room noRoll noTally v
  let u : Base := { v with rollTimer := some (d + v.cfg.rollPeriod * 4096000) }
  have station : u.station = .joined := (s.countTo_station d).trans joined
  have base : (s.countTo d).rollExpires.base = u := by
    show { v with rollTimer := v.rollTimer.map (· + v.cfg.rollPeriod * unit) } = u
    rw [show v.rollTimer = some d from (s.countTo_rollTimer d).trans timer]
    rfl
  have offered : s.sch.offerRoll u = { s.sch with txq := s.sch.txq ++ [compose u 31 (s.sch.roll u) none] } :=
    Sched.offer_fresh (by rw [station]; rfl) noRoll room 31 none
  have sch : (s.countTo d).rollExpires.sch = { s.sch with txq := s.sch.txq ++ [compose u 31 (s.sch.roll u) none] } := by
    show (s.sch.offerRoll (s.countTo d).rollExpires.base).offerTallies (s.countTo d).rollExpires.base _ = _
    rw [base, offered]
    exact Sched.offerTallies_none _ _ noTally
  refine ⟨_, _, _, State.happened_at (exec_rollTimerExpiry s) high timer ((s.countTo d).beside_of _ _), base, sch, rfl, rfl, rfl,
    rfl, rfl, rfl, ?_, rfl, rfl, s.sch.usableTuners_length, s.sch.rollTuners_eq v⟩
  show (⟨!v.timed, v.rxFault, u.station == .leaving, u.station == .joining⟩ : RollFlags) = _
  rw [station]
  rfl

/-! ## JOIN and its timer -/

theorem exec_join (s : State) : exec .join s = s.request 2 State.join := rfl

/-- A ROLL offered to an empty queue, and a STATION notice that finds room. -/
theorem Sched.offerRoll_notice {v : Base} {s : Sched} {n : Notice} (admits : v.station.admits (s.roll v) = true)
    (empty : s.txq = []) (room : s.Room 1) : (s.offerRoll v).notice n =
      { s with txq := [compose v 31 (s.roll v) none], notices := s.notices ++ [n] } := by
  have offered : s.offerRoll v = { s with txq := [compose v 31 (s.roll v) none] } := by
    rw [Sched.offerRoll, Sched.offer_fresh admits (by simp [empty]) (by simp [empty]), empty]
    rfl
  rw [offered]
  exact Sched.notice_room n (by have := room.1; show s.notices.length < 32; omega) room.2

/-- Settles O41: JOIN offers its ROLL, and so does the expiry of its timer, after which nothing waits to be placed. -/
theorem joinAndItsTimer : Obligations.JoinAndItsTimer := by
  refine ⟨fun s takes => ⟨fun other => takes.refused rfl (exec_join s) (if_pos other), fun detached empty room => ?_⟩,
    fun d s high => ⟨fun stopped => ?_, fun joining timer empty unplaced settled room => ?_⟩⟩
  · have offered := Sched.offerRoll_notice (v := s.base.startJoining) (n := .station .joining .join) (s := s.sch) rfl empty room
    obtain ⟨t, answered, base, sch⟩ := takes.answers rfl (exec_join s) (if_neg (Classical.not_not.mpr detached)) (s.beside_of _ _)
    obtain ⟨r, reads, incarnation, flags, period, day⟩ := s.sch.roll_says s.base.startJoining
    exact ⟨t, _, r, answered, base, sch.trans offered, rfl, rfl, rfl, reads, incarnation, flags, period, day⟩
  · refine (exec_joinTimerExpiry s).trans (s.atInstant_stopped _ _ ?_)
    split
    · exact stopped.resolve_left (Classical.not_not.mpr ‹_›)
    · rfl
  · intro v
    let u : Base := { v with station := .joined, joinTimer := none }.startRoll
    let e : Ev := ((Ev.of s.sch).on (Sched.offerRoll u)).askRetry false
    have offered := Sched.offerRoll_notice (v := u) (n := .station .joined .joined) (s := s.sch) rfl empty room
    have rests : e.Rests u := by
      have kept : e.s = { s.sch with txq := [compose u 31 (s.sch.roll u) none] } := by
        show s.sch.offerRoll u = _
        rw [Sched.offerRoll, Sched.offer_fresh rfl (by simp [empty]) (by simp [empty]), empty]
        rfl
      refine ⟨nofun, nofun, fun keep _ => Sched.noRetry_of_empty keep ?_, nofun⟩
      rw [kept]
      exact unplaced
    have sch : (s.countTo d).enterJoined.sch =
        { s.sch with txq := [compose u 31 (s.sch.roll u) none], notices := s.sch.notices ++ [.station .joined .joined] } := by
      refine (Ev.settle_finished rests rfl ?_).trans offered
      show ((s.sch.offerRoll u).notice _).Settled
      rw [offered]
      exact settled.of_bookings rfl rfl rfl
    obtain ⟨r, reads, -, flags, -⟩ := s.sch.roll_says u
    exact ⟨_, _, r, State.happened_at (exec_joinTimerExpiry s) high ((if_pos joining).trans timer)
      ((s.countTo d).beside_of _ _), rfl, sch, reads, flags⟩

/-! ## LEAVE and its timer -/

theorem exec_leave (s : State) : exec .leave s = s.request 3 State.leave := rfl

theorem Sched.pick_empty {s : Sched} (bookings : s.bookings = []) (p : Booking → Bool) : s.pick p = [] := by
  rw [Sched.pick, bookings]
  rfl

theorem Ev.endSeeking_empty {v : Base} {e : Ev} (seekQueue : e.s.seekQueue = []) : e.endSeeking v = e := by
  rw [Ev.endSeeking, seekQueue]
  rfl

/-- With no booking in the table the Broker's entry into LEAVING discards holds and lapsed records alone (R181). -/
theorem Ev.brokerLeaving_empty {v : Base} {e : Ev} (bookings : e.s.bookings = []) (seekQueue : e.s.seekQueue = []) :
    e.brokerLeaving v = e.on Sched.dropHolds := by
  have none (p : Booking → Bool) : (e.on Sched.dropHolds).s.pick p = [] := Sched.pick_empty (s := e.s.dropHolds) bookings p
  unfold Ev.brokerLeaving
  rw [Ev.endSeeking_empty seekQueue]
  dsimp only
  rw [none, List.foldl_nil, none, List.foldl_nil, none, List.foldl_nil]

theorem Sched.orphan_none {s : Sched} (cause : OrphanCause) (p : TallyRec → Bool) (none : s.tallies = []) :
    s.orphan cause p = s := by
  unfold Sched.orphan
  rw [none]
  exact congrArg (fun l => { s with tallies := l }) none.symm

theorem Ev.brokerDetached_empty {v : Base} {e : Ev} (bookings : e.s.bookings = []) (seekQueue : e.s.seekQueue = [])
    (tallies : e.s.tallies = []) : e.brokerDetached v = e.on fun s => { s.dropHolds with marks := [] } := by
  let e' : Ev := e.on fun s => { s.dropHolds with marks := [] }
  have dropped : (e'.on fun s => s.orphan .detached fun _ => true) = e' :=
    Ev.on_congr (g := id) (Sched.orphan_none (s := e'.s) _ _ tallies)
  unfold Ev.brokerDetached
  rw [Ev.endSeeking_empty seekQueue]
  dsimp only
  rw [dropped, Ev.lostBookings, Sched.pick_empty (s := e'.s) bookings]
  rfl

/-- Settles O42: with no booking in the table each entry has one effect, and its notice comes last. -/
theorem leaveAndItsTimer : Obligations.LeaveAndItsTimer := by
  refine ⟨fun s takes => ⟨fun other => takes.refused rfl (exec_leave s) (if_neg ?_),
    fun state bookings seekQueue empty bare settled room => ?_⟩,
    fun d s high => ⟨fun stopped => ?_, fun leaving timer bookings seekQueue tallies bare settled room => ?_⟩⟩
  · rcases other with e | e | e <;> simp [e]
  · let u : Base := s.base.startLeaving
    have offered := Sched.offerRoll_notice (v := u) (n := .station .leaving .leave) (s := s.sch.dropHolds) rfl empty room
    let g : Ev → Ev := fun e => ((e.brokerLeaving u).finish u).on fun x =>
      (x.offerRoll u).notice (.station .leaving .leave)
    have effect : s.sch.event u g =
        { s.sch.dropHolds with
          txq := [compose u 31 (s.sch.dropHolds.roll u) none], notices := s.sch.notices ++ [.station .leaving .leave] } := by
      show ((((Ev.of s.sch).brokerLeaving u).finish u).on _).settle u = _
      rw [Ev.brokerLeaving_empty (e := Ev.of s.sch) bookings seekQueue]
      refine (Ev.settle_finished (Ev.rests_quiet rfl rfl rfl) rfl ?_).trans offered
      show ((s.sch.dropHolds.offerRoll u).notice _).Settled
      rw [offered]
      exact settled.of_bookings rfl rfl rfl
    obtain ⟨t, answered, base, sch⟩ := takes.answers (t := { s with base := u }.event g) (l := []) rfl (exec_leave s)
      (by rw [State.leave, if_pos state]) ((s.beside_of _ _).trans (State.beside_event _ _))
    obtain ⟨r, reads, -, flags, -⟩ := s.sch.dropHolds.roll_says u
    have left := sch.trans ((State.event_sch g _).trans effect)
    exact ⟨t, _, r, answered, base, left, reads, flags⟩
  · refine (exec_leaveTimerExpiry s).trans (s.atInstant_stopped _ _ ?_)
    split
    · exact stopped.resolve_left (Classical.not_not.mpr ‹_›)
    · rfl
  · let u : Base := (s.countTo d).base.detach
    let n : Notice := .station .detached .leaveTimeout
    let x : Sched := { s.sch.emptyQueue.dropHolds with marks := [] }
    have told : x.notice n = { x with notices := s.sch.notices ++ [n] } :=
      Sched.notice_room n (by have := room.1; show s.sch.notices.length < 32; omega) room.2
    have sch : ((s.countTo d).goDetached .leaveTimeout).sch = { x with notices := s.sch.notices ++ [n] } := by
      show (((((Ev.of s.sch).enterDetached u)).finish u).on fun x => x.notice n).settle u = _
      rw [Ev.enterDetached, Ev.brokerDetached_empty (e := (Ev.of s.sch).on Sched.emptyQueue) bookings seekQueue
        (by simp [Ev.of, Sched.emptyQueue, tallies])]
      refine (Ev.settle_finished (Ev.rests_quiet rfl rfl rfl) rfl ?_).trans told
      show (x.notice n).Settled
      rw [told]
      exact settled.of_bookings rfl rfl rfl
    refine ⟨_, State.happened_at (exec_leaveTimerExpiry s) high ((if_pos leaving).trans timer)
      ((s.countTo d).beside_of _ _), ?_, sch.trans ?_⟩
    · show u = _
      rw [← s.countTo_cfg d]
      rfl
    · simp only [x, n, Sched.emptyQueue, Sched.dropHolds, tallies, List.map_nil]

end Sys2Proof.Machine
end

section
/-! What a booking that ends or is covered leaves behind, exactly, and the tally record of a hosted one. -/

namespace Sys2Proof.Machine

/-! ## Pairs of lists -/

theorem Two.mod_empty {α : Type} (k : Tuner) {f : List α → List α} (h : f [] = []) :
    (⟨[], []⟩ : Two (List α)).mod k f = ⟨[], []⟩ := by
  cases k <;> simp [Two.mod, Two.set, h]

theorem Two.mod_self {α : Type} {x : Two α} {k : Tuner} {f : α → α} (h : f (x.get k) = x.get k) : x.mod k f = x := by
  rw [Two.mod, h, Two.set_get]

/-! ## Leaving plans, lists and referrals -/

/-- The state without a booking's plan entry, captures, place in the unplaced list and referral. -/
def Sched.leaveLists (h : Nat) (s : Sched) : Sched :=
  { s.leaveCapture h with
    plans := s.plans.both (List.filter fun p => p.handle != h)
    unplaced := s.unplaced.filter fun x => x != h
    referrals := s.referrals.filter fun r => r.handle != h }

theorem Ev.leavePlanOf_plain {e : Ev} (stacked : e.s.stacked = ⟨[], []⟩) (h : Nat) (k : Tuner) :
    ∃ x, e.leavePlanOf h k =
      { e with s := { e.s with plans := e.s.plans.mod k (List.filter fun p => p.handle != h) }, exam := x } := by
  by_cases inside : ((e.s.plans.get k).any fun p => p.handle == h) = true
  · have causes (f : StackRec → StackRec) : (e.on fun s => { s with plans := s.plans.mod k (List.filter fun p => p.handle != h) }).on
        (fun s => { s with stacked := s.stacked.mod k (List.map f) }) =
        e.on fun s => { s with plans := s.plans.mod k (List.filter fun p => p.handle != h) } := by
      have same : e.s.stacked.mod k (List.map f) = e.s.stacked := by rw [stacked]; exact Two.mod_empty k rfl
      exact congrArg (fun l => e.on fun s => { s with plans := s.plans.mod k (List.filter fun p => p.handle != h), stacked := l }) same
    unfold Ev.leavePlanOf
    rw [if_pos inside]
    dsimp only
    split
    · exact ⟨e.exam, rfl⟩
    · rw [causes]
      split
      · exact ⟨_, rfl⟩
      · exact ⟨e.exam, rfl⟩
  · refine ⟨e.exam, ?_⟩
    have none : (e.s.plans.get k).filter (fun p => p.handle != h) = e.s.plans.get k := by
      rw [List.filter_eq_self]
      intro p hp
      have : ¬ (p.handle == h) = true := fun hit => inside (List.any_eq_true.mpr ⟨p, hp, hit⟩)
      simpa using this
    unfold Ev.leavePlanOf
    rw [if_neg inside]
    exact congrArg (fun l => { e with s := { e.s with plans := l } }) (Two.mod_self none).symm

theorem Ev.leavePlan_plain {e : Ev} (stacked : e.s.stacked = ⟨[], []⟩) (h : Nat) : ∃ x, e.leavePlan h =
    { e with s := { e.s with plans := e.s.plans.both (List.filter fun p => p.handle != h) }, exam := x } := by
  obtain ⟨x, first⟩ := e.leavePlanOf_plain stacked h .A
  obtain ⟨y, second⟩ := Ev.leavePlanOf_plain
    (e := { e with s := { e.s with plans := e.s.plans.mod .A (List.filter fun p => p.handle != h) }, exam := x }) stacked h .B
  exact ⟨y, (congrArg (fun e : Ev => e.leavePlanOf h .B) first).trans second⟩

/-- With the stacks empty a booking leaves all but its seek. -/
theorem Ev.leaveAll_lists {e : Ev} (stacked : e.s.stacked = ⟨[], []⟩) (v : Base) (h : Nat) :
    ∃ x, e.leaveAll v h = { e with s := e.s.leaveLists h, exam := x }.abandon v h := by
  obtain ⟨x, planned⟩ := Ev.leavePlan_plain (e := e.on fun s => s.leaveCapture h) stacked h
  refine ⟨x, ?_⟩
  unfold Ev.leaveAll
  rw [planned]
  exact congrArg (Ev.abandon v h) (Ev.leaveStack_empty (e := { e with s := e.s.leaveLists h, exam := x }) h stacked)

theorem Ev.abandon_idle {e : Ev} (idle : e.s.engine = .idle) (v : Base) (h : Nat) :
    e.abandon v h = e.on fun s => s.leaveSeek h := by
  unfold Ev.abandon Ev.abandonEngine
  rw [idle]
  rfl

/-- With the engine IDLE too. -/
theorem Ev.leaveAll_idle {e : Ev} (stacked : e.s.stacked = ⟨[], []⟩) (idle : e.s.engine = .idle) (v : Base) (h : Nat) :
    ∃ x, e.leaveAll v h = { e with s := (e.s.leaveLists h).leaveSeek h, exam := x } := by
  obtain ⟨x, left⟩ := e.leaveAll_lists stacked v h
  exact ⟨x, left.trans (Ev.abandon_idle (e := { e with s := e.s.leaveLists h, exam := x }) idle v h)⟩

/-! ## The rest of an end -/

theorem Sched.episodeOutcome_eq (b : Booking) (o : BOutcome × Reason) (s : Sched) :
    ∃ l, s.episodeOutcome b o = { s with links := l } := by
  unfold Sched.episodeOutcome
  split
  · exact ⟨_, rfl⟩
  · exact ⟨s.links, rfl⟩

theorem Sched.offerOutcome_eq (h : Nat) (s : Sched) :
    ∃ n p l, s.offerOutcome h = { s with notices := n, pendingOutcomes := p, bookings := l } := by
  unfold Sched.offerOutcome
  split
  · exact ⟨s.notices, s.pendingOutcomes, s.bookings, rfl⟩
  · split
    · exact ⟨_, s.pendingOutcomes, _, rfl⟩
    · exact ⟨s.notices, _, s.bookings, rfl⟩

theorem Sched.Tallied.congr {v : Base} {s s' t t' : Sched} {time : Nat} {o : BOutcome × Reason} {b : Booking}
    (tallied : s.Tallied v t time o b) (before : s'.txq = s.txq ∧ s'.tallies = s.tallies ∧ s'.tallyCtr = s.tallyCtr)
    (after : t'.txq = t.txq ∧ t'.tallies = t.tallies) : s'.Tallied v t' time o b := by
  unfold Sched.Tallied at tallied ⊢
  obtain ⟨txq, tallies, ctr⟩ := before
  rw [txq, tallies, ctr, after.1, after.2]
  exact tallied

/-- A tally record that is new may go when its origin is PRESENT, the station JOINED or LEAVING, and the queue has room. -/
theorem TallyRec.goes_iff {v : Base} {s : Sched} {r : TallyRec} (new : r.offered = false) :
    (r.mayGo v && taken v (r.msg v) s) = true ↔
      v.isPresent r.id.origin = true ∧ (v.station = .joined ∨ v.station = .leaving) ∧ s.txq.length < 12 := by
  rw [Bool.and_eq_true, taken_plain (r.msg_plain v)]
  simp only [TallyRec.mayGo, new, Bool.not_false, Bool.true_and, Bool.and_eq_true, Bool.or_eq_true, beq_iff_eq]
  constructor
  · rintro ⟨⟨present, station⟩, -, room⟩
    exact ⟨present, station, room⟩
  · rintro ⟨present, station, room⟩
    refine ⟨⟨present, station⟩, ?_, room⟩
    rcases station with e | e <;> rw [e] <;> rfl

/-- The record of a hosted booking joins the tallies, and its TALLY the queue where it may go at once (R172). -/
theorem Sched.addTally_tallied {v : Base} {s : Sched} (room : s.tallies.length < 8) (time : Nat) (o : BOutcome × Reason)
    (b : Booking) : s.Tallied v (s.addTally v (b.closedAt time) o) time o b := by
  have goes := TallyRec.goes_iff (v := v) (s := s) (r := (b.closedAt time).tallyRec o s.tallyCtr) rfl
  unfold Sched.Tallied Sched.addTally
  rw [Sched.aside_tallyRoom room]
  dsimp only
  unfold offerTally
  split
  · rename_i may
    obtain ⟨present, station, few⟩ := may
    rw [if_pos (goes.mpr ⟨present, station, few⟩)]
    have admits : v.station.admits (((b.closedAt time).tallyRec o s.tallyCtr).msg v) = true := by
      rcases station with e | e <;> rw [e] <;> rfl
    rw [Sched.offer_plain (TallyRec.msg_plain v _), if_pos ⟨admits, few⟩]
    exact ⟨rfl, rfl⟩
  · rename_i may
    rw [if_neg (mt goes.mp may)]
    exact ⟨rfl, rfl⟩

theorem Sched.addTally_eq {v : Base} {s : Sched} (room : s.tallies.length < 8) (b : Booking) (o : BOutcome × Reason) :
    ∃ q l n, s.addTally v b o = { s with txq := q, tallies := l, tallyCtr := n } := by
  unfold Sched.addTally
  rw [Sched.aside_tallyRoom room]
  dsimp only
  unfold offerTally
  split
  · rw [Sched.offer_plain (TallyRec.msg_plain v _)]
    split
    · exact ⟨_, _, _, rfl⟩
    · exact ⟨s.txq, _, _, rfl⟩
  · exact ⟨s.txq, _, _, rfl⟩

/-! ## An end where nothing else waits -/

theorem Ev.closeSeg_leaveAll_atRest {e : Ev} (rest : e.s.AtRest) (v : Base) (h time : Nat) :
    ∃ x, (e.on fun s => s.closeSeg h time).leaveAll v h =
      { e with s := ((e.s.closeSeg h time).leaveLists h).leaveSeek h, exam := x } :=
  Ev.leaveAll_idle (e := e.on fun s => s.closeSeg h time) rest.2.1 rest.2.2.2 v h

/-- Nothing then waits after the end either, and a hosted booking is tallied. -/
theorem Ev.endAt_atRest {e : Ev} {h : Nat} {b : Booking} (v : Base) (time : Nat) (o : Booking → BOutcome × Reason)
    (rest : e.s.AtRest) (found : e.s.bk h = some b) (alive : b.state ≠ .ended)
    (room : b.hosted = true → e.s.tallies.length < 8) :
    (e.endAt v h time true o).s.AtRest ∧ (e.endAt v h time true o).late = e.late ∧
      (b.hosted = true → e.s.Tallied v (e.endAt v h time true o).s time (o (b.closedAt time)) b) := by
  rw [Ev.endAt_eq v time true o found alive]
  obtain ⟨x, left⟩ := Ev.closeSeg_leaveAll_atRest rest v h time
  obtain ⟨unplaced, stacked, seekQueue, idle⟩ := rest
  have atRest : ((e.s.closeSeg h time).leaveLists h).leaveSeek h |>.AtRest :=
    ⟨congrArg (List.filter _) unplaced, stacked, congrArg (List.filter _) seekQueue, idle⟩
  unfold Ev.recorded
  rw [left]
  dsimp only [Ev.on]
  obtain ⟨l, links⟩ := Sched.episodeOutcome_eq b (o (b.closedAt time))
    (((((e.s.closeSeg h time).leaveLists h).leaveSeek h).modB h (Booking.ended (o (b.closedAt time)))).disarm h)
  rw [links]
  split
  · rename_i hosted
    have few : e.s.tallies.length < 8 := room (Bool.and_eq_true _ _ ▸ hosted).1
    have tallied := Sched.addTally_tallied (v := v) (s := { (((((e.s.closeSeg h time).leaveLists h).leaveSeek h).modB h
      (Booking.ended (o (b.closedAt time)))).disarm h) with links := l }) few time (o (b.closedAt time)) b
    obtain ⟨q, t, n, added⟩ := Sched.addTally_eq (v := v) (s := { (((((e.s.closeSeg h time).leaveLists h).leaveSeek h).modB h
      (Booking.ended (o (b.closedAt time)))).disarm h) with links := l }) few (b.closedAt time) (o (b.closedAt time))
    rw [added] at tallied ⊢
    obtain ⟨notices, pending, bookings, offered⟩ := Sched.offerOutcome_eq h _
    rw [offered]
    exact ⟨atRest, rfl, fun _ => tallied.congr ⟨rfl, rfl, rfl⟩ ⟨rfl, rfl⟩⟩
  · rename_i own
    obtain ⟨notices, pending, bookings, offered⟩ := Sched.offerOutcome_eq h _
    rw [offered]
    exact ⟨atRest, rfl, fun hosted => absurd (by rw [hosted]; rfl) own⟩

end Sys2Proof.Machine
end

section
/-! STOP and OVERRUN, WITHDRAW, and the ends of holds and of marks heard. -/

namespace Sys2Proof.Machine

/-! ## Events where nothing waits -/

theorem Sched.reviseAll_eq (v : Base) (s : Sched) : ∃ t, s.reviseAll v = { s with tuners := t } := by
  have one (s : Sched) (k : Tuner) : ∃ t, s.revise v k = { s with tuners := t } := by
    unfold Sched.revise
    split
    · exact ⟨_, rfl⟩
    · exact ⟨s.tuners, rfl⟩
  obtain ⟨t, first⟩ := one s .A
  obtain ⟨u, second⟩ := one { s with tuners := t } .B
  exact ⟨u, (congrArg (fun s : Sched => s.revise v .B) first).trans second⟩

theorem Ev.settle_atRest {v : Base} {e : Ev} (rest : e.s.AtRest) (late : e.late = []) : e.settle v = e.s.reviseAll v := by
  obtain ⟨unplaced, stacked, seekQueue, -⟩ := rest
  exact Ev.settle_rests (Ev.rests_of_empty unplaced stacked (Sched.noLook_of_empty seekQueue)) late

/-- A whole event tallies what its own effects do. -/
theorem Ev.settle_tallied {v : Base} {e : Ev} {s : Sched} {time : Nat} {o : BOutcome × Reason} {b : Booking}
    (rest : e.s.AtRest) (late : e.late = []) (tallied : s.Tallied v e.s time o b) : s.Tallied v (e.settle v) time o b := by
  obtain ⟨t, revised⟩ := e.s.reviseAll_eq v
  rw [Ev.settle_atRest rest late, revised]
  exact tallied.congr ⟨rfl, rfl, rfl⟩ ⟨rfl, rfl⟩

/-! ## STOP and OVERRUN -/

/-- The outcome of a closing trigger, from the record whose segment is still open (R36, R37). -/
theorem Booking.closing_closedAt (r : Option PushReason) (time : Nat) (b : Booking) :
    (b.closedAt time).closing r =
      match b.state with
      | .covered => (.covered, .none)
      | .lent => (.unknown, if b.peerLost then .peerLost else .none)
      | .preparing => if b.segs = [] then (.missed, .signal) else (.partly, .signal)
      | .recording | .paused => (b.closedAt time).bySegs .none .none
      | .suspended => (b.closedAt time).bySegs (suspendedReason r) (suspendedReason r)
      | _ => if b.segs = [] then (.missed, .noTuner) else (.partly, .displaced) := by
  have none : (b.closedAt time).segs.isEmpty = true ↔ b.segs = [] := by
    simp [Booking.closedAt, closeOpen]
  have state : (b.closedAt time).state = b.state := rfl
  have lost : (b.closedAt time).peerLost = b.peerLost := rfl
  unfold Booking.closing
  rw [state, lost]
  cases b.state <;> simp only [none]

/-- STOP is set aside by a running field RUNNING or PAUSED, but not in COVERED (R36). -/
theorem Ev.fireStop_closes {v : Base} {e : Ev} {h : Nat} {b : Booking} (found : e.s.bk h = some b)
    (closes : ¬(b.follow = true ∧ (b.running = some .running ∨ b.running = some .paused)) ∨ b.state = .covered) :
    e.fireStop v h = e.closeBooking v h := by
  have no : (b.follow && b.keepsRunning && b.state != .covered) = false := by
    rw [Bool.eq_false_iff, Ne, Bool.and_eq_true, Bool.and_eq_true, Booking.keepsRunning_iff, bne_iff_ne]
    rintro ⟨goes, apart⟩
    exact closes.elim (· goes) apart
  simp only [Ev.fireStop, found, no, Bool.false_eq_true, if_false]

theorem Ev.fireStop_aside {v : Base} {e : Ev} {h : Nat} {b : Booking} (found : e.s.bk h = some b)
    (goes : b.follow = true ∧ (b.running = some .running ∨ b.running = some .paused)) (apart : b.state ≠ .covered) :
    e.fireStop v h = e.arm v h := by
  have yes : (b.follow && b.keepsRunning && b.state != .covered) = true := by
    rw [Bool.and_eq_true, Bool.and_eq_true, Booking.keepsRunning_iff, bne_iff_ne]
    exact ⟨goes, apart⟩
  simp only [Ev.fireStop, found, yes, if_true]

/-- Settles O39: both close the booking, but for a STOP that is set aside, which re-arms it. -/
theorem stopAndOverrunEndTheBooking : Obligations.StopAndOverrunEndTheBooking := by
  intro i kind h d b s high which armed found alive room v goesOn c suspended o
  have command : i = kind.command h := by
    rcases which with ⟨rfl, rfl⟩ | ⟨rfl, rfl⟩ <;> rfl
  subst command
  have due : State.armedAt h kind s = some (d * unit) := by simp [State.armedAt, armed]
  obtain ⟨t, happened, base, sch⟩ := State.happened_event (exec_trigger h kind s) high due
  have outcome : (b.closedAt v.clock).closing (s.sch.pushReason h) = o := b.closing_closedAt _ v.clock
  constructor
  · intro closes
    have fires : (Ev.of s.sch).fire v h kind = (Ev.of s.sch).closeBooking v h := by
      rcases which with ⟨-, rfl⟩ | ⟨-, rfl⟩
      · exact Ev.fireStop_closes found (closes.resolve_left nofun)
      · rfl
    have few : b.hosted = true → s.sch.tallies.length < 8 := fun hosted => room (b.hosted_iff.mp hosted)
    have reported : s.sch.Reported ((Ev.of s.sch).closeBooking v h).s h (b.endedNotice v.clock o) :=
      outcome ▸ Ev.endNow_reported (e := Ev.of s.sch) v _ found alive few
    refine ⟨t, happened, base, ?_, ?_, fun hosted rest => ?_⟩
    · rw [sch]
      exact s.sch.event_evolves fun e => e.evolves_fire v h kind
    · rw [sch]
      exact Sched.event_reported (fires ▸ reported)
    · obtain ⟨after, late, tallied⟩ := Ev.endAt_atRest (e := Ev.of s.sch) v v.clock
        (Booking.closing (s.sch.pushReason h)) rest found alive few
      rw [sch]
      show s.sch.Tallied v (((Ev.of s.sch).fire v h kind).settle v) v.clock o b
      rw [fires, ← outcome]
      exact Ev.settle_tallied after late (tallied (b.hosted_iff.mpr hosted))
  · rintro rfl goes apart settled kind' d' next ahead
    have fires : (Ev.of s.sch).fire v h .stop = (Ev.of s.sch).on fun s => { s with triggers := armedWith h kind' d' s.triggers } :=
      (Ev.fireStop_aside found goes apart).trans (Ev.arm_ahead found next ahead)
    refine ⟨t, happened, base, ?_⟩
    rw [sch]
    show ((Ev.of s.sch).fire v h .stop).settle v = _
    rw [fires]
    exact Ev.settle_settled (Ev.rests_quiet rfl rfl rfl) rfl (settled.of_bookings rfl rfl rfl)

end Sys2Proof.Machine
end

section
/-! Events of the wire that are heard: WITHDRAW, with the ends of holds and of marks heard. -/

namespace Sys2Proof.Machine

/-! ## A frame that is heard and is an event -/

/-- A frame that a station hears, addressed to it, admitted and resolved, is an event of its own. -/
theorem State.Hears.event {i : Instr} {s : State} {h : FrameHead} {c : State → FrameCheck} {f : State → Ev → Ev} {x : Sched}
    (hears : s.Hears h) (run : exec i s = s.happens fun s => s.receive h (c s) fun s => s.event (f s))
    (good : (c s).good = true) (addressed : (c s).addressed = true) (resolves : (c s).resolves = true)
    (effect : s.sch.event s.base.heard (f { s with base := s.base.heard }) = x) :
    exec i s = .next { s with base := s.base.heard, sch := x } := by
  rw [run, State.happens_high _ _ hears.1, State.receive_heard _ hears good addressed resolves, ← effect]
  rfl

/-- One that moves the scheduling state alone. -/
theorem State.Hears.onSched {i : Instr} {s : State} {h : FrameHead} {c : State → FrameCheck} {f : State → State}
    (hears : s.Hears h) (run : exec i s = s.happens fun s => s.receive h (c s) f)
    (good : (c s).good = true) (addressed : (c s).addressed = true) (resolves : (c s).resolves = true) :
    exec i s = .next (f { s with base := s.base.heard }) := by
  rw [run, State.happens_high _ _ hears.1, State.receive_heard _ hears good addressed resolves]

/-- What happens on a frame that is heard. -/
theorem State.Hears.happened {i : Instr} {s : State} {x : Sched} (run : exec i s = .next { s with base := s.base.heard, sch := x }) :
    Happened i s { s with base := s.base.heard, sch := x } := .of run (s.beside_of _ _)

/-! ## WITHDRAW -/

theorem Booking.hosts_iff (j : BookingId) (b : Booking) :
    Booking.hosts j b = true ↔ b.cls = .hosted ∧ b.id = j ∧ b.state ≠ .ended := by
  simp [Booking.hosts, Booking.hosted, and_assoc]

/-- The state without what the station keeps for a booking id of another. -/
def Sched.forget (j : BookingId) (s : Sched) : Sched :=
  { s with holds := s.holds.filter fun x => x.id != j, lapsed := s.lapsed.filter fun x => x.id != j }

theorem Ev.withdrawn_none {v : Base} {j : BookingId} {e : Ev} (none : ∀ b ∈ e.s.bookings, Booking.hosts j b = false) :
    e.withdrawn v j = e.on (Sched.forget j) := by
  have nobody : e.s.bookings.find? (Booking.hosts j) = .none := by simpa [List.find?_eq_none] using none
  unfold Ev.withdrawn
  rw [nobody]
  rfl

theorem Ev.withdrawn_one {v : Base} {j : BookingId} {e : Ev} {b : Booking} (one : e.s.bookings.filter (Booking.hosts j) = [b]) :
    e.withdrawn v j = (e.endNow v b.handle fun _ => (.cancelled, .cancelled)).on (Sched.forget j) := by
  have found : e.s.bookings.find? (Booking.hosts j) = some b := by rw [← List.head?_filter, one]; rfl
  unfold Ev.withdrawn
  rw [found]
  rfl

theorem withdrawArrival_ends (h : FrameHead) (j : BookingId) (a : Nat) (s : State) (hears : s.Hears h)
    (admitted : withdrawAdmitted h j a = true) (addressed : a = s.base.cfg.station) (settled : s.sch.Settled) :
    ((∀ b ∈ s.sch.bookings, b.cls ≠ .hosted ∨ b.id ≠ j ∨ b.state = .ended) →
      exec (.withdrawArrival h j a) s = .next
        { s with
          base := s.base.heard
          sch :=
            { s.sch with
              holds := s.sch.holds.filter fun x => x.id != j
              lapsed := s.sch.lapsed.filter fun x => x.id != j } }) ∧
    ∀ b, s.sch.bookings.filter (Booking.hosts j) = [b] → s.sch.bk b.handle = some b → s.sch.tallies.length < 8 →
      ∃ t, Happened (.withdrawArrival h j a) s t ∧ t.base = s.base.heard ∧ s.sch.Evolves t.sch ∧
        s.sch.Reported t.sch b.handle (b.endedNotice s.base.clock (.cancelled, .cancelled)) ∧
        (s.sch.AtRest → Sched.Tallied s.base s.sch t.sch s.base.clock (.cancelled, .cancelled) b) := by
  have run {x : Sched} := hears.event (x := x) (exec_withdrawArrival h j a s) admitted (beq_iff_eq.mpr addressed) rfl
  constructor
  · intro nobody
    have none : ∀ b ∈ s.sch.bookings, Booking.hosts j b = false := fun b hb => by
      rw [Bool.eq_false_iff, Ne, Booking.hosts_iff]
      rintro ⟨cls, id, alive⟩
      rcases nobody b hb with e | e | e
      · exact e cls
      · exact e id
      · exact alive e
    refine run ?_
    rw [Sched.event, Ev.withdrawn_none (e := Ev.of s.sch) none]
    exact Ev.settle_settled (Ev.rests_quiet rfl rfl rfl) rfl (settled.of_bookings rfl rfl rfl)
  · intro b one found few
    have hosts := (Booking.hosts_iff j b).mp
      (List.mem_filter.mp (one ▸ List.mem_singleton_self b : b ∈ s.sch.bookings.filter _)).2
    obtain ⟨hosted, -, alive⟩ := hosts
    have effect := Ev.withdrawn_one (v := s.base.heard) (e := Ev.of s.sch) one
    refine ⟨_, State.Hears.happened (run rfl), rfl, ?_, ?_, fun rest => ?_⟩
    · exact s.sch.event_evolves fun e => e.evolves_withdrawn s.base.heard j
    · refine Sched.event_reported ?_
      rw [effect]
      exact Ev.endNow_reported (e := Ev.of s.sch) s.base.heard (fun _ => (.cancelled, .cancelled)) found alive fun _ => few
    · obtain ⟨after, late, tallied⟩ := Ev.endAt_atRest (e := Ev.of s.sch) s.base.heard s.base.heard.clock
        (fun _ => (.cancelled, .cancelled)) rest found alive fun _ => few
      show s.sch.Tallied s.base ((Ev.withdrawn s.base.heard j (Ev.of s.sch)).settle s.base.heard) _ _ b
      rw [effect]
      have own := (tallied (b.hosted_iff.mpr hosted)).congr (s' := s.sch)
        (t' := (((Ev.of s.sch).endNow s.base.heard b.handle fun _ => (.cancelled, .cancelled)).on (Sched.forget j)).s)
        ⟨rfl, rfl, rfl⟩ ⟨rfl, rfl⟩
      exact Ev.settle_tallied (e := ((Ev.of s.sch).endNow s.base.heard b.handle fun _ => (.cancelled, .cancelled)).on
        (Sched.forget j)) after late own

/-! ## Holds, lapsed records and marks heard -/

theorem Sched.lapse_one {s : Sched} {x : Hold} (holds : s.holds = [x]) :
    s.lapse x.id = { s with holds := [], lapsed := (s.lapsed ++ [x]).drop (s.lapsed.length + 1 - 4) } := by
  simp [Sched.lapse, holds, lastN]

/-- Settles O58: WITHDRAW as above, and the three events of the household's own lists. -/
theorem hostedBookingsHoldsAndMarksEnd : Obligations.HostedBookingsHoldsAndMarksEnd := by
  refine ⟨withdrawArrival_ends, fun s high => ⟨fun x holds => ?_, fun x lapsed => ?_, fun m marks => ?_⟩⟩
  · obtain ⟨t, happened, base, sch⟩ := State.happened_onSched (u := x.expiry) (exec_holdExpiry x.id s) high (by simp [holds])
    exact ⟨t, happened, base, sch.trans (Sched.lapse_one holds)⟩
  · obtain ⟨t, happened, base, sch⟩ := State.happened_onSched (u := x.prepareAt s.base) (exec_lapsedRecordDiscard x.id s) high
      (by simp [lapsed])
    rw [x.prepareAt_eq] at base
    exact ⟨t, happened, base, sch.trans (by simp [lapsed])⟩
  · obtain ⟨t, happened, base, sch⟩ := State.happened_onSched (u := (m.start + 86400) * unit)
      (exec_marksHeardExpiry m.series m.episode m.station s) high (by simp [marks, MarkHeard.isFor])
    exact ⟨t, happened, base, sch.trans (by simp [marks, MarkHeard.isFor])⟩

end Sys2Proof.Machine
end

section
/-! RETURN and TALLY at the origin. -/

namespace Sys2Proof.Machine

/-! ## A booking that nothing takes -/

/-- The directives still stand where one record has changed and tunes as it did. -/
theorem Sched.Settled.of_one {s t : Sched} {h : Nat} {b c : Booking} (settled : s.Settled) (tuners : t.tuners = s.tuners)
    (plans : t.plans = s.plans) (found : s.bk h = some b) (found' : t.bk h = some c)
    (others : ∀ g, g ≠ h → t.bk g = s.bk g) (same : c.tuneKey = b.tuneKey) : t.Settled :=
  settled.of_records tuners plans fun g => by
    by_cases e : g = h
    · subst e
      rw [found, found', Option.map_some, Option.map_some, same]
    · rw [others g e]

/-- Placing a booking where no tuner is usable, it may not seek and nothing else waits leaves it unplaced (R95). -/
theorem Ev.place_unplaced {v : Base} {o : Open} {b : Booking} {e : Ev} {k : TrigKind} {u : Nat}
    (found : e.s.bk b.handle = some b) (own : b.hosted = false) (alive : b.state ≠ .ended) (none' : ∀ k, e.s.usable k = false)
    (seek : (o.seek && v.maySeek b && decide (b.attempts < v.cfg.seekLimit)) = false) (rest : o.rest = true)
    (stacked : e.s.stacked = ⟨[], []⟩) (unplaced : e.s.unplaced = []) (room : e.s.notices.length < 32)
    (pending : e.s.pendingOutcomes = []) (armed : (b.inState .waiting .absent).armed v = some (k, u)) (ahead : v.clock < u)
    (tells : (o.fresh || b.state != .waiting) = true) :
    e.place v o b.handle = e.on fun s =>
      { s.modB b.handle (Booking.inState .waiting .absent) with
        unplaced := [b.handle]
        triggers := armedWith b.handle k u s.triggers
        notices := s.notices ++ [b.unplacedNotice (e.s.lastStep v o b)] } := by
  rw [Ev.place_afterThree found (Sched.choose_unusable none' _ _ _ _ _),
    Ev.afterThree_unplaced own seek (fun _ => Sched.referral_unusable none' _ _ _) rest,
    Ev.leaveUnplaced_alone found alive stacked unplaced room pending armed ahead tells]

/-! ## What a frame of a peer carries -/

theorem Base.heard_resolveDay (v : Base) (n tag : Nat) : v.heard.resolveDay n tag = v.resolveDay n tag := rfl

/-- A frame whose base day tag resolves is an event by that day. -/
theorem State.Hears.dated {i : Instr} {s : State} {h : FrameHead} {c : State → FrameCheck} {f : Base → Nat → Ev → Ev} {x : Sched}
    {tag day : Nat} (hears : s.Hears h)
    (run : exec i s = s.happens fun s => s.receive h (c s) fun s =>
      s.event (f s.base ((s.base.resolveDay h.sender tag).getD 0)))
    (good : (c s).good = true) (addressed : (c s).addressed = true)
    (resolves : (c s).resolves = (s.base.resolveDay h.sender tag).isSome) (dated : s.base.resolveDay h.sender tag = some day)
    (effect : s.sch.event s.base.heard (f s.base.heard day) = x) :
    exec i s = .next { s with base := s.base.heard, sch := x } := by
  refine hears.event run good addressed (by rw [resolves, dated]; rfl) ?_
  show s.sch.event s.base.heard (f s.base.heard ((s.base.heard.resolveDay h.sender tag).getD 0)) = x
  rw [Base.heard_resolveDay, dated]
  exact effect

theorem BOutcome.ofCode_code (o : BOutcome) : BOutcome.ofCode o.code = o := by cases o <;> rfl

theorem Reason.ofCode_code (r : Reason) : Reason.ofCode r.code = r := by cases r <;> rfl

theorem longForm_eq {day : Nat} (later : 1 ≤ day) (m : Nat) : longForm day m = (day - 1) * 86400 + 60 * m := by
  unfold longForm
  omega

theorem peerSegments_eq {day : Nat} (later : 1 ≤ day) (sender : Nat) (l : List (Nat × Nat)) : peerSegments sender day l =
    l.map fun p => ⟨sender, none, (day - 1) * 86400 + 60 * p.1, some ((day - 1) * 86400 + 60 * p.2)⟩ := by
  simp only [peerSegments, longForm_eq later]

/-- A booking of a booking id that is LENT to a station. -/
theorem Sched.lentWith_some {s : Sched} {j : BookingId} {n : Nat} {b : Booking} (h : s.lentWith j n = some b) :
    b.id = j ∧ b.state = .lent ∧ b.plan = .lent n := by
  have := List.find?_some h
  simpa [Booking.isLentTo] using this

theorem Sched.lentWith_none {s : Sched} {j : BookingId} {n : Nat}
    (h : ∀ b ∈ s.bookings, b.id = j → b.state ≠ .lent ∨ b.plan ≠ .lent n) : s.lentWith j n = none := by
  refine List.find?_eq_none.mpr fun b hb hit => ?_
  simp only [Booking.isLentTo, Bool.and_eq_true, beq_iff_eq] at hit
  obtain ⟨id, lent, plan⟩ := hit
  exact (h b hb id).elim (· lent) (· plan)

/-! ## Segments of a peer -/

/-- A booking with a peer's segments in its list (R120). -/
def Booking.withSegments (l : List Segment) (b : Booking) : Booking := { b with segs := (b.segs ++ l).take 4 }

theorem Sched.bk_appendSegments {s : Sched} {h : Nat} {b : Booking} (found : s.bk h = some b) (alive : b.state ≠ .ended)
    (l : List Segment) : (s.appendSegments h l).bk h = some (b.withSegments l) :=
  Sched.bk_modB_self (Booking.withSegments l) (fun _ => rfl) found alive

/-- An end that follows them reports the record with them. -/
theorem Ev.appended_reported {e : Ev} {b : Booking} (v : Base) (l : List Segment) (o : Booking → BOutcome × Reason)
    (found : e.s.bk b.handle = some b) (alive : b.state ≠ .ended) (own : b.cls ≠ .hosted) :
    e.s.Reported ((e.on (Sched.appendSegments b.handle l)).endNow v b.handle o).s b.handle
      ((b.withSegments l).endedNotice v.clock (o ((b.withSegments l).closedAt v.clock))) := by
  refine (Ev.endNow_reported (e := e.on (Sched.appendSegments b.handle l)) v o (Sched.bk_appendSegments found alive l) alive
    fun hosted => ?_).congr (s := (e.s.appendSegments b.handle l)) rfl rfl
  exact absurd (Booking.hosted_iff _ |>.mp hosted) own

/-! ## RETURN -/

/-- A booking that has come home: WAITING with its attempts 0. -/
def Booking.home (b : Booking) : Booking := { b.inState .waiting .absent with attempts := 0 }

theorem Ev.comeHome_eq (v : Base) (h : Nat) (e : Ev) :
    e.comeHome v h = (e.on fun s => s.modB h Booking.home).place v Open.new h := rfl

theorem Ev.returned_full {v : Base} {sender day : Nat} {f : ReturnFields} {e : Ev} {b : Booking}
    (lent : e.s.lentWith f.id sender = some b) (full : 4 < b.segs.length + f.segments.length) :
    e.returned v sender day f =
      (e.on (Sched.appendSegments b.handle (peerSegments sender day f.segments))).endNow v b.handle
        fun _ => (.partly, .segments) := by
  unfold Ev.returned
  rw [lent]
  exact if_pos full

theorem Ev.returned_home {v : Base} {sender day : Nat} {f : ReturnFields} {e : Ev} {b : Booking}
    (lent : e.s.lentWith f.id sender = some b) (fits : b.segs.length + f.segments.length ≤ 4) :
    e.returned v sender day f =
      (e.on (Sched.appendSegments b.handle (peerSegments sender day f.segments))).comeHome v b.handle := by
  unfold Ev.returned
  rw [lent]
  exact if_neg (Nat.not_lt.mpr fits)

/-- A returned booking that no tuner takes and that may not seek is left unplaced. -/
theorem Ev.returned_unplaced {v : Base} {sender day : Nat} {f : ReturnFields} {e : Ev} {b : Booking} {k : TrigKind} {u : Nat}
    (lent : e.s.lentWith f.id sender = some b) (found : e.s.bk b.handle = some b) (own : b.cls ≠ .hosted)
    (fits : b.segs.length + f.segments.length ≤ 4) (bare : e.s.Bare) (none' : ∀ k, e.s.usable k = false) (room : e.s.Room 1)
    (limit : 1 ≤ v.cfg.seekLimit)
    (seek : v.maySeek (b.withSegments (peerSegments sender day f.segments)).home = false)
    (armed : (b.withSegments (peerSegments sender day f.segments)).home.armed v = some (k, u)) (ahead : v.clock < u) :
    e.returned v sender day f = e.on fun s =>
      { ((s.modB b.handle (Booking.withSegments (peerSegments sender day f.segments))).modB b.handle Booking.home).modB
          b.handle (Booking.inState .waiting .absent) with
        unplaced := [b.handle]
        triggers := armedWith b.handle k u s.triggers
        notices := s.notices ++ [b.unplacedNotice .noTuner] } := by
  obtain ⟨-, state, -⟩ := Sched.lentWith_some lent
  let c := (b.withSegments (peerSegments sender day f.segments)).home
  let e' := (e.on (Sched.appendSegments b.handle (peerSegments sender day f.segments))).on fun s => s.modB b.handle Booking.home
  have home : e'.s.bk b.handle = some c := Sched.bk_modB_self Booking.home (fun _ => rfl)
    (Sched.bk_appendSegments found (by simp [state]) _) (by simp [state, Booking.withSegments])
  have last : e'.s.lastStep v Open.new c = .noTuner := by
    have low : ¬ v.cfg.seekLimit ≤ c.attempts := Nat.not_le.mpr limit
    unfold Sched.lastStep
    rw [if_neg (by simp [Open.new]), if_neg low, seek]
    exact if_neg (by simp)
  rw [Ev.returned_home lent fits, Ev.comeHome_eq]
  refine (Ev.place_unplaced (e := e') (b := c) (o := Open.new) home (Booking.not_hosted own) nofun none' (by simp [c, seek]) rfl
    bare.2.1 bare.2.2 (by have := room.1; show e.s.notices.length < 32; omega) room.2 armed ahead rfl).trans ?_
  rw [last]
  rfl

theorem returnArrival_returns (h : FrameHead) (f : ReturnFields) (day : Nat) (b : Booking) (k : TrigKind) (u : Nat) (s : State)
    (hears : s.Hears h) (admitted : returnAdmitted h f = true) (origin : f.id.origin = s.base.cfg.station)
    (settled : s.sch.Settled) (tag : s.base.resolveDay h.sender f.tag = some day)
    (lent : s.sch.lentWith f.id h.sender = some b) (found : s.sch.bk b.handle = some b) (own : b.cls ≠ .hosted)
    (later : 1 ≤ day) :
    let v := s.base.heard
    let base := (day - 1) * 86400
    let new := f.segments.map fun p => (⟨h.sender, none, base + 60 * p.1, some (base + 60 * p.2)⟩ : Segment)
    (b.segs.length + f.segments.length ≤ 4 → s.sch.Bare → s.sch.usable .A = false → s.sch.usable .B = false →
      s.sch.Room 1 → 1 ≤ s.base.cfg.seekLimit →
      let c := { b with
        segs := b.segs ++ new, state := .waiting, plan := .absent, confirm := none, peerLost := false, attempts := 0 }
      v.maySeek c = false → c.armed v = some (k, u) → v.clock < u →
      ∃ t, Happened (.returnArrival h f) s t ∧ t.base = v ∧ t.sch.bk b.handle = some c ∧
        (∀ g, g ≠ b.handle → t.sch.bk g = s.sch.bk g) ∧
        t.sch =
          { s.sch with
            bookings := t.sch.bookings
            unplaced := [b.handle]
            triggers := insertTrigger ⟨b.handle, k, u⟩ (s.sch.triggers.filter fun y => y.handle != b.handle)
            notices := s.sch.notices ++
              [.unplaced b.handle b.id b.cls b.service b.start b.finish .noTuner] }) ∧
    (4 < b.segs.length + f.segments.length →
      ∃ t, Happened (.returnArrival h f) s t ∧ t.base = v ∧ s.sch.Evolves t.sch ∧
        s.sch.Reported t.sch b.handle
          ({ b with segs := (b.segs ++ new).take 4 }.endedNotice s.base.clock (.partly, .segments))) := by
  intro v base new
  have run {x : Sched} := hears.dated (f := fun v day => Ev.returned v h.sender day f) (x := x) (exec_returnArrival h f s) admitted
    (beq_iff_eq.mpr origin) rfl tag
  have segments : peerSegments h.sender day f.segments = new := peerSegments_eq later _ _
  have alive : b.state ≠ .ended := by simp [(Sched.lentWith_some lent).2.1]
  constructor
  · intro fits bare noA noB room limit c seek armed ahead
    have whole : (b.withSegments (peerSegments h.sender day f.segments)).home = c := by
      have short : (b.segs ++ new).length ≤ 4 := by simpa [new] using fits
      rw [segments]
      show ({ b with segs := (b.segs ++ new).take 4, state := .waiting, plan := .absent, confirm := none, peerLost := false,
                     attempts := 0 } : Booking) = c
      rw [List.take_of_length_le short]
    have effect := Ev.returned_unplaced (v := v) (e := Ev.of s.sch) lent found own fits bare (Sched.usable_none noA noB) room
      limit (by rw [whole]; exact seek) (by rw [whole]; exact armed) ahead
    let x₁ : Sched := s.sch.modB b.handle (Booking.withSegments (peerSegments h.sender day f.segments))
    let x₂ : Sched := x₁.modB b.handle Booking.home
    let x : Sched := x₂.modB b.handle (Booking.inState .waiting .absent)
    have found' : x.bk b.handle = some c := by
      rw [← whole]
      have found₁ : x₁.bk b.handle = some _ := Sched.bk_modB_self (Booking.withSegments _) (fun _ => rfl) found alive
      have found₂ : x₂.bk b.handle = some _ := Sched.bk_modB_self Booking.home (fun _ => rfl) found₁ alive
      exact Sched.bk_modB_self (Booking.inState .waiting .absent) (fun _ => rfl) found₂ nofun
    have others (g : Nat) (other : g ≠ b.handle) : x.bk g = s.sch.bk g :=
      calc x.bk g = x₂.bk g := x₂.bk_modB_other _ (fun _ => rfl) other
        _ = x₁.bk g := x₁.bk_modB_other _ (fun _ => rfl) other
        _ = s.sch.bk g := s.sch.bk_modB_other _ (fun _ => rfl) other
    have kept : x.Settled := settled.of_one rfl rfl found found' others (by
      simp [Booking.tuneKey, c, Booking.occupies, BState.occupies, (Sched.lentWith_some lent).2.1])
    have event : s.sch.event v (fun e => e.returned v h.sender day f) =
        { x with
          unplaced := [b.handle], triggers := armedWith b.handle k u s.sch.triggers
          notices := s.sch.notices ++ [b.unplacedNotice .noTuner] } := by
      show ((Ev.of s.sch).returned v h.sender day f).settle v = _
      rw [effect]
      exact Ev.settle_settled (Ev.rests_quiet rfl rfl rfl) rfl (kept.of_bookings rfl rfl rfl)
    exact ⟨_, State.Hears.happened (run event), rfl, found', others, rfl⟩
  · intro full
    refine ⟨_, State.Hears.happened (run rfl), rfl, s.sch.event_evolves fun e => e.evolves_returned v h.sender day f,
      Sched.event_reported ?_⟩
    show s.sch.Reported ((Ev.of s.sch).returned v h.sender day f).s b.handle _
    rw [Ev.returned_full (e := Ev.of s.sch) lent full, segments]
    exact Ev.appended_reported (e := Ev.of s.sch) v new (fun _ => (.partly, .segments)) found alive own

/-! ## TALLY -/

theorem Ev.tallied_none {v : Base} {sender day : Nat} {f : TallyFields} {e : Ev} (none : e.s.lentWith f.id sender = none) :
    e.tallied v sender day f = e := by
  unfold Ev.tallied
  rw [none]

theorem Ev.tallied_some {v : Base} {sender day : Nat} {f : TallyFields} {e : Ev} {b : Booking}
    (lent : e.s.lentWith f.id sender = some b) : e.tallied v sender day f =
      (e.on (Sched.appendSegments b.handle (peerSegments sender day f.segments))).endNow v b.handle fun _ =>
        if 4 < b.segs.length + f.segments.length then (.partly, .segments)
        else (BOutcome.ofCode f.outcome, Reason.ofCode f.reason) := by
  unfold Ev.tallied
  rw [lent]

/-- Settles O59: RETURN as above, and a TALLY that finds its booking or none. -/
theorem returnAndTallyArrivals : Obligations.ReturnAndTallyArrivals := by
  refine ⟨returnArrival_returns, ?_⟩
  intro h f day s hears admitted origin settled tag later base new
  have run {x : Sched} := hears.dated (f := fun v day => Ev.tallied v h.sender day f) (x := x) (exec_tallyArrival h f s) admitted
    (beq_iff_eq.mpr origin) rfl tag
  constructor
  · intro none
    refine run (x := s.sch) ?_
    show ((Ev.of s.sch).tallied s.base.heard h.sender day f).settle s.base.heard = s.sch
    rw [Ev.tallied_none (e := Ev.of s.sch) (Sched.lentWith_none none)]
    exact Ev.settle_settled (Ev.rests_quiet rfl rfl rfl) rfl settled
  · intro b o r lent found own outcome reason
    have segments : peerSegments h.sender day f.segments = new := peerSegments_eq later _ _
    refine ⟨_, State.Hears.happened (run rfl), rfl, s.sch.event_evolves fun e => e.evolves_tallied s.base.heard h.sender day f,
      Sched.event_reported ?_⟩
    show s.sch.Reported ((Ev.of s.sch).tallied s.base.heard h.sender day f).s b.handle _
    rw [Ev.tallied_some (e := Ev.of s.sch) lent, segments, ← outcome, ← reason, BOutcome.ofCode_code, Reason.ofCode_code]
    exact Ev.appended_reported (e := Ev.of s.sch) s.base.heard new
      (fun _ => if 4 < b.segs.length + f.segments.length then (.partly, .segments) else (o, r)) found
      (by simp [(Sched.lentWith_some lent).2.1]) own

end Sys2Proof.Machine
end

section
/-! The seek at its origin: the ready time, a BID and a TAKE. -/

namespace Sys2Proof.Machine

/-! ## The look of the engine -/

/-- An event that only asks the engine to look ends with what the look does, when nothing follows from it. -/
theorem Ev.settle_looks {v : Base} {s : Sched} (rests : ((Ev.of s).look1 v).Rests v) (late : ((Ev.of s).look1 v).late = [])
    (settled : ((Ev.of s).look1 v).s.Settled) : (Ev.of s).askLook.settle v = ((Ev.of s).look1 v).s := by
  have finish : (Ev.of s).askLook.finish v = ((Ev.of s).look1 v).asked := by
    show work 511 v ((Ev.of s).look1 v) = _
    exact work_rests v 507 _ rests
  rw [Ev.settle, Ev.close, finish]
  show settleIn 1024 v (((Ev.of s).look1 v).s.reviseAll v) ((Ev.of s).look1 v).late = _
  rw [late, Sched.reviseAll_settled v _ settled]
  exact settleIn_nil v _ _

theorem Ev.look1_seeks {v : Base} {e : Ev} {h : Nat} {ready : Option Nat} {b : Booking} (idle : e.s.engine = .idle)
    (queue : e.s.seekQueue = [⟨h, ready⟩]) (due : ∀ t, ready = some t → t ≤ v.now) (found : e.s.bk h = some b)
    (may : v.maySeek b = true) : e.look1 v = e.sendSeek v h := by
  have ready' : SeekEntry.isReady v ⟨h, ready⟩ = true := by
    unfold SeekEntry.isReady
    cases ready with
    | none => rfl
    | some t => exact decide_eq_true (due t rfl)
  have first : e.s.seekQueue.find? (SeekEntry.isReady v) = some ⟨h, ready⟩ := by simp [queue, ready']
  unfold Ev.look1
  rw [idle, first]
  simp only [found, may, if_true]

/-- A booking with one more attempt. -/
def Booking.tried (b : Booking) : Booking := { b with attempts := b.attempts + 1 }

/-- The SEEK is composed with the number of the attempt and takes its place in the queue (R161). -/
theorem Ev.sendSeek_taken {v : Base} {e : Ev} {h : Nat} {b : Booking} (found : e.s.bk h = some b) (alive : b.state ≠ .ended)
    (joined : v.station = .joined) (room : e.s.txq.length < 12) : e.sendSeek v h = e.on fun s =>
      { s.modB h Booking.tried with
        txq := s.txq ++ [compose v b.tried.rank (b.tried.seekMsg v) none], engine := .collecting h none [] } := by
  have found' : (e.s.modB h Booking.tried).bk h = some b.tried := Sched.bk_modB_self Booking.tried (fun _ => rfl) found alive
  have admits : v.station.admits (b.tried.seekMsg v) = true := by rw [joined]; rfl
  have takes : taken v (b.tried.seekMsg v) (e.s.modB h Booking.tried) = true := (taken_plain rfl v _).mpr ⟨admits, room⟩
  have offered : (e.s.modB h Booking.tried).offer v b.tried.rank (b.tried.seekMsg v) none =
      { e.s.modB h Booking.tried with txq := e.s.txq ++ [compose v b.tried.rank (b.tried.seekMsg v) none] } :=
    (Sched.offer_plain rfl v _ none _).trans (if_pos ⟨admits, room⟩)
  unfold Ev.sendSeek
  dsimp only
  rw [show (e.on fun s => s.modB h fun b => { b with attempts := b.attempts + 1 }).s.bk h = some b.tried from found']
  dsimp only
  rw [show (e.on fun s => s.modB h fun b => { b with attempts := b.attempts + 1 }).s = e.s.modB h Booking.tried from rfl, takes,
    if_pos rfl]
  exact congrArg (fun s : Sched => { e with s := { s with engine := .collecting h none [] } }) offered

theorem shortForm_getD {v : Base} {t : Nat} (inside : (shortForm v t).isSome = true) :
    (shortForm v t).getD 0 = (t + 86400 - v.clock / 86400 * 86400) / 60 := by
  unfold shortForm at inside ⊢
  dsimp only at inside ⊢
  split
  · rename_i before
    rw [if_pos before] at inside
    cases inside
  · split
    · rfl
    · rename_i before far
      rw [if_neg before, if_neg far] at inside
      cases inside

/-- What a booking that may seek gives its SEEK: its span has a short form (R159). -/
theorem Base.maySeek_span {v : Base} {b : Booking} (may : v.maySeek b = true) :
    (shortForm v b.spanStart).isSome = true ∧ (shortForm v b.spanEnd).isSome = true := by
  unfold Base.maySeek at may
  simp only [Bool.and_eq_true] at may
  obtain ⟨⟨⟨⟨⟨-, start⟩, finish⟩, -⟩, -⟩, -⟩ := may
  exact ⟨start, finish⟩

theorem Booking.rank_waits {b : Booking} (idle : b.state.occupies = false) : b.rank = 2 + 2 * b.priority := by
  simp [Booking.rank, Booking.occupies, idle]

/-- Settles O55: the event asks for a look, which sends the SEEK. -/
theorem seekReadyTime : Obligations.SeekReadyTime := by
  intro handle d b s high settled queue idle found joined room own seeking v due may c day short rank seek
  have alive : b.state ≠ .ended := by simp [seeking]
  have readyAt : State.readyAt handle s = some d := by simp [State.readyAt, queue]
  obtain ⟨t, happened, base, sch⟩ := State.happened_event (exec_seekReadyTime handle s) high readyAt
  obtain ⟨start, finish⟩ := Base.maySeek_span may
  have station : v.station = .joined := (s.countTo_station d).trans joined
  have message : compose v b.tried.rank (b.tried.seekMsg v) none = ⟨v.cfg.household, v.cfg.station, rank, .seek seek, none, false⟩ := by
    have ranked : b.tried.rank = rank := Booking.rank_waits (by show b.state.occupies = false; rw [seeking]; rfl)
    have composed : b.tried.seekMsg v = .seek seek := by
      unfold Booking.seekMsg
      rw [ranked, show shortForm v b.tried.spanStart = shortForm v b.spanStart from rfl,
        show shortForm v b.tried.spanEnd = shortForm v b.spanEnd from rfl, shortForm_getD start, shortForm_getD finish]
      rfl
    rw [ranked, composed]
    rfl
  have looks := (Ev.look1_seeks (e := Ev.of s.sch) idle queue (fun t ht => Option.some.inj ht ▸ due) found may).trans
    (Ev.sendSeek_taken (e := Ev.of s.sch) found alive station room)
  have found' : (s.sch.modB handle Booking.tried).bk handle = some c :=
    Sched.bk_modB_self Booking.tried (fun _ => rfl) found alive
  have others (g : Nat) (other : g ≠ handle) : (s.sch.modB handle Booking.tried).bk g = s.sch.bk g :=
    s.sch.bk_modB_other _ (fun _ => rfl) other
  have kept : (s.sch.modB handle Booking.tried).Settled := settled.of_one rfl rfl found found' others rfl
  have left : t.sch = { s.sch.modB handle Booking.tried with
      txq := s.sch.txq ++ [⟨v.cfg.household, v.cfg.station, rank, .seek seek, none, false⟩]
      engine := .collecting handle none [] } := by
    refine sch.trans ((Ev.settle_looks (v := v) (s := s.sch) ?_ ?_ ?_).trans ?_)
    · rw [looks]
      exact Ev.rests_quiet rfl rfl rfl
    · rw [looks]
      rfl
    · rw [looks]
      exact kept.of_bookings rfl rfl rfl
    · rw [looks, ← message]
      rfl
  refine ⟨t, happened, base, ?_, ?_, ?_⟩
  · rw [left]
    exact found'
  · rw [left]
    exact others
  · rw [left]
    rfl

/-! ## BID -/

theorem Booking.answers_iff (j : BookingId) (n : Nat) (b : Booking) :
    Booking.answers j n b = true ↔ b.id = j ∧ b.attempts = n := by simp [Booking.answers]

theorem State.bidArrives_joins {sender : Nat} {f : BidFields} {s : State} {h w : Nat} {bids : List Bid} {b : Booking}
    (engine : s.sch.engine = .collecting h (some w) bids) (found : s.sch.bk h = some b) (id : b.id = f.id)
    (number : b.attempts = f.number) (early : s.base.now ≤ w) (eligible : s.base.isEligible sender = true) :
    s.bidArrives sender f = s.onSched fun x => { x with
      engine := .collecting h (some w)
        (bids.filter (fun y => y.station != sender) ++ [⟨sender, f.cost, f.tuner, f.displaced⟩]) } := by
  simp [State.bidArrives, engine, found, (Booking.answers_iff f.id f.number b).mpr ⟨id, number⟩, early, eligible]

theorem State.bidArrives_ignored {sender : Nat} {f : BidFields} {s : State} {h w : Nat} {bids : List Bid} {b : Booking}
    (engine : s.sch.engine = .collecting h (some w) bids) (found : s.sch.bk h = some b)
    (other : b.id ≠ f.id ∨ b.attempts ≠ f.number) : s.bidArrives sender f = s := by
  have no : Booking.answers f.id f.number b = false := by
    rw [Bool.eq_false_iff, Ne, Booking.answers_iff]
    exact fun h => other.elim (· h.1) (· h.2)
  simp [State.bidArrives, engine, found, no]

/-! ## TAKE and DECLINE -/

theorem Ev.takeArrives_lent {v : Base} {j : BookingId} {n : Nat} {e : Ev} {h st : Nat} {w : Option Nat} {bids : List Bid}
    {b : Booking} (engine : e.s.engine = .awaiting h st w bids) (found : e.s.bk h = some b) (id : b.id = j)
    (number : b.attempts = n) : e.takeArrives v st j n =
      ((e.on fun s => (s.leaveSeek h).modB h (Booking.inState .lent (.lent st))).arm v h).engineIdle := by
  simp [Ev.takeArrives, engine, found, (Booking.answers_iff j n b).mpr ⟨id, number⟩]

theorem Ev.takeArrives_ignored {v : Base} {sender : Nat} {j : BookingId} {n : Nat} {e : Ev} {h st : Nat} {w : Option Nat}
    {bids : List Bid} {b : Booking} (engine : e.s.engine = .awaiting h st w bids) (found : e.s.bk h = some b)
    (other : sender ≠ st ∨ n ≠ b.attempts) : e.takeArrives v sender j n = e := by
  have no : (st == sender && Booking.answers j n b) = false := by
    rw [Bool.eq_false_iff, Ne, Bool.and_eq_true, Booking.answers_iff, beq_iff_eq]
    exact fun h => other.elim (· h.1.symm) (· h.2.2.symm)
  simp only [Ev.takeArrives, engine, found, Option.any_some, no, Bool.false_eq_true, if_false]

theorem Ev.declineArrives_ignored {v : Base} {sender : Nat} {j : BookingId} {n : Nat} {e : Ev} {h st : Nat} {w : Option Nat}
    {bids : List Bid} {b : Booking} (engine : e.s.engine = .awaiting h st w bids) (found : e.s.bk h = some b)
    (other : sender ≠ st ∨ n ≠ b.attempts) : e.declineArrives v sender j n = e := by
  have no : (st == sender && Booking.answers j n b) = false := by
    rw [Bool.eq_false_iff, Ne, Bool.and_eq_true, Booking.answers_iff, beq_iff_eq]
    exact fun h => other.elim (· h.1.symm) (· h.2.2.symm)
  simp only [Ev.declineArrives, engine, found, Option.any_some, no, Bool.false_eq_true, if_false]

theorem bidArrival_joins (h : FrameHead) (f : BidFields) (handle window : Nat) (bids : List Bid) (b : Booking) (s : State)
    (hears : s.Hears h) (admitted : bidAdmitted h f = true) (origin : f.id.origin = s.base.cfg.station)
    (engine : s.sch.engine = .collecting handle (some window) bids) (found : s.sch.bk handle = some b) :
    (b.id = f.id → b.attempts = f.number → s.base.now ≤ window → s.base.isEligible h.sender = true →
      exec (.bidArrival h f) s = .next
        { s with
          base := s.base.heard
          sch := { s.sch with
            engine := .collecting handle (some window)
              (bids.filter (fun y => y.station != h.sender) ++ [⟨h.sender, f.cost, f.tuner, f.displaced⟩]) } }) ∧
    (b.id ≠ f.id ∨ b.attempts ≠ f.number →
      exec (.bidArrival h f) s = .next { s with base := s.base.heard }) := by
  have run := hears.onSched (exec_bidArrival h f s) admitted (beq_iff_eq.mpr origin) rfl
  refine ⟨fun id number early eligible => run.trans ?_, fun other => run.trans ?_⟩
  · rw [State.bidArrives_joins (s := { s with base := s.base.heard }) engine found id number early eligible]
    rfl
  · rw [State.bidArrives_ignored (s := { s with base := s.base.heard }) engine found other]

/-- Settles O53: the BID as above, and a TAKE that lends the booking, or is ignored as a DECLINE would be. -/
theorem bidAndTakeArrivals : Obligations.BidAndTakeArrivals := by
  refine ⟨bidArrival_joins, ?_⟩
  intro h handle st w ready bids b number reason s hears admitted origin settled engine found seeking queue deadline
  have addressed : s.base.isOrigin b.id = true := beq_iff_eq.mpr origin
  have alive : b.state ≠ .ended := by simp [seeking]
  constructor
  · rintro rfl rfl ahead c
    let v := s.base.heard
    let x : Sched := (s.sch.leaveSeek handle).modB handle (Booking.inState .lent (.lent h.sender))
    have found' : x.bk handle = some c :=
      Sched.bk_modB_self (s := s.sch.leaveSeek handle) (Booking.inState .lent (.lent h.sender)) (fun _ => rfl) found alive
    have others (g : Nat) (other : g ≠ handle) : x.bk g = s.sch.bk g :=
      (s.sch.leaveSeek handle).bk_modB_other _ (fun _ => rfl) other
    have queue' : (s.sch.seekQueue.filter fun q => q.handle != handle) = [] := by simp [queue]
    have armed : c.armed v = some (.overrun, deadline) := rfl
    have effect : (Ev.of s.sch).takeArrives v h.sender b.id b.attempts =
        (((Ev.of s.sch).on fun _ => x).on fun s => { s with triggers := armedWith handle .overrun deadline s.triggers }).engineIdle := by
      rw [Ev.takeArrives_lent (e := Ev.of s.sch) engine found rfl rfl]
      exact congrArg Ev.engineIdle (Ev.arm_ahead (e := (Ev.of s.sch).on fun _ => x) found' armed ahead)
    have kept : x.Settled := settled.of_one rfl rfl found found' others (by
      simp [Booking.tuneKey, c, Booking.occupies, BState.occupies, seeking])
    have event : s.sch.event v (Ev.takeArrives v h.sender b.id b.attempts) =
        { x with triggers := armedWith handle .overrun deadline s.sch.triggers, engine := .idle } := by
      show ((Ev.of s.sch).takeArrives v h.sender b.id b.attempts).settle v = _
      rw [effect]
      refine Ev.settle_settled ⟨nofun, nofun, nofun, fun _ => Sched.noLook_of_empty queue'⟩ rfl ?_
      exact kept.of_bookings rfl rfl rfl
    refine ⟨_, State.Hears.happened (hears.event (exec_takeArrival h b.id b.attempts s) admitted addressed rfl event), rfl, found',
      others, ?_⟩
    show { x with triggers := _, engine := _ } = _
    rw [← queue']
    rfl
  · intro other
    have still (f : Ev → Ev) (nothing : f (Ev.of s.sch) = Ev.of s.sch) : s.sch.event s.base.heard f = s.sch := by
      rw [Sched.event, nothing]
      exact Ev.settle_settled (Ev.rests_quiet rfl rfl rfl) rfl settled
    refine ⟨hears.event (exec_takeArrival h b.id number s) admitted addressed rfl
      (still _ (Ev.takeArrives_ignored (e := Ev.of s.sch) engine found other)), fun low => ?_⟩
    refine hears.event (exec_declineArrival h b.id number reason s) ?_ addressed rfl
      (still _ (Ev.declineArrives_ignored (e := Ev.of s.sch) engine found other))
    exact Bool.and_eq_true _ _ ▸ ⟨admitted, decide_eq_true low⟩

end Sys2Proof.Machine
end

section
/-! The seek engine goes on: the best bid is awarded, or the attempt ends. -/

namespace Sys2Proof.Machine

/-! ## The best bid -/

/-- One bid is strictly better than another (R163). -/
theorem Bid.better_iff (a b : Bid) : a.better b = true ↔ a.cost < b.cost ∨
    (a.cost = b.cost ∧ (b.displaced < a.displaced ∨ (a.displaced = b.displaced ∧ a.station < b.station))) := by
  simp [Bid.better]

theorem Bid.better_asymm {a b : Bid} (h : a.better b = true) : b.better a = false := by
  rw [Bool.eq_false_iff, Ne, Bid.better_iff]
  rw [Bid.better_iff] at h
  omega

theorem bestBid_mem : ∀ {l : List Bid} {x : Bid}, bestBid l = some x → x ∈ l
  | [], _, h => by cases h
  | a :: rest, x, h => by
    unfold bestBid at h
    split at h
    · exact Option.some.inj h ▸ List.mem_cons_self
    · rename_i y best
      split at h
      · exact List.mem_cons_of_mem _ (Option.some.inj h ▸ bestBid_mem best)
      · exact Option.some.inj h ▸ List.mem_cons_self

/-- The best bid is the one that is better than every other. -/
theorem bestBid_eq {x : Bid} : ∀ {l : List Bid}, x ∈ l → (∀ y ∈ l, y = x ∨ x.better y = true) → bestBid l = some x
  | [], inside, _ => by cases inside
  | a :: rest, inside, best => by
    unfold bestBid
    cases found : bestBid rest with
    | none =>
      rcases List.mem_cons.mp inside with rfl | later
      · rfl
      · rw [bestBid_eq later fun y hy => best y (List.mem_cons_of_mem _ hy)] at found
        cases found
    | some y =>
      rcases List.mem_cons.mp inside with rfl | later
      · rcases best y (List.mem_cons_of_mem _ (bestBid_mem found)) with rfl | better
        · simp
        · simp [Bid.better_asymm better]
      · have same : y = x := by
          rw [bestBid_eq later fun y hy => best y (List.mem_cons_of_mem _ hy)] at found
          exact (Option.some.inj found).symm
        subst same
        rcases best a List.mem_cons_self with rfl | better
        · simp
        · simp [better]

/-! ## The award -/

/-- The state with messages of a booking at the tail of the queue. -/
def Sched.sends (v : Base) (rank : Nat) (sent : List Msg) (s : Sched) : Sched :=
  { s with txq := s.txq ++ sent.map fun m => compose v rank m none }

theorem Sched.sends_nil (v : Base) (rank : Nat) (s : Sched) : s.sends v rank [] = s := by
  simp [Sched.sends]

theorem Ev.award_best {v : Base} {h : Nat} {bids : List Bid} {e : Ev} {x : Bid} {b : Booking} (found : e.s.bk h = some b)
    (joined : v.station = .joined) (room : e.s.txq.length < 12) (inside : x ∈ bids) (eligible : v.isEligible x.station = true)
    (best : ∀ y ∈ bids, v.isEligible y.station = true → y = x ∨ x.better y = true) : e.award v h bids = e.on fun s =>
      { s.sends v b.rank [.award ⟨b.id, b.attempts, x.station, x.tuner⟩] with
        engine := .awaiting h x.station none (bids.filter fun y => v.isEligible y.station) } := by
  have first : bestBid (bids.filter fun y => v.isEligible y.station) = some x :=
    bestBid_eq (List.mem_filter.mpr ⟨inside, eligible⟩) fun y hy =>
      best y (List.mem_filter.mp hy).1 (List.mem_filter.mp hy).2
  have admits : v.station.admits (.award ⟨b.id, b.attempts, x.station, x.tuner⟩) = true := by rw [joined]; rfl
  have takes : taken v (.award ⟨b.id, b.attempts, x.station, x.tuner⟩) e.s = true := (taken_plain rfl v _).mpr ⟨admits, room⟩
  have offered := (Sched.offer_plain (m := .award ⟨b.id, b.attempts, x.station, x.tuner⟩) rfl v b.rank none e.s).trans
    (if_pos ⟨admits, room⟩)
  unfold Ev.award awardNext
  dsimp only
  rw [first, found]
  dsimp only
  rw [takes, if_pos rfl]
  exact congrArg (fun s : Sched => { e with s := { s with
    engine := .awaiting h x.station none (bids.filter fun y => v.isEligible y.station) } }) offered

/-- With no bid of an eligible station the attempt ends (R163). -/
theorem Ev.award_none {v : Base} {h : Nat} {bids : List Bid} {e : Ev} (none : ∀ y ∈ bids, v.isEligible y.station = false) :
    e.award v h bids = e.attemptEnds v h := by
  have empty : (bids.filter fun y => v.isEligible y.station) = [] := by simpa [List.filter_eq_nil_iff] using none
  unfold Ev.award awardNext
  dsimp only
  rw [empty]
  rfl

theorem Ev.withdraw_sends {v : Base} {h st : Nat} {e : Ev} {b : Booking} (found : e.s.bk h = some b)
    (joined : v.station = .joined) (room : e.s.txq.length < 12) :
    e.withdraw v h st = e.on (Sched.sends v b.rank [.withdraw b.id st]) := by
  have admits : v.station.admits (.withdraw b.id st) = true := by rw [joined]; rfl
  unfold Ev.withdraw
  rw [found]
  exact Ev.on_congr ((Sched.offer_plain (m := .withdraw b.id st) rfl v b.rank none e.s).trans (if_pos ⟨admits, room⟩))

/-- The three ways in which the engine goes on to what is left of its bids (R163, R164): which command, the bids, the base
and what it sends first. -/
def EngineGoesOn (i : Instr) (handle w : Nat) (bids left : List Bid) (b : Booking) (s : State) (v : Base) (sent : List Msg) : Prop :=
  (i = .bidWindowEnd ∧ s.resetLow = false ∧ s.sch.engine = .collecting handle (some w) bids ∧ left = bids ∧
      v = (s.countTo w).base ∧ sent = []) ∨
    (∃ st, i = .takeTimerExpiry ∧ s.resetLow = false ∧ s.sch.engine = .awaiting handle st (some w) bids ∧
      left = bids.filter (fun y => y.station != st) ∧ v = (s.countTo w).base ∧ sent = [.withdraw b.id st]) ∨
    (∃ h reason t, i = .declineArrival h b.id b.attempts reason ∧ reason ≤ 3 ∧ s.Hears h ∧
      takeAdmitted h b.id b.attempts = true ∧ b.id.origin = s.base.cfg.station ∧
      s.sch.engine = .awaiting handle h.sender t bids ∧ left = bids.filter (fun y => y.station != h.sender) ∧
      v = s.base.heard ∧ sent = [])

theorem EngineGoesOn.base {i : Instr} {handle w : Nat} {bids left : List Bid} {b : Booking} {s : State} {v : Base}
    {sent : List Msg} (goes : EngineGoesOn i handle w bids left b s v sent) :
    v.station = s.base.station ∧ v.cfg = s.base.cfg ∧ sent.length ≤ 1 := by
  rcases goes with ⟨-, -, -, -, rfl, rfl⟩ | ⟨st, -, -, -, -, rfl, rfl⟩ | ⟨h, reason, t, -, -, -, -, -, -, -, rfl, rfl⟩
  · exact ⟨s.countTo_station w, s.countTo_cfg w, Nat.zero_le _⟩
  · exact ⟨s.countTo_station w, s.countTo_cfg w, Nat.le_refl _⟩
  · exact ⟨rfl, rfl, Nat.zero_le _⟩

theorem Ev.windowEnds_collecting {v : Base} {e : Ev} {h : Nat} {w : Option Nat} {bids : List Bid}
    (engine : e.s.engine = .collecting h w bids) : e.windowEnds v = e.award v h bids := by
  unfold Ev.windowEnds
  rw [engine]

theorem Ev.takeEnds_awaiting {v : Base} {e : Ev} {h st : Nat} {w : Option Nat} {bids : List Bid}
    (engine : e.s.engine = .awaiting h st w bids) :
    e.takeEnds v = (e.withdraw v h st).award v h (bids.filter fun y => y.station != st) := by
  unfold Ev.takeEnds
  rw [engine]
  rfl

theorem Ev.declineArrives_awaiting {v : Base} {e : Ev} {h st : Nat} {w : Option Nat} {bids : List Bid} {b : Booking}
    (engine : e.s.engine = .awaiting h st w bids) (found : e.s.bk h = some b) :
    e.declineArrives v st b.id b.attempts = e.award v h (bids.filter fun y => y.station != st) := by
  simp only [Ev.declineArrives, engine, found, (Booking.answers_iff _ _ b).mpr ⟨rfl, rfl⟩, Option.any_some, beq_self_eq_true,
    Bool.and_self, if_true]
  rfl

/-- Each is an event that sends what it sends and awards what is left. -/
theorem EngineGoesOn.happens {i : Instr} {handle w : Nat} {bids left : List Bid} {b : Booking} {s : State} {v : Base}
    {sent : List Msg} (goes : EngineGoesOn i handle w bids left b s v sent) (joined : s.base.station = .joined)
    (room : s.sch.txq.length < 12) (found : s.sch.bk handle = some b) :
    ∃ t, Happened i s t ∧ t.base = v ∧
      t.sch = (((Ev.of s.sch).on (Sched.sends v b.rank sent)).award v handle left).settle v := by
  have plain (v : Base) : (Ev.of s.sch).on (Sched.sends v b.rank []) = Ev.of s.sch :=
    Ev.on_congr (e := Ev.of s.sch) (g := id) (Sched.sends_nil v b.rank s.sch)
  rcases goes with ⟨rfl, high, engine, rfl, rfl, rfl⟩ | ⟨st, rfl, high, engine, rfl, rfl, rfl⟩ |
    ⟨h, reason, t, rfl, low, hears, admitted, origin, engine, rfl, rfl, rfl⟩
  · obtain ⟨t, happened, base, sch⟩ := State.happened_event (u := w) (exec_bidWindowEnd s) high (by simp [State.windowEnd, engine])
    refine ⟨t, happened, base, sch.trans ?_⟩
    rw [plain]
    exact congrArg (Ev.settle _) (Ev.windowEnds_collecting (e := Ev.of s.sch) engine)
  · obtain ⟨t, happened, base, sch⟩ := State.happened_event (u := w) (exec_takeTimerExpiry s) high (by simp [State.takeEnd, engine])
    refine ⟨t, happened, base, sch.trans ?_⟩
    rw [← Ev.withdraw_sends (e := Ev.of s.sch) found ((s.countTo_station w).trans joined) room]
    exact congrArg (Ev.settle _) (Ev.takeEnds_awaiting (e := Ev.of s.sch) engine)
  · have effect : s.sch.event s.base.heard (Ev.declineArrives s.base.heard h.sender b.id b.attempts) =
        (((Ev.of s.sch).on (Sched.sends s.base.heard b.rank [])).award s.base.heard handle
          (bids.filter fun y => y.station != h.sender)).settle s.base.heard := by
      rw [plain]
      exact congrArg (Ev.settle _) (Ev.declineArrives_awaiting (e := Ev.of s.sch) engine found)
    exact ⟨_, State.Hears.happened (hears.event (exec_declineArrival h b.id b.attempts reason s)
      (Bool.and_eq_true _ _ ▸ ⟨admitted, decide_eq_true low⟩) (beq_iff_eq.mpr origin) rfl effect), rfl, rfl⟩

/-- An event that has no stack to examine. -/
theorem Ev.rests_unexamined {v : Base} {e : Ev} (exam : e.exam = ⟨false, false⟩)
    (retry : ∀ keep, e.retry = some keep → e.s.NoRetry v keep) (look : e.look = true → e.s.NoLook v) : e.Rests v :=
  ⟨fun a => by simp [exam] at a, fun b => by simp [exam] at b, retry, look⟩

/-! ## The end of an attempt -/

theorem Ev.attemptEnds_again {v : Base} {e : Ev} {h : Nat} {ready : Option Nat} {b : Booking} (found : e.s.bk h = some b)
    (queue : e.s.seekQueue = [⟨h, ready⟩]) (left : b.attempts < v.cfg.seekLimit) : e.attemptEnds v h =
      (e.on fun s => { s with engine := .idle, seekQueue := [⟨h, some (readyTime v b.attempts)⟩] }).askLook := by
  have marked : (e.s.seekQueue.map fun q => if q.handle = h then { q with ready := some (readyTime v b.attempts) } else q) =
      [⟨h, some (readyTime v b.attempts)⟩] := by simp [queue]
  unfold Ev.attemptEnds
  dsimp only
  rw [show e.engineIdle.s.bk h = some b from found]
  dsimp only
  rw [if_pos left]
  exact congrArg (fun l => (e.on fun s => { s with engine := .idle, seekQueue := l }).askLook) marked

theorem Ev.attemptEnds_spent {v : Base} {e : Ev} {h : Nat} {b : Booking} (found : e.s.bk h = some b)
    (spent : v.cfg.seekLimit ≤ b.attempts) : e.attemptEnds v h =
      ((e.engineIdle.on fun s => s.leaveSeek h).place v Open.given h).askRetry true := by
  unfold Ev.attemptEnds
  dsimp only
  rw [show e.engineIdle.s.bk h = some b from found]
  exact if_neg (Nat.not_lt.mpr spent)

/-- The one booking of the seek queue has its ready time ahead. -/
theorem Sched.noLook_later {v : Base} {s : Sched} {h t : Nat} (queue : s.seekQueue = [⟨h, some t⟩]) (ahead : v.now < t) :
    s.NoLook v := by
  have later : ¬ t ≤ v.now := Nat.not_le.mpr ahead
  refine .inr ?_
  rw [queue]
  simp [SeekEntry.isReady, later]

/-! ## A re-try that changes nothing -/

/-- A re-try that neither steps 1 to 3 nor a seek takes up leaves the booking as it is (R106). -/
theorem Ev.place_retry {v : Base} {e : Ev} {h : Nat} {b : Booking} (found : e.s.bk h = some b) (own : b.hosted = false)
    (no : e.s.choose v false none none b = none) (seek : (v.maySeek b && decide (b.attempts < v.cfg.seekLimit)) = false) :
    e.place v Open.retry h = e := by
  rw [Ev.place_afterThree (o := Open.retry) found no]
  simp only [Ev.afterThree, own, Bool.false_eq_true, if_false, Open.retry, Bool.true_and, seek, Bool.false_and]

/-- The one unplaced booking is not placed by a re-try that keeps its attempts. -/
theorem Sched.noRetry_kept {v : Base} {s : Sched} {h : Nat} {b : Booking} (unplaced : s.unplaced = [h])
    (found : s.bk h = some b) (own : b.hosted = false) (no : s.choose v false none none b = none)
    (seek : (v.maySeek b && decide (b.attempts < v.cfg.seekLimit)) = false) : s.NoRetry v true := by
  intro e same
  subst same
  have one : Ev.retryOne v true e h = e := by
    unfold Ev.retryOne
    rw [if_pos (by simp [unplaced]), if_pos rfl]
    exact Ev.place_retry found own no seek
  unfold Ev.retryAll
  rw [unplaced, List.foldl_cons, one]
  exact if_pos ⟨rfl, rfl⟩

/-- A booking whose seek is spent is left unplaced where no tuner takes it (R165, R95). -/
theorem Ev.spent_unplaced {v : Base} {e : Ev} {b : Booking} {k : TrigKind} {u : Nat} (found : e.s.bk b.handle = some b)
    (seeking : b.state = .seeking) (own : b.cls ≠ .hosted) (spent : v.cfg.seekLimit ≤ b.attempts)
    (none' : ∀ k, e.s.usable k = false) (bare : e.s.Bare) (room : e.s.Room 1)
    (armed : (b.inState .waiting .absent).armed v = some (k, u)) (ahead : v.clock < u) :
    e.attemptEnds v b.handle = ((e.engineIdle.on fun s =>
      { (s.leaveSeek b.handle).modB b.handle (Booking.inState .waiting .absent) with
        unplaced := [b.handle]
        triggers := armedWith b.handle k u s.triggers
        notices := s.notices ++ [b.unplacedNotice .seekSpent] }).askRetry true) := by
  let e' := e.engineIdle.on fun s => s.leaveSeek b.handle
  have last : e'.s.lastStep v Open.given b = .seekSpent := by
    unfold Sched.lastStep
    rw [if_neg (by simp [Open.given]), if_pos spent]
  rw [Ev.attemptEnds_spent found spent, Ev.place_unplaced (e := e') (o := Open.given) found (Booking.not_hosted own)
    (by simp [seeking]) none' rfl rfl bare.2.1 bare.2.2 (by have := room.1; show e.s.notices.length < 32; omega) room.2 armed
    ahead (by simp [seeking]), last]
  rfl

/-- The booking and the base of the events in which the engine goes on. -/
theorem EngineGoesOn.awards {i : Instr} {handle w : Nat} {bids left : List Bid} {b : Booking} {s : State} {v : Base}
    {sent : List Msg} {x : Bid} (goes : EngineGoesOn i handle w bids left b s v sent) (joined : s.base.station = .joined)
    (settled : s.sch.Settled) (room : s.sch.txq.length < 11) (found : s.sch.bk handle = some b) (inside : x ∈ left)
    (eligible : v.isEligible x.station = true)
    (best : ∀ y ∈ left, v.isEligible y.station = true → y = x ∨ x.better y = true) :
    ∃ t, Happened i s t ∧ t.base = v ∧
      t.sch = { (s.sch.sends v b.rank sent).sends v b.rank [.award ⟨b.id, b.attempts, x.station, x.tuner⟩] with
        engine := .awaiting handle x.station none (left.filter fun y => v.isEligible y.station) } := by
  obtain ⟨station, cfg, short⟩ := goes.base
  obtain ⟨t, happened, base, sch⟩ := goes.happens joined (by omega) found
  have few : (s.sch.sends v b.rank sent).txq.length < 12 := by
    show (s.sch.txq ++ sent.map _).length < 12
    rw [List.length_append, List.length_map]
    omega
  have award := Ev.award_best (e := (Ev.of s.sch).on (Sched.sends v b.rank sent)) found (station.trans joined) few inside eligible best
  refine ⟨t, happened, base, sch.trans ?_⟩
  rw [award]
  exact Ev.settle_settled (Ev.rests_quiet rfl rfl rfl) rfl (settled.of_bookings rfl rfl rfl)

theorem EngineGoesOn.again {i : Instr} {handle w : Nat} {bids left : List Bid} {b : Booking} {s : State} {v : Base}
    {sent : List Msg} {ready : Option Nat} (goes : EngineGoesOn i handle w bids left b s v sent)
    (joined : s.base.station = .joined) (settled : s.sch.Settled) (room : s.sch.txq.length < 12)
    (found : s.sch.bk handle = some b) (queue : s.sch.seekQueue = [⟨handle, ready⟩])
    (none : ∀ y ∈ left, v.isEligible y.station = false) (few : b.attempts < v.cfg.seekLimit)
    (ahead : v.now < readyTime v b.attempts) :
    ∃ t, Happened i s t ∧ t.base = v ∧
      t.sch = { s.sch.sends v b.rank sent with
        engine := .idle, seekQueue := [⟨handle, some (readyTime v b.attempts)⟩] } := by
  obtain ⟨t, happened, base, sch⟩ := goes.happens joined room found
  let e : Ev := (Ev.of s.sch).on (Sched.sends v b.rank sent)
  have ends := (Ev.award_none (e := e) none).trans (Ev.attemptEnds_again (e := e) found queue few)
  refine ⟨t, happened, base, sch.trans ?_⟩
  rw [ends]
  exact Ev.settle_settled (Ev.rests_unexamined rfl (fun keep k => by cases k) fun _ => Sched.noLook_later rfl ahead) rfl
    (settled.of_bookings rfl rfl rfl)

/-- What a spent seek leaves: the booking unplaced, nothing sought, and the notice. -/
def Sched.spent (b : Booking) (k : TrigKind) (u : Nat) (s : Sched) : Sched :=
  { (s.leaveSeek b.handle).modB b.handle (Booking.inState .waiting .absent) with
    engine := .idle
    unplaced := [b.handle]
    triggers := armedWith b.handle k u s.triggers
    notices := s.notices ++ [b.unplacedNotice .seekSpent] }

theorem Ev.spent_settles {v : Base} {s : Sched} {b : Booking} {k : TrigKind} {u : Nat} (settled : s.Settled)
    (found : s.bk b.handle = some b) (seeking : b.state = .seeking) (own : b.cls ≠ .hosted)
    (spent : v.cfg.seekLimit ≤ b.attempts) (none' : ∀ k, s.usable k = false)
    (queue : (s.seekQueue.filter fun q => q.handle != b.handle) = []) :
    ((((Ev.of s).engineIdle.on fun s =>
      { (s.leaveSeek b.handle).modB b.handle (Booking.inState .waiting .absent) with
        unplaced := [b.handle]
        triggers := armedWith b.handle k u s.triggers
        notices := s.notices ++ [b.unplacedNotice .seekSpent] }).askRetry true).settle v) = s.spent b k u := by
  have found' : (s.spent b k u).bk b.handle = some (b.inState .waiting .absent) :=
    Sched.bk_modB_self (s := s.leaveSeek b.handle) (Booking.inState .waiting .absent) (fun _ => rfl) found (by simp [seeking])
  have others (g : Nat) (other : g ≠ b.handle) : (s.spent b k u).bk g = s.bk g :=
    (s.leaveSeek b.handle).bk_modB_other (Booking.inState .waiting .absent) (fun _ => rfl) other
  have kept : (s.spent b k u).Settled := settled.of_one rfl rfl found found' others (by
    simp [Booking.tuneKey, Booking.inState, Booking.occupies, BState.occupies, seeking])
  have noRetry : (s.spent b k u).NoRetry v true :=
    Sched.noRetry_kept rfl found' (Booking.not_hosted own)
      (Sched.choose_unusable (s := s.spent b k u) none' v false none none _)
      (by simp [Nat.not_lt.mpr (show v.cfg.seekLimit ≤ (b.inState .waiting .absent).attempts from spent)])
  refine Ev.settle_settled (Ev.rests_unexamined rfl (fun keep h => ?_) fun _ => Sched.noLook_of_empty queue) rfl kept
  cases h
  exact noRetry

theorem EngineGoesOn.spent {i : Instr} {w : Nat} {bids left : List Bid} {b : Booking} {s : State} {v : Base}
    {sent : List Msg} {ready : Option Nat} {k : TrigKind} {u : Nat} (goes : EngineGoesOn i b.handle w bids left b s v sent)
    (joined : s.base.station = .joined) (settled : s.sch.Settled) (room : s.sch.txq.length < 12)
    (found : s.sch.bk b.handle = some b) (seeking : b.state = .seeking) (queue : s.sch.seekQueue = [⟨b.handle, ready⟩])
    (none : ∀ y ∈ left, v.isEligible y.station = false) (spent : v.cfg.seekLimit ≤ b.attempts) (bare : s.sch.Bare)
    (notices : s.sch.Room 1) (none' : ∀ k, s.sch.usable k = false) (own : b.cls ≠ .hosted)
    (armed : (b.inState .waiting .absent).armed v = some (k, u)) (ahead : v.clock < u) :
    ∃ t, Happened i s t ∧ t.base = v ∧ t.sch = (s.sch.sends v b.rank sent).spent b k u := by
  obtain ⟨t, happened, base, sch⟩ := goes.happens joined room found
  let e : Ev := (Ev.of s.sch).on (Sched.sends v b.rank sent)
  have ends := (Ev.award_none (e := e) none).trans
    (Ev.spent_unplaced (e := e) found seeking own spent none' bare notices armed ahead)
  refine ⟨t, happened, base, sch.trans ?_⟩
  rw [ends]
  exact Ev.spent_settles (s := s.sch.sends v b.rank sent) (settled.of_bookings rfl rfl rfl) found seeking own spent none'
    (by simp [Sched.sends, queue])

/-- Settles O54: the event awards what is left of the bids, or ends the attempt below or at the seek limit. -/
theorem theEngineMovesOn : Obligations.TheEngineMovesOn := by
  constructor
  · intro i handle w bids left x b s v sent joined settled room found goes inside eligible best
    have goes : EngineGoesOn i handle w bids left b s v sent := goes
    obtain ⟨-, cfg, -⟩ := goes.base
    obtain ⟨t, happened, base, sch⟩ := goes.awards joined settled room found inside eligible
      fun y hy may => (best y hy may).imp_right (Bid.better_iff x y).mpr
    refine ⟨t, happened, base, sch.trans ?_⟩
    have messages : (s.sch.txq ++ sent.map fun m => compose v b.rank m none) ++
        [compose v b.rank (.award ⟨b.id, b.attempts, x.station, x.tuner⟩) none] =
        s.sch.txq ++ (sent ++ [Msg.award ⟨b.id, b.attempts, x.station, x.tuner⟩]).map fun m =>
          ⟨s.base.cfg.household, s.base.cfg.station, b.rank, m, none, false⟩ := by
      rw [List.append_assoc, List.map_append, ← cfg]
      rfl
    rw [← messages]
    rfl
  · intro i handle w ready bids left b s v sent joined settled room found seeking queue goes none txq ready'
    have goes : EngineGoesOn i handle w bids left b s v sent := goes
    obtain ⟨-, cfg, -⟩ := goes.base
    obtain ⟨rfl, -⟩ := s.sch.bk_handle found
    have messages : s.sch.sends v b.rank sent = { s.sch with txq := txq } := by
      unfold Sched.sends compose
      rw [cfg]
    constructor
    · intro few ahead
      obtain ⟨t, happened, base, sch⟩ := goes.again joined settled room found queue none (cfg ▸ few) ahead
      refine ⟨t, happened, base, sch.trans ?_⟩
      rw [messages]
      rfl
    · intro spent bare notices noA noB own c kd d armed ahead
      obtain ⟨t, happened, base, sch⟩ := goes.spent joined settled room found seeking queue none (cfg ▸ spent) bare notices
        (Sched.usable_none noA noB) own armed ahead
      have alive : b.state ≠ .ended := by simp [seeking]
      have queue' : (s.sch.seekQueue.filter fun q => q.handle != b.handle) = [] := by simp [queue]
      rw [messages] at sch
      refine ⟨t, happened, base, ?_, fun g other => ?_, ?_⟩
      · rw [sch]
        exact Sched.bk_modB_self (s := s.sch.leaveSeek b.handle) (Booking.inState .waiting .absent) (fun _ => rfl) found alive
      · rw [sch]
        exact (s.sch.leaveSeek b.handle).bk_modB_other (Booking.inState .waiting .absent) (fun _ => rfl) other
      · rw [sch, ← queue']
        rfl

end Sys2Proof.Machine
end

section
/-! SEEK at a bidder: the trial placement, the hold and the BID. -/

namespace Sys2Proof.Machine

/-- Nothing is forgotten of a booking id that no hold and no lapsed record has. -/
theorem Sched.forget_strange {j : BookingId} {s : Sched} (strange : ∀ x ∈ s.holds ++ s.lapsed, x.id ≠ j) : s.forget j = s := by
  have holds : s.holds.filter (fun x => x.id != j) = s.holds :=
    List.filter_eq_self.mpr fun x hx => by simpa using strange x (List.mem_append_left _ hx)
  have lapsed : s.lapsed.filter (fun x => x.id != j) = s.lapsed :=
    List.filter_eq_self.mpr fun x hx => by simpa using strange x (List.mem_append_right _ hx)
  unfold Sched.forget
  rw [holds, lapsed]

/-- A SEEK for a booking id that the station does not know is weighed as it comes (R167). -/
theorem Ev.seekArrives_strange {v : Base} {sender day : Nat} {f : SeekFields} {s : Sched}
    (unknown : ∀ b ∈ s.bookings, b.id ≠ f.id) (strange : ∀ x ∈ s.holds ++ s.lapsed, x.id ≠ f.id) :
    (Ev.of s).seekArrives v sender day f =
      if s.mayBid v sender f.id (SeekFields.details day f) then
        match s.trial v none f.id (SeekFields.details day f) with
        | some p => (Ev.of s).on (Sched.bid v f.id f.number f.window (SeekFields.details day f) p)
        | none => Ev.of s
      else Ev.of s := by
  have nobody : ∀ b ∈ (Ev.of s).s.bookings, Booking.hosts f.id b = false := fun b hb => by
    rw [Bool.eq_false_iff, Ne, Booking.hosts_iff]
    exact fun h => unknown b hb h.2.1
  have first : ((Ev.of s).withdrawn v f.id).finish v = Ev.of s := by
    rw [Ev.withdrawn_none nobody, show (Ev.of s).on (Sched.forget f.id) = Ev.of (s.forget f.id) from rfl,
      Sched.forget_strange strange]
    exact Ev.finish_rests (Ev.rests_quiet rfl rfl rfl)
  unfold Ev.seekArrives
  dsimp only
  simp only [first, Ev.of_s] <;> rfl

theorem Base.heard_rxFault {v : Base} (works : v.rxFault = false) : v.heard.rxFault = false := by
  show (if _ then false else v.rxFault) = false
  rw [works, ite_self]

/-- What may be bid on, for a booking id that no entry has (R167). -/
theorem Sched.mayBid_iff {v : Base} {sender : Nat} {j : BookingId} {d : SeekDetails} {s : Sched} (joined : v.station = .joined)
    (works : v.rxFault = false) (unknown : ∀ b ∈ s.bookings, b.id ≠ j) : s.mayBid v sender j d = true ↔
      v.timed = true ∧ v.isEligible sender = true ∧ d.spanStart + 60 * d.pre + 60 * d.post < d.spanEnd ∧
        d.spanEnd - 60 * d.post ≤ d.spanStart + 60 * d.pre + 86400 ∧ (d.follow = true → d.event ≠ none) ∧
        s.hostedInUse < 16 ∧ s.holds.length < 4 := by
  have own : (s.bookings.any fun b => !b.hosted && b.id == j) = false := by
    rw [List.any_eq_false]
    intro b hb
    simp [unknown b hb]
  have event : (!d.follow || d.event.isSome) = true ↔ (d.follow = true → d.event ≠ none) := by
    cases d.follow <;> cases d.event <;> simp
  simp only [Sched.mayBid, SeekDetails.sound, joined, works, own, Bool.and_eq_true, event, decide_eq_true_eq, beq_self_eq_true,
    Bool.not_false, true_and, and_true]
  constructor
  · rintro ⟨⟨⟨⟨timed, eligible⟩, ⟨short, long⟩, follow⟩, hosted⟩, holds⟩
    exact ⟨timed, eligible, short, by omega, follow, hosted, holds⟩
  · rintro ⟨timed, eligible, short, long, follow, hosted, holds⟩
    exact ⟨⟨⟨⟨timed, eligible⟩, ⟨short, by omega⟩, follow⟩, hosted⟩, holds⟩

theorem SeekFields.details_eq {f : SeekFields} {day : Nat} (flags : f.flags < 4) (later : 1 ≤ day) :
    SeekFields.details day f =
    { service := f.service, mux := f.multiplex, event := if 2 ≤ f.flags then some f.event else none,
      spanStart := (day - 1) * 86400 + 60 * f.spanStart, spanEnd := (day - 1) * 86400 + 60 * f.spanEnd, pre := f.pre,
      post := f.post, rank := f.rank, follow := f.flags == 1 || f.flags == 3 } := by
  have named : f.flags / 2 = 1 ↔ 2 ≤ f.flags := by omega
  have follows : (f.flags % 2 == 1) = (f.flags == 1 || f.flags == 3) := by
    rw [Bool.eq_iff_iff]
    simp only [Bool.or_eq_true, beq_iff_eq]
    omega
  simp only [SeekFields.details, longForm_eq later, named, follows]

/-- The hold is made, and the BID takes its place in the queue (R167, R168). -/
theorem Sched.bid_taken {v : Base} {j : BookingId} {number window : Nat} {d : SeekDetails} {cost rank : Nat} {k : Tuner}
    {s : Sched} (joined : v.station = .joined) (room : s.txq.length < 12) : s.bid v j number window d (cost, k, rank) =
      { s with
        txq := s.txq ++ [⟨v.cfg.household, v.cfg.station, d.rank, .bid ⟨j, number, cost, k.index, rank⟩,
          some (v.now + window * 4096), false⟩]
        holds := s.holds ++ [⟨j, number, d, k, v.now + window * 4096, v.now + window * 4096 + 3 * 4096000⟩] } := by
  have fits : v.station.admits (.bid ⟨j, number, cost, k.index, rank⟩) = true ∧ s.txq.length < 12 := ⟨by rw [joined]; rfl, room⟩
  unfold Sched.bid
  dsimp only
  rw [if_pos ((taken_plain rfl v s).mpr fits), Sched.offer_plain rfl v _ _ s, if_pos fits]
  rfl

/-- Settles O56: a SEEK for an unknown booking id is weighed as it comes. -/
theorem seekArrival : Obligations.SeekArrival := by
  intro h f day s hears admitted settled tag unknown strange v base d start finish may later room
  have run {x : Sched} := hears.dated (f := fun v day => Ev.seekArrives v h.sender day f) (x := x) (exec_seekArrival h f s)
    admitted rfl rfl tag
  have flags : f.flags < 4 := by
    unfold seekAdmitted at admitted
    simp only [Bool.and_eq_true, decide_eq_true_eq] at admitted
    exact admitted.1.1.1.2
  have details : SeekFields.details day f = d := SeekFields.details_eq flags later
  have weighed := Ev.seekArrives_strange (v := v) (sender := h.sender) (day := day) unknown strange
  rw [details] at weighed
  have able : s.sch.mayBid v h.sender f.id d = true ↔ may :=
    Sched.mayBid_iff hears.2.2.2.1 (Base.heard_rxFault hears.2.2.2.2.2) unknown
  constructor
  · intro cost k rank can placed ends
    refine run ?_
    show ((Ev.of s.sch).seekArrives v h.sender day f).settle v = _
    rw [weighed, if_pos (able.mpr can), placed]
    dsimp only
    have bid := Sched.bid_taken (v := v) (j := f.id) (number := f.number) (window := f.window) (d := d) (cost := cost)
      (rank := rank) (k := k) (s := s.sch) hears.2.2.2.1 room
    refine (Ev.settle_settled (Ev.rests_quiet rfl rfl rfl) rfl ?_).trans bid
    show (s.sch.bid v f.id f.number f.window d (cost, k, rank)).Settled
    rw [bid]
    exact settled.of_bookings rfl rfl rfl
  · intro cannot
    refine run ?_
    show ((Ev.of s.sch).seekArrives v h.sender day f).settle v = _
    have idle : (Ev.of s.sch).seekArrives v h.sender day f = Ev.of s.sch := by
      rw [weighed]
      rcases cannot with barred | unplaced
      · rw [if_neg (by rw [able]; exact barred)]
      · rw [unplaced]
        exact ite_self _
    rw [idle]
    exact Ev.settle_settled (Ev.rests_quiet rfl rfl rfl) rfl settled

end Sys2Proof.Machine
end

section
/-! A record just made, placed on a free tuner: AWARD at a bidder, and what BOOK and a guide event make. -/

namespace Sys2Proof.Machine

/-! ## The table with a record more -/

theorem insertBooking_map (f : Booking → Booking) (handle : ∀ b, (f b).handle = b.handle) (b : Booking) (l : List Booking) :
    (insertBooking b l).map f = insertBooking (f b) (l.map f) := by
  induction l with
  | nil => rfl
  | cons c l ih =>
    rw [List.map_cons, insertBooking, insertBooking, handle, handle]
    split
    · rfl
    · rw [List.map_cons, ih]

theorem find?_insertBooking_same {b : Booking} {l : List Booking} (fresh : ∀ c ∈ l, c.handle ≠ b.handle) :
    (insertBooking b l).find? (fun c => c.handle == b.handle) = some b := by
  induction l with
  | nil => simp [insertBooking]
  | cons c l ih =>
    rw [insertBooking]
    split
    · simp
    · rw [List.find?_cons_of_neg (by simpa using fresh c List.mem_cons_self)]
      exact ih fun d hd => fresh d (List.mem_cons_of_mem _ hd)

theorem find?_insertBooking_other {b : Booking} {g : Nat} (other : g ≠ b.handle) (l : List Booking) :
    (insertBooking b l).find? (fun c => c.handle == g) = l.find? fun c => c.handle == g := by
  have passes : (b.handle == g) = false := by simpa using Ne.symm other
  induction l with
  | nil => simp [insertBooking, passes]
  | cons c l ih =>
    rw [insertBooking]
    split
    · rw [List.find?_cons, passes]
    · rw [List.find?_cons, List.find?_cons, ih]

/-- A state whose table is another's with a fresh record more. -/
structure Sched.Adds (s : Sched) (b : Booking) (t : Sched) : Prop where
  bookings : t.bookings = insertBooking b s.bookings
  fresh : ∀ c ∈ s.bookings, c.handle ≠ b.handle

theorem Sched.Adds.bk_same {s t : Sched} {b : Booking} (adds : s.Adds b t) : t.bk b.handle = some b := by
  unfold Sched.bk
  rw [adds.bookings]
  exact find?_insertBooking_same adds.fresh

theorem Sched.Adds.bk_other {s t : Sched} {b : Booking} (adds : s.Adds b t) {g : Nat} (other : g ≠ b.handle) :
    t.bk g = s.bk g := by
  unfold Sched.bk
  rw [adds.bookings]
  exact find?_insertBooking_other other _

/-- The fresh record changes, and no other. -/
theorem Sched.Adds.modB {s t : Sched} {b : Booking} (adds : s.Adds b t) (alive : b.state ≠ .ended) {f : Booking → Booking}
    (handle : ∀ c, (f c).handle = c.handle) :
    t.modB b.handle f = { t with bookings := insertBooking (f b) s.bookings } := by
  have apart : (s.bookings.map fun c => if c.handle == b.handle && c.state != .ended then f c else c) = s.bookings :=
    (List.map_congr_left fun c hc => by simp [adds.fresh c hc]).trans (List.map_id _)
  unfold Sched.modB
  rw [adds.bookings, insertBooking_map _ (fun c => by split <;> simp [handle]), apart]
  simp [alive]

theorem Sched.adds_next {s t : Sched} {b : Booking} (room : s.bookings.length < 128) (handle : b.handle = s.nextHandle)
    (bookings : t.bookings = insertBooking b s.bookings) : s.Adds b t :=
  ⟨bookings, fun c hc same => (s.nextHandle_spec room).2.1 (List.mem_map.mpr ⟨c, hc, same.trans handle⟩)⟩

/-- The lowest free handle, as the statements say it (R2). -/
theorem Sched.nextHandle_lowest {s : Sched} (room : s.bookings.length < 128) :
    s.nextHandle < 128 ∧ (∀ c ∈ s.bookings, c.handle ≠ s.nextHandle) ∧
      ∀ g < s.nextHandle, ∃ c ∈ s.bookings, c.handle = g := by
  obtain ⟨low, fresh, below⟩ := s.nextHandle_spec room
  exact ⟨low, fun c hc same => fresh (List.mem_map.mpr ⟨c, hc, same⟩), fun g hg => List.mem_map.mp (below g hg)⟩

theorem orderAfter_eq (n : Nat) : orderAfter n = if n < 4294967295 then n + 1 else 1 := by
  unfold orderAfter
  split <;> split <;> omega

/-! ## A free tuner -/

/-- A booking whose PREPARE is ahead wants a tuner. -/
theorem Booking.wants {v : Base} {b : Booking} (ended : b.endedAt = none) (sound : b.start < b.finish)
    (ahead : v.clock < b.prepareTime v) : ∃ w, b.want v = some w := by
  have close : b.finish ≤ b.closeTime v := by
    have stop : b.stopTime = b.spanEnd := by simp [Booking.stopTime, ended]
    unfold Booking.closeTime Booking.overrunTime
    rw [stop]
    unfold Booking.spanEnd
    split
    · omega
    · split <;> omega
  have left : max v.clock (b.prepareTime v) < b.closeTime v := by
    have : b.prepareTime v ≤ b.start := by unfold Booking.prepareTime; omega
    omega
  exact ⟨⟨max v.clock (b.prepareTime v), b.closeTime v, b.mux, b.unstartedRank, b.cls⟩,
    by simp only [Booking.want, Booking.tuned, left, if_true, Option.map_some]⟩

theorem Sched.occs_empty {v : Base} {s : Sched} {k : Tuner} (plans : s.plans.get k = []) (live : (s.tuners.get k).live = none)
    (holds : s.holds = []) : s.occs v k = [] := by
  simp [Sched.occs, Sched.planBookings, plans, live, holds]

/-- Where neither tuner has an occupancy, the first usable one is taken, at cost 1 (R90). -/
theorem Sched.choose_free {v : Base} {s : Sched} {k : Tuner} {prefer : Option Tuner} {b : Booking} {w : Want} (auto : Bool)
    (want : b.want v = some w) (occs : ∀ j, s.occs v j = []) (usable : s.usable k = true)
    (first : prefer.getD .A = k ∨ s.usable (prefer.getD .A) = false ∧ (prefer.getD .A).other = k) :
    s.choose v auto prefer none b = some (1, k, 31) := by
  have can : canTake [] w = true := rfl
  have fit : ∃ l, ([prefer.getD .A, (prefer.getD .A).other].filter fun t =>
      s.usable t && (none : Option Tuner) != some t && canTake (s.occs v t) w) = k :: l := by
    rcases first with same | ⟨not, other⟩
    · simp [occs, can, same, usable]
    · simp [occs, can, not, other, usable]
  obtain ⟨l, fit⟩ := fit
  unfold Sched.choose
  rw [want]
  dsimp only
  have nobody : (k :: l).find? (fun t => (s.occs v t).any fun o => o.overlaps w) = none :=
    List.find?_eq_none.mpr fun t _ => by simp [occs]
  rw [fit, nobody]

theorem Ev.leaveWaiting_bare {e : Ev} (h : Nat) (stacked : e.s.stacked = ⟨[], []⟩) (unplaced : e.s.unplaced = []) :
    e.leaveWaiting h = e := by
  have none : (e.on fun s => s.leaveUnplaced h) = e := by
    refine Ev.on_congr (f := fun s => s.leaveUnplaced h) (g := id) ?_
    unfold Sched.leaveUnplaced
    rw [unplaced]
    exact congrArg (fun l => ({ e.s with unplaced := l } : Sched)) unplaced.symm
  rw [Ev.leaveWaiting, none, Ev.leaveStack_empty h stacked]

/-- Where nothing is planned, suspended or unplaced, a booking that a tuner takes is PLANNED alone, its PREPARE armed (R90). -/
theorem Ev.place_planned {v : Base} {o : Open} {h r : Nat} {k : Tuner} {e : Ev} {b : Booking} (bare : e.s.Bare)
    (found : e.s.bk h = some b) (alive : b.state ≠ .ended) (chosen : e.s.choose v o.auto o.prefer o.avoid b = some (1, k, r))
    (ahead : v.clock < b.prepareTime v) : e.place v o h = e.on fun s =>
      { s.modB h (Booking.inState .planned (.tuner k)) with
        plans := s.plans.set k [⟨h, false⟩], triggers := armedWith h .prepare (b.prepareTime v) s.triggers } := by
  obtain ⟨plans, stacked, unplaced⟩ := bare
  have planned : (e.s.modB h (Booking.inState .planned (.tuner k))).bk h = some (b.inState .planned (.tuner k)) :=
    Sched.bk_modB_self _ (fun _ => rfl) found alive
  have waits := Ev.leaveWaiting_bare h stacked unplaced
  have joins : (e.on fun s => (s.modB h (Booking.inState .planned (.tuner k))).joinPlan k ⟨h, false⟩) =
      e.on fun s => { s.modB h (Booking.inState .planned (.tuner k)) with plans := s.plans.set k [⟨h, false⟩] } := by
    refine Ev.on_congr ?_
    have empty : e.s.plans.get k = [] := by rw [plans]; cases k <;> rfl
    simp only [Sched.joinPlan, Two.mod]
    show ({ e.s.modB h _ with plans := e.s.plans.set k (Sched.insertPlan _ _ (e.s.plans.get k)) } : Sched) = _
    rw [empty]
    rfl
  have enters : e.place v o h = e.enterPlan v h k false := by
    unfold Ev.place placeIn
    simp only [found, chosen]
  rw [enters, Ev.enterPlan, waits]
  dsimp only
  rw [joins]
  exact Ev.arm_ahead (k := .prepare) (b := b.inState .planned (.tuner k)) planned rfl ahead

/-- A fresh record is PLANNED on the first tuner that is usable, where nothing else stands on either. -/
theorem Ev.place_free {v : Base} {o : Open} {k : Tuner} {s y : Sched} {b : Booking} (adds : s.Adds b y)
    (alive : b.state ≠ .ended) (bare : y.Bare) (noHolds : y.holds = []) (noLive : ∀ j, (y.tuners.get j).live = none)
    (usable : y.usable k = true) (anywhere : o.avoid = none)
    (first : o.prefer.getD .A = k ∨ y.usable (o.prefer.getD .A) = false ∧ (o.prefer.getD .A).other = k)
    (ended : b.endedAt = none) (sound : b.start < b.finish) (ahead : v.clock < b.prepareTime v) :
    (Ev.of y).place v o b.handle = Ev.of { y with
      bookings := insertBooking (b.inState .planned (.tuner k)) s.bookings
      plans := y.plans.set k [⟨b.handle, false⟩]
      triggers := armedWith b.handle .prepare (b.prepareTime v) y.triggers } := by
  have free (j : Tuner) : y.occs v j = [] :=
    Sched.occs_empty (by rw [bare.1]; cases j <;> rfl) (noLive j) noHolds
  obtain ⟨w, want⟩ := Booking.wants ended sound ahead
  have chosen : y.choose v o.auto o.prefer o.avoid b = some (1, k, 31) := by
    rw [anywhere]
    exact Sched.choose_free o.auto want free usable first
  refine (Ev.place_planned (e := Ev.of y) bare adds.bk_same alive chosen ahead).trans (congrArg Ev.of ?_)
  show ({ y.modB b.handle (Booking.inState .planned (.tuner k)) with plans := _, triggers := _ } : Sched) = _
  rw [adds.modB (f := Booking.inState .planned (.tuner k)) alive fun _ => rfl]
  rfl

/-- The directives still say what stands where no tuner has an occupant, before and after. -/
theorem Sched.Settled.of_vacant {s t : Sched} (settled : s.Settled) (tuners : t.tuners = s.tuners)
    (before : ∀ k, s.occupants k = []) (after : ∀ k, t.occupants k = []) : t.Settled :=
  settled.congr tuners fun k => by rw [before k, after k]

theorem Sched.occupants_unplanned {s : Sched} (plans : s.plans = ⟨[], []⟩) (k : Tuner) : s.occupants k = [] := by
  rw [Sched.occupants_eq, plans]
  cases k <;> rfl

/-- A plan of one entry whose booking does not occupy its tuner leaves both without an occupant. -/
theorem Sched.occupants_planned {s : Sched} {k : Tuner} {h : Nat} {b : Booking} (plans : s.plans = (⟨[], []⟩ : Two _).set k [⟨h, false⟩])
    (found : s.bk h = some b) (idle : b.occupies = false) (j : Tuner) : s.occupants j = [] := by
  rw [Sched.occupants_eq, plans]
  cases j <;> cases k <;> simp [Two.get, Two.set, found, idle, Option.filter]

end Sys2Proof.Machine
end

section
/-! AWARD at a bidder: the checks in order, and the HOSTED entry that it makes. -/

namespace Sys2Proof.Machine

/-! ## The checks (R169) -/

/-- An event that only moves the scheduling state, to one where the directives say what stands. -/
theorem Sched.event_moves {v : Base} {s : Sched} {f : Sched → Sched} (settled : (f s).Settled) :
    (s.event v fun e => e.on f) = f s :=
  Ev.settle_settled (e := (Ev.of s).on f) (Ev.rests_quiet rfl rfl rfl) rfl settled

/-- What is to be awarded is ready to be weighed: no entry has the booking id, and the station is JOINED, TIMED and without
RX-FAULT (R169, checks 1 to 3). -/
structure Sched.Weighs (v : Base) (f : AwardFields) (s : Sched) : Prop where
  unknown : ∀ b ∈ s.bookings, b.id ≠ f.id
  joined : v.station = .joined
  timed : v.timed = true
  works : v.rxFault = false

theorem Sched.awardAnswer_hosts {v : Base} {f : AwardFields} {s : Sched} {b : Booking} (hb : b ∈ s.bookings)
    (hosts : Booking.hosts f.id b = true) : s.awardAnswer v f = .again := by
  have some : s.bookings.any (Booking.hosts f.id) = true := List.any_eq_true.mpr ⟨b, hb, hosts⟩
  simp [Sched.awardAnswer, some]

theorem Sched.awardAnswer_ended {v : Base} {f : AwardFields} {s : Sched} {b : Booking}
    (none : ∀ c ∈ s.bookings, Booking.hosts f.id c = false) (hb : b ∈ s.bookings) (id : b.id = f.id) :
    s.awardAnswer v f = .decline .stale (s.heldFor f.id f.number) := by
  have hosts : s.bookings.any (Booking.hosts f.id) = false := List.any_eq_false.mpr fun c hc => by simp [none c hc]
  have has : (s.bookings.any fun b => b.id == f.id) = true := List.any_eq_true.mpr ⟨b, hb, beq_iff_eq.mpr id⟩
  simp only [Sched.awardAnswer, hosts, has, Bool.false_eq_true, if_false, if_true]

theorem Sched.awardAnswer_unknown {v : Base} {f : AwardFields} {s : Sched} (unknown : ∀ b ∈ s.bookings, b.id ≠ f.id) :
    s.awardAnswer v f =
      if v.station ≠ .joined || !v.timed || v.rxFault then .decline .notReady (s.heldFor f.id f.number)
      else
        match s.heldFor f.id f.number with
        | none => .decline .stale none
        | some x =>
          if 16 ≤ s.hostedInUse then .decline .hostedFull (some x)
          else if 128 ≤ s.bookings.length then .decline .noCapacity (some x)
          else if ((s.consume f.id f.number).trial v (some (Tuner.ofIndex f.tuner)) f.id x.details).isNone then
            .decline .noCapacity (some x)
          else .accept x := by
  have hosts : s.bookings.any (Booking.hosts f.id) = false := by
    refine List.any_eq_false.mpr fun c hc => ?_
    simp [Booking.hosts, unknown c hc]
  have has : (s.bookings.any fun b => b.id == f.id) = false := List.any_eq_false.mpr fun c hc => by simp [unknown c hc]
  unfold Sched.awardAnswer
  simp only [hosts, has, Bool.false_eq_true, if_false]
  cases held : s.heldFor f.id f.number <;> rfl

theorem Sched.Weighs.answer {v : Base} {f : AwardFields} {s : Sched} (weighs : s.Weighs v f) : s.awardAnswer v f =
    match s.heldFor f.id f.number with
    | none => .decline .stale none
    | some x =>
      if 16 ≤ s.hostedInUse then .decline .hostedFull (some x)
      else if 128 ≤ s.bookings.length then .decline .noCapacity (some x)
      else if ((s.consume f.id f.number).trial v (some (Tuner.ofIndex f.tuner)) f.id x.details).isNone then
        .decline .noCapacity (some x)
      else .accept x := by
  rw [Sched.awardAnswer_unknown weighs.unknown]
  exact if_neg (by simp [weighs.joined, weighs.timed, weighs.works])

/-- An answer to an AWARD takes its place in the queue at the rank that the record kept gives (R128, R169). -/
theorem Sched.offer_answer {v : Base} {m : Msg} {s : Sched} (plain : m.isRoll = false) (joined : v.station = .joined)
    (room : s.txq.length < 12) (rank : Nat) :
    s.offer v rank m none = { s with txq := s.txq ++ [⟨v.cfg.household, v.cfg.station, rank, m, none, false⟩] } :=
  (Sched.offer_plain plain v rank none s).trans (if_pos ⟨by rw [joined]; rfl, room⟩)

theorem awardArrival_answered (h : FrameHead) (f : AwardFields) (s : State) (hears : s.Hears h)
    (admitted : awardAdmitted h f = true) (named : f.awardee = s.base.cfg.station) {t : Sched}
    (effect : s.sch.awardArrives s.base.heard f = t) :
    exec (.awardArrival h f) s = .next { s with base := s.base.heard, sch := t } := by
  rw [State.Hears.onSched hears (exec_awardArrival h f s) admitted (beq_iff_eq.mpr named) rfl, ← effect]
  rfl

/-- An AWARD that is declined, where the record is not consumed. -/
theorem Sched.awardArrives_declined {v : Base} {f : AwardFields} {s : Sched} {r : DeclineReason} {held : Option Hold}
    (answer : s.awardAnswer v f = .decline r held) (kept : r ≠ .hostedFull ∧ r ≠ .noCapacity) (joined : v.station = .joined)
    (room : s.txq.length < 12) (settled : s.Settled) : s.awardArrives v f =
      { s with txq := s.txq ++
          [⟨v.cfg.household, v.cfg.station, answerRank held, .decline f.id f.number r.code, none, false⟩] } := by
  have declines : s.declineAward v f r held = { s with txq := s.txq ++
      [⟨v.cfg.household, v.cfg.station, answerRank held, .decline f.id f.number r.code, none, false⟩] } := by
    unfold Sched.declineAward
    rw [if_neg (by simp [kept])]
    exact Sched.offer_answer rfl joined room _
  unfold Sched.awardArrives
  rw [answer]
  dsimp only
  rw [Sched.event_moves (f := Sched.declineAward v f r held)] <;> rw [declines]
  exact settled.of_bookings rfl rfl rfl

/-- One where it is. -/
theorem Sched.awardArrives_consumed {v : Base} {f : AwardFields} {s : Sched} {r : DeclineReason} {held : Option Hold}
    (answer : s.awardAnswer v f = .decline r held) (consumed : r = .hostedFull ∨ r = .noCapacity)
    (joined : v.station = .joined) (room : s.txq.length < 12) (settled : s.Settled) : s.awardArrives v f =
      { s.consume f.id f.number with txq := s.txq ++
          [⟨v.cfg.household, v.cfg.station, answerRank held, .decline f.id f.number r.code, none, false⟩] } := by
  have declines : s.declineAward v f r held = { s.consume f.id f.number with txq := s.txq ++
      [⟨v.cfg.household, v.cfg.station, answerRank held, .decline f.id f.number r.code, none, false⟩] } := by
    unfold Sched.declineAward
    rw [if_pos consumed]
    exact Sched.offer_answer (s := s.consume f.id f.number) rfl joined room _
  unfold Sched.awardArrives
  rw [answer]
  dsimp only
  rw [Sched.event_moves (f := Sched.declineAward v f r held)] <;> rw [declines]
  exact settled.of_bookings rfl rfl rfl

/-- An AWARD for a booking that the station hosts already. -/
theorem Sched.awardArrives_again {v : Base} {f : AwardFields} {s : Sched} (answer : s.awardAnswer v f = .again)
    (joined : v.station = .joined) (room : s.txq.length < 12) (settled : s.Settled) : s.awardArrives v f =
      { s with txq := s.txq ++
          [⟨v.cfg.household, v.cfg.station, answerRank (s.heldFor f.id f.number), .take f.id f.number, none, false⟩] } := by
  have takes : s.takeAward v f (s.heldFor f.id f.number) = { s with txq := s.txq ++
      [⟨v.cfg.household, v.cfg.station, answerRank (s.heldFor f.id f.number), .take f.id f.number, none, false⟩] } :=
    Sched.offer_answer rfl joined room _
  unfold Sched.awardArrives
  rw [answer]
  dsimp only
  rw [Sched.event_moves (f := Sched.takeAward v f (s.heldFor f.id f.number))] <;> rw [takes]
  exact settled.of_bookings rfl rfl rfl

/-- The answers to an AWARD, check by check. -/
theorem awardArrival_checks (h : FrameHead) (f : AwardFields) (s : State) (hears : s.Hears h)
    (admitted : awardAdmitted h f = true) (named : f.awardee = s.base.cfg.station) (settled : s.sch.Settled)
    (room : s.sch.txq.length < 12) :
    let held := (s.sch.holds ++ s.sch.lapsed).find? fun x => x.id == f.id && x.number == f.number
    let rank := (held.map fun x => x.details.rank).getD 31
    let answered (m : Msg) : Prop :=
      exec (.awardArrival h f) s = .next
        { s with
          base := s.base.heard
          sch := { s.sch with
            txq := s.sch.txq ++ [⟨s.base.cfg.household, s.base.cfg.station, rank, m, none, false⟩] } }
    let hosts := ∃ b ∈ s.sch.bookings, b.cls = .hosted ∧ b.id = f.id ∧ b.state ≠ .ended
    let has := ∃ b ∈ s.sch.bookings, b.id = f.id
    (hosts → answered (.take f.id f.number)) ∧
    (¬hosts → has → answered (.decline f.id f.number 1)) ∧
    (¬has → s.base.timed = false → answered (.decline f.id f.number 3)) ∧
    (¬has → s.base.timed = true → held = none → answered (.decline f.id f.number 1)) ∧
    (¬has → s.base.timed = true → ∀ x, held = some x →
      let keep : Hold → Bool := fun y => !(y.id == f.id && y.number == f.number)
      let left : Sched := { s.sch with holds := s.sch.holds.filter keep, lapsed := s.sch.lapsed.filter keep }
      let declined (reason : Nat) : Prop :=
        exec (.awardArrival h f) s = .next
          { s with
            base := s.base.heard
            sch := { left with
              txq := s.sch.txq ++
                [⟨s.base.cfg.household, s.base.cfg.station, x.details.rank, .decline f.id f.number reason, none, false⟩] } }
      let full := 16 ≤ (s.sch.bookings.filter fun b => b.cls == .hosted).length
      (full → declined 2) ∧
      (¬full → 128 ≤ s.sch.bookings.length ∨
          left.trial s.base.heard (some (if f.tuner = 0 then .A else .B)) f.id x.details = none → declined 0)) := by
  intro held rank answered hosts has
  have run {t : Sched} := awardArrival_answered h f s hears admitted named (t := t)
  have joined : s.base.heard.station = .joined := hears.2.2.2.1
  have works : s.base.heard.rxFault = false := Base.heard_rxFault hears.2.2.2.2.2
  have strange (no : ¬has) : ∀ b ∈ s.sch.bookings, b.id ≠ f.id := fun b hb id => no ⟨b, hb, id⟩
  have weighs (no : ¬has) (timed : s.base.timed = true) : s.sch.Weighs s.base.heard f := ⟨strange no, joined, timed, works⟩
  refine ⟨?_, ?_, ?_, ?_, ?_⟩
  · rintro ⟨b, hb, hosts⟩
    exact run (Sched.awardArrives_again (Sched.awardAnswer_hosts hb ((Booking.hosts_iff f.id b).mpr hosts)) joined room settled)
  · rintro no ⟨b, hb, id⟩
    have nobody : ∀ c ∈ s.sch.bookings, Booking.hosts f.id c = false := fun c hc => by
      rw [Bool.eq_false_iff, Ne, Booking.hosts_iff]
      exact fun hosts => no ⟨c, hc, hosts⟩
    exact run (Sched.awardArrives_declined (Sched.awardAnswer_ended nobody hb id) (by decide) joined room settled)
  · intro no untimed
    have answer : s.sch.awardAnswer s.base.heard f = .decline .notReady (s.sch.heldFor f.id f.number) := by
      rw [Sched.awardAnswer_unknown (strange no)]
      exact if_pos (by simp [show s.base.heard.timed = false from untimed])
    exact run (Sched.awardArrives_declined answer (by decide) joined room settled)
  · intro no timed nothing
    have answer : s.sch.awardAnswer s.base.heard f = .decline .stale none := by
      rw [(weighs no timed).answer, show s.sch.heldFor f.id f.number = none from nothing]
    show exec (.awardArrival h f) s = .next { s with
      base := s.base.heard
      sch := { s.sch with
        txq := s.sch.txq ++
          [⟨s.base.cfg.household, s.base.cfg.station, rank, .decline f.id f.number 1, none, false⟩] } }
    rw [show rank = 31 by simp [rank, nothing]]
    exact run (Sched.awardArrives_declined answer (by decide) joined room settled)
  · intro no timed x found keep left declined full
    have found' : s.sch.heldFor f.id f.number = some x := found
    constructor
    · intro many
      have answer : s.sch.awardAnswer s.base.heard f = .decline .hostedFull (some x) := by
        rw [(weighs no timed).answer, found']
        exact if_pos many
      exact run (Sched.awardArrives_consumed answer (.inl rfl) joined room settled)
    · intro few cause
      have answer : s.sch.awardAnswer s.base.heard f = .decline .noCapacity (some x) := by
        rw [(weighs no timed).answer, found']
        refine (if_neg few).trans ?_
        by_cases table : 128 ≤ s.sch.bookings.length
        · exact if_pos table
        · rw [if_neg table]
          have unplaced := cause.resolve_left table
          exact if_pos (by
            rw [show ((s.sch.consume f.id f.number).trial s.base.heard (some (Tuner.ofIndex f.tuner)) f.id x.details) = none from
              unplaced]
            rfl)
      exact run (Sched.awardArrives_consumed answer (.inr rfl) joined room settled)

/-! ## The entry that an AWARD makes -/

/-- The record that a hold becomes (R170). -/
def Hold.entry (x : Hold) (handle order : Nat) : Booking := (x.details.draft x.id).enrolled handle order x.id

theorem Hold.entry_prepareTime (v : Base) (x : Hold) (handle order : Nat) :
    (x.entry handle order).prepareTime v = x.details.spanStart - v.cfg.tuneLead := by
  show x.details.spanStart + 60 * x.details.pre - 60 * x.details.pre - v.cfg.tuneLead = _
  rw [Nat.add_sub_cancel]

/-- The state of a station that hosts a booking on a tuner where nothing was planned. -/
def Sched.hosting (v : Base) (k : Tuner) (x : Hold) (s : Sched) : Sched :=
  let b := (x.entry s.nextHandle s.orderCtr).inState .planned (.tuner k)
  { s with
    bookings := insertBooking b s.bookings
    orderCtr := orderAfter s.orderCtr
    plans := s.plans.set k [⟨b.handle, false⟩]
    triggers := armedWith b.handle .prepare (x.details.spanStart - v.cfg.tuneLead) s.triggers }

theorem Ev.host_free {v : Base} {k : Tuner} {x : Hold} {s : Sched} (bare : s.Bare) (room : s.bookings.length < 128)
    (few : s.hostedInUse < 16) (sound : (x.entry s.nextHandle s.orderCtr).start < (x.entry s.nextHandle s.orderCtr).finish)
    (noHolds : s.holds = []) (usable : s.usable k = true) (noLive : ∀ j, (s.tuners.get j).live = none)
    (ahead : v.clock < x.details.spanStart - v.cfg.tuneLead) : (Ev.of s).host v k x = Ev.of (s.hosting v k x) := by
  let b := x.entry s.nextHandle s.orderCtr
  let y : Sched := { s with bookings := insertBooking b s.bookings, orderCtr := orderAfter s.orderCtr }
  have fits : s.roomFor (x.details.draft x.id).cls = true := by
    simp [Sched.roomFor, SeekDetails.draft, room, few]
  have made : s.createHosted (x.details.draft x.id) = y := Sched.createHosted_of_room fits
  have adds : s.Adds b y := Sched.adds_next room rfl rfl
  have ahead' : v.clock < b.prepareTime v := by rw [Hold.entry_prepareTime]; exact ahead
  have placed := Ev.place_free (v := v) (o := { prefer := some k }) (k := k) adds nofun bare noHolds noLive usable rfl (.inl rfl)
    rfl sound ahead'
  unfold Ev.host
  rw [show (Ev.of s).on (fun s => s.createHosted (x.details.draft x.id)) = Ev.of y from congrArg Ev.of made]
  refine placed.trans ?_
  rw [Hold.entry_prepareTime]
  rfl

theorem Tuner.ofIndex_index (k : Tuner) : Tuner.ofIndex k.index = k := by cases k <;> rfl

/-- An AWARD for the station's one hold, where nothing is planned and its tuner is usable: the entry is made, and TAKE is
offered (R169, R170). -/
theorem awardArrival_hosts (h : FrameHead) (f : AwardFields) (x : Hold) (k : Tuner) (s : State) (hears : s.Hears h)
    (admitted : awardAdmitted h f = true) (named : f.awardee = s.base.cfg.station) (settled : s.sch.Settled)
    (bare : s.sch.Bare) (room : s.sch.txq.length < 12) (weighs : s.sch.Weighs s.base.heard f) (few : s.sch.hostedInUse < 16)
    (table : s.sch.bookings.length < 128) (holds : s.sch.holds = [x]) (lapsed : s.sch.lapsed = []) (id : x.id = f.id)
    (number : x.number = f.number) (tuner : f.tuner = k.index) (usable : s.sch.usable k = true)
    (noLive : ∀ j, (s.sch.tuners.get j).live = none)
    (sound : x.details.spanStart + 60 * x.details.pre < x.details.spanEnd - 60 * x.details.post)
    (ahead : s.base.clock < x.details.spanStart - s.base.cfg.tuneLead) :
    let v := s.base.heard
    let y : Sched := ({ s.sch with holds := [], lapsed := [] } : Sched).hosting v k x
    exec (.awardArrival h f) s = .next { s with
      base := v
      sch := { y with txq := y.txq ++ [⟨v.cfg.household, v.cfg.station, x.details.rank, .take f.id f.number, none, false⟩] } } := by
  intro v y
  let z : Sched := { s.sch with holds := [], lapsed := [] }
  have held : s.sch.heldFor f.id f.number = some x := by simp [Sched.heldFor, holds, id, number]
  have consumed : s.sch.consume f.id f.number = z := by
    simp [Sched.consume, holds, lapsed, id, number, z]
  have named' : Tuner.ofIndex f.tuner = k := by rw [tuner, Tuner.ofIndex_index]
  have free (j : Tuner) : z.occs v j = [] :=
    Sched.occs_empty (by show s.sch.plans.get j = []; rw [bare.1]; cases j <;> rfl) (noLive j) rfl
  have ahead' : v.clock < (x.details.draft f.id).prepareTime v := by
    show v.clock < x.details.spanStart + 60 * x.details.pre - 60 * x.details.pre - v.cfg.tuneLead
    rw [Nat.add_sub_cancel]
    exact ahead
  obtain ⟨w, want⟩ := Booking.wants (b := x.details.draft f.id) rfl sound ahead'
  have placed : z.trial v (some k) f.id x.details = some (1, k, 31) := Sched.choose_free false want free usable (.inl rfl)
  have answer : s.sch.awardAnswer v f = .accept x := by
    rw [weighs.answer, held]
    refine (if_neg (Nat.not_le.mpr few)).trans ((if_neg (Nat.not_le.mpr table)).trans (if_neg ?_))
    rw [consumed, named', placed]
    simp
  have hosted : (Ev.of z).host v k x = Ev.of y := Ev.host_free bare table few sound rfl usable noLive ahead
  have found : y.bk z.nextHandle = some ((x.entry z.nextHandle z.orderCtr).inState .planned (.tuner k)) :=
    (Sched.adds_next (s := z) (b := (x.entry z.nextHandle z.orderCtr).inState .planned (.tuner k)) table rfl rfl).bk_same
  have stands : y.Settled := settled.of_vacant rfl (Sched.occupants_unplanned bare.1)
    (Sched.occupants_planned (h := z.nextHandle) (k := k)
      (by show s.sch.plans.set k [⟨z.nextHandle, false⟩] = _; rw [bare.1]) found rfl)
  have makes : (s.sch.event v fun e => (e.on (Sched.consume f.id f.number)).host v (Tuner.ofIndex f.tuner) x) = y := by
    rw [Sched.event, named', show (Ev.of s.sch).on (Sched.consume f.id f.number) = Ev.of z from congrArg Ev.of consumed,
      hosted]
    exact Ev.settle_settled (e := Ev.of y) (Ev.rests_quiet rfl rfl rfl) rfl stands
  refine awardArrival_answered h f s hears admitted named ?_
  unfold Sched.awardArrives
  rw [answer]
  dsimp only
  rw [makes]
  exact Sched.offer_answer (v := v) (m := .take f.id f.number) (s := y) rfl hears.2.2.2.1 room _

/-- Settles O57: the checks in order, and the entry that is made. -/
theorem awardArrival : Obligations.AwardArrival := by
  refine ⟨awardArrival_checks, ?_⟩
  intro h f x k s hears inv admitted named settled bare room timed unknown few table holds lapsed id number tuner usable
    noA noB d start finish sound ahead
  have noLive (j : Tuner) : (s.sch.tuners.get j).live = none := by
    cases j
    · exact noA
    · exact noB
  have run := awardArrival_hosts h f x k s hears admitted named settled bare room
    ⟨unknown, hears.2.2.2.1, timed, Base.heard_rxFault hears.2.2.2.2.2⟩ few table holds lapsed id number tuner usable noLive
    sound ahead
  refine ⟨_, (x.entry s.sch.nextHandle s.sch.orderCtr).inState .planned (.tuner k), .of run (s.beside_of _ _), rfl,
    Sched.nextHandle_lowest table, ?_, ?_⟩
  · rw [← id]
    rfl
  · rw [← orderAfter_eq, ← lapsed]
    rfl

end Sys2Proof.Machine
end

section
/-! Steps 1 to 3 of the placement order, in full. -/

namespace Sys2Proof.Machine

/-! ## What a tuner can take (R88) -/

/-- Of a nonempty list, one whose figure is the greatest. -/
theorem exists_greatest {α : Type} (f : α → Nat) : ∀ {l : List α}, l ≠ [] → ∃ m ∈ l, ∀ x ∈ l, f x ≤ f m
  | [], h => absurd rfl h
  | [a], _ => ⟨a, List.mem_singleton_self a, fun x hx => Nat.le_of_eq (congrArg f (List.mem_singleton.mp hx))⟩
  | a :: b :: l, _ => by
    obtain ⟨m, hm, greatest⟩ := exists_greatest f (l := b :: l) nofun
    rcases Nat.le_total (f a) (f m) with below | above
    · refine ⟨m, List.mem_cons_of_mem _ hm, fun x hx => ?_⟩
      rcases List.mem_cons.mp hx with rfl | hx
      · exact below
      · exact greatest x hx
    · refine ⟨a, List.mem_cons_self, fun x hx => ?_⟩
      rcases List.mem_cons.mp hx with rfl | hx
      · exact Nat.le_refl _
      · exact Nat.le_trans (greatest x hx) above

/-- The occupancies of a list that count against the captures at an instant. -/
def countedAt (l : List Occ) (u : Nat) : Nat := (l.filter fun o => o.counts && o.standsAt u).length

theorem Occ.standsAt_iff (o : Occ) (u : Nat) : o.standsAt u = true ↔ o.lo ≤ u ∧ ∀ h, o.hi = some h → u < h := by
  unfold Occ.standsAt
  cases o.hi <;> simp

/-- The number that stands at an instant is reached at the start of one of them, or of the interval. -/
theorem countedAt_le_at_start (l : List Occ) {lo u : Nat} (after : lo ≤ u) :
    ∃ p ∈ lo :: l.map fun o => max lo o.lo, countedAt l u ≤ countedAt l p := by
  by_cases nothing : (l.filter fun o => o.counts && o.standsAt u) = []
  · refine ⟨lo, List.mem_cons_self, ?_⟩
    unfold countedAt
    rw [nothing]
    exact Nat.zero_le _
  · obtain ⟨m, hm, last⟩ := exists_greatest Occ.lo nothing
    obtain ⟨mem, stands⟩ := List.mem_filter.mp hm
    refine ⟨max lo m.lo, List.mem_cons_of_mem _ (List.mem_map.mpr ⟨m, mem, rfl⟩), ?_⟩
    unfold countedAt
    rw [← List.countP_eq_length_filter, ← List.countP_eq_length_filter]
    refine List.countP_mono_left fun o ho here => ?_
    have late := last o (List.mem_filter.mpr ⟨ho, here⟩)
    simp only [Bool.and_eq_true, Occ.standsAt_iff] at here stands ⊢
    obtain ⟨counts, begun, open'⟩ := here
    exact ⟨counts, Nat.le_trans late (Nat.le_max_right _ _),
      fun h hh => Nat.lt_of_le_of_lt (Nat.max_le.mpr ⟨after, stands.2.1⟩) (open' h hh)⟩

theorem canTake_iff {l : List Occ} {w : Want} (some : w.lo < w.hi) : canTake l w = true ↔
    (∀ o ∈ l.filter fun o => o.overlaps w, o.mux = w.mux) ∧
      ∀ u, w.lo ≤ u → u < w.hi → countedAt (l.filter fun o => o.overlaps w) u ≤ 3 := by
  unfold canTake
  simp only [Bool.and_eq_true, List.all_eq_true, beq_iff_eq, decide_eq_true_eq]
  refine and_congr_right fun _ => ⟨fun starts u after before => ?_, fun always p hp => ?_⟩
  · obtain ⟨p, hp, most⟩ := countedAt_le_at_start (l.filter fun o => o.overlaps w) after
    exact Nat.le_trans most (starts p hp)
  · rcases List.mem_cons.mp hp with rfl | hp
    · exact always _ (Nat.le_refl _) some
    · obtain ⟨o, ho, rfl⟩ := List.mem_map.mp hp
      have meets : o.lo < w.hi := by
        have := (List.mem_filter.mp ho).2
        simp only [Occ.overlaps, Bool.and_eq_true, decide_eq_true_eq] at this
        exact this.1
      exact always _ (Nat.le_max_left _ _) (Nat.max_lt.mpr ⟨some, meets⟩)

theorem Booking.want_interval {v : Base} {b : Booking} {w : Want} (want : b.want v = some w) : w.lo < w.hi := by
  unfold Booking.want Booking.tuned at want
  dsimp only at want
  split at want
  · cases want
    assumption
  · cases want

/-! ## Steps 1 and 2 -/

/-- A tuner that steps 1 and 2 weigh can take what is wanted (R90, R100). -/
def Sched.fits (v : Base) (s : Sched) (avoid : Option Tuner) (w : Want) (k : Tuner) : Bool :=
  s.usable k && avoid != some k && canTake (s.occs v k) w

/-- Something on the tuner overlaps what is wanted. -/
def Sched.shared (v : Base) (s : Sched) (w : Want) (k : Tuner) : Bool := (s.occs v k).any fun o => o.overlaps w

theorem Sched.shared_iff (v : Base) (s : Sched) (w : Want) (k : Tuner) :
    s.shared v w k = true ↔ (s.occs v k).filter (fun o => o.overlaps w) ≠ [] := by
  simp [Sched.shared, List.filter_eq_nil_iff]

/-- The placement order without a tuner to be tried first. -/
theorem Sched.choose_eq {v : Base} {s : Sched} {b : Booking} {w : Want} (want : b.want v = some w) (auto : Bool)
    (avoid : Option Tuner) : s.choose v auto none avoid b =
      match ([Tuner.A, Tuner.B].filter (s.fits v avoid w)).find? (s.shared v w) with
      | some t => some (0, t, 31)
      | none =>
        match [Tuner.A, Tuner.B].filter (s.fits v avoid w) with
        | t :: _ => some (1, t, 31)
        | [] => (s.displaceChoice v auto none avoid w).map fun p => (2, p.1, p.2) := by
  unfold Sched.choose
  rw [want]
  rfl

theorem Sched.choose_shared {v : Base} {s : Sched} {b : Booking} {w : Want} {avoid : Option Tuner} {k : Tuner}
    (want : b.want v = some w) (auto : Bool) (fits : s.fits v avoid w k = true) (shared : s.shared v w k = true)
    (lower : k = .B → ¬(s.fits v avoid w .A = true ∧ s.shared v w .A = true)) :
    s.choose v auto none avoid b = some (0, k, 31) := by
  have found : ([Tuner.A, Tuner.B].filter (s.fits v avoid w)).find? (s.shared v w) = some k := by
    cases k with
    | A => simp [fits, shared]
    | B =>
      by_cases fitsA : s.fits v avoid w .A = true
      · have sharedA : s.shared v w .A = false := by simpa [fitsA] using lower rfl
        simp [fits, shared, fitsA, sharedA]
      · simp [fits, shared, fitsA]
  rw [Sched.choose_eq want, found]

theorem Sched.choose_unshared {v : Base} {s : Sched} {b : Booking} {w : Want} {avoid : Option Tuner} {k : Tuner}
    (want : b.want v = some w) (auto : Bool) (fits : s.fits v avoid w k = true)
    (alone : ∀ j, s.fits v avoid w j = true → s.shared v w j = false) (lower : k = .B → s.fits v avoid w .A = false) :
    s.choose v auto none avoid b = some (1, k, 31) := by
  have nobody : ([Tuner.A, Tuner.B].filter (s.fits v avoid w)).find? (s.shared v w) = none :=
    List.find?_eq_none.mpr fun j hj => by simp [alone j (List.mem_filter.mp hj).2]
  rw [Sched.choose_eq want, nobody]
  cases k with
  | A => simp [fits]
  | B => simp [fits, lower rfl]

theorem Sched.choose_displacing {v : Base} {s : Sched} {b : Booking} {w : Want} {avoid : Option Tuner}
    (want : b.want v = some w) (auto : Bool) (noFit : ∀ j, s.fits v avoid w j = false) :
    s.choose v auto none avoid b = (s.displaceChoice v auto none avoid w).map fun p => (2, p.1, p.2) := by
  rw [Sched.choose_eq want]
  simp [noFit]

/-! ## Step 3 -/

theorem foldl_min_eq_iff {l : List Occ} {n r : Nat} : l.foldl (fun r o => min r o.rank) n = r ↔
    r ≤ n ∧ (r = n ∨ ∃ o ∈ l, o.rank = r) ∧ ∀ o ∈ l, r ≤ o.rank := by
  induction l generalizing n with
  | nil => simp; omega
  | cons o l ih =>
    rw [List.foldl_cons, ih]
    simp only [List.mem_cons, exists_eq_or_imp, forall_eq_or_imp]
    constructor
    · rintro ⟨below, reached, low⟩
      refine ⟨by omega, ?_, by omega, low⟩
      rcases reached with same | reached
      · by_cases first : o.rank = r
        · exact .inr (.inl first)
        · exact .inl (by omega)
      · exact .inr (.inr reached)
    · rintro ⟨below, reached, first, low⟩
      refine ⟨by omega, ?_, low⟩
      rcases reached with same | same | reached
      · exact .inl (by omega)
      · exact .inl (by omega)
      · exact .inr reached

/-- What step 3 weighs of a tuner, one not to come back to left out (R91, R100). -/
def Sched.weighed (v : Base) (s : Sched) (auto : Bool) (avoid : Option Tuner) (w : Want) (k : Tuner) : Option Nat :=
  if avoid = some k then none else s.displaceRank v auto w k

theorem Sched.displaceChoice_eq (v : Base) (s : Sched) (auto : Bool) (avoid : Option Tuner) (w : Want) :
    s.displaceChoice v auto none avoid w =
      match s.weighed v auto avoid w .A, s.weighed v auto avoid w .B with
      | some r, some q => if r < q then some (.B, q) else some (.A, r)
      | some r, none => some (.A, r)
      | none, some q => some (.B, q)
      | none, none => none := by
  unfold Sched.displaceChoice
  simp only [Option.isNone_none, Bool.true_and, decide_eq_true_eq]
  rfl

/-- The tuner whose best incumbent is the worse is taken, the lower of equals. -/
theorem Sched.displaceChoice_some {v : Base} {s : Sched} {auto : Bool} {avoid : Option Tuner} {w : Want} {k : Tuner} {rank : Nat}
    (here : s.weighed v auto avoid w k = some rank)
    (best : ∀ r, s.weighed v auto avoid w k.other = some r → r < rank ∨ (r = rank ∧ k = .A)) :
    s.displaceChoice v auto none avoid w = some (k, rank) := by
  rw [Sched.displaceChoice_eq]
  cases k with
  | A =>
    rw [here]
    cases other : s.weighed v auto avoid w .B with
    | none => rfl
    | some q =>
      have := best q other
      exact if_neg (by omega)
  | B =>
    rw [here]
    cases other : s.weighed v auto avoid w .A with
    | none => rfl
    | some r =>
      have lower : r < rank := (best r other).resolve_right (fun h => nomatch h.2)
      exact if_pos lower

theorem Sched.displaceChoice_none {v : Base} {s : Sched} {auto : Bool} {avoid : Option Tuner} {w : Want}
    (none' : ∀ k, s.weighed v auto avoid w k = none) : s.displaceChoice v auto none avoid w = none := by
  rw [Sched.displaceChoice_eq, none', none']

theorem Occ.yields_iff (v : Base) (auto : Bool) (w : Want) (o : Occ) : o.yields v auto w = true ↔
    ∃ c, o.who = .booking c ∧ (auto = true ∨ v.auto c.cls w.cls = true) ∧ w.rank < o.rank := by
  unfold Occ.yields
  cases h : o.who <;> simp

/-- A tuner's figure in step 3 (R91): its incumbents all yield, those of the wanted multiplex leave a capture free, and the
figure is the best of the incumbents' ranks. -/
theorem Sched.weighed_iff {v : Base} {s : Sched} {auto : Bool} {avoid : Option Tuner} {w : Want} (some' : w.lo < w.hi) (k : Tuner)
    (rank : Nat) :
    let meets := (s.occs v k).filter fun o => o.overlaps w
    let others := meets.filter fun o => o.mux != w.mux
    s.weighed v auto avoid w k = some rank ↔ s.usable k = true ∧ avoid ≠ some k ∧ others ≠ [] ∧
      (∀ o ∈ others, ∃ c, o.who = .booking c ∧ (auto = true ∨ v.auto c.cls w.cls = true) ∧ w.rank < o.rank ∧ rank ≤ o.rank) ∧
      rank ≤ 31 ∧ (rank = 31 ∨ ∃ o ∈ others, o.rank = rank) ∧
      ∀ u, w.lo ≤ u → u < w.hi → (meets.filter fun o => o.mux == w.mux && o.counts && o.standsAt u).length ≤ 3 := by
  intro meets others
  have incumbents : s.incumbents v w k = others := by
    simp only [Sched.incumbents, others, meets, List.filter_filter, Bool.and_comm]
  have free : canTake ((s.occs v k).filter fun o => o.mux == w.mux) w = true ↔
      ∀ u, w.lo ≤ u → u < w.hi → (meets.filter fun o => o.mux == w.mux && o.counts && o.standsAt u).length ≤ 3 := by
    have counted (u : Nat) : countedAt (((s.occs v k).filter fun o => o.mux == w.mux).filter fun o => o.overlaps w) u =
        (meets.filter fun o => o.mux == w.mux && o.counts && o.standsAt u).length := by
      simp only [countedAt, meets, List.filter_filter]
      refine congrArg List.length (List.filter_congr fun o _ => ?_)
      cases o.mux == w.mux <;> simp [Bool.and_comm]
    rw [canTake_iff some']
    simp only [counted]
    refine and_iff_right fun o ho => ?_
    have := (List.mem_filter.mp (List.mem_filter.mp ho).1).2
    exact beq_iff_eq.mp this
  have yields : others.all (Occ.yields v auto w) = true ↔
      ∀ o ∈ others, ∃ c, o.who = .booking c ∧ (auto = true ∨ v.auto c.cls w.cls = true) ∧ w.rank < o.rank := by
    simp only [List.all_eq_true, Occ.yields_iff]
  unfold Sched.weighed Sched.displaceRank
  dsimp only
  rw [incumbents]
  constructor
  · intro h
    split at h
    · cases h
    · rename_i allowed
      split at h
      · rename_i able
        simp only [Bool.and_eq_true, Bool.not_eq_true', yields, free, List.isEmpty_eq_false_iff] at able
        obtain ⟨⟨⟨usable, nonempty⟩, all⟩, room⟩ := able
        obtain ⟨most, reached, low⟩ := foldl_min_eq_iff.mp (Option.some.inj h)
        refine ⟨usable, allowed, nonempty, fun o ho => ?_, most, reached, room⟩
        obtain ⟨c, who, auto, rank⟩ := all o ho
        exact ⟨c, who, auto, rank, low o ho⟩
      · cases h
  · rintro ⟨usable, allowed, nonempty, all, most, reached, room⟩
    have able : (s.usable k && !others.isEmpty && others.all (Occ.yields v auto w) &&
        canTake ((s.occs v k).filter fun o => o.mux == w.mux) w) = true := by
      simp only [Bool.and_eq_true, Bool.not_eq_true', yields, free, List.isEmpty_eq_false_iff]
      refine ⟨⟨⟨usable, nonempty⟩, fun o ho => ?_⟩, room⟩
      obtain ⟨c, who, auto, rank, -⟩ := all o ho
      exact ⟨c, who, auto, rank⟩
    rw [if_neg allowed, if_pos able]
    exact congrArg some (foldl_min_eq_iff.mpr ⟨most, reached, fun o ho => (all o ho).choose_spec.2.2.2⟩)

/-- Steps 1 to 3 as R90 and R91 say them. -/
theorem Sched.choose_spec (v : Base) (s : Sched) (auto : Bool) (avoid : Option Tuner) (b : Booking) (w : Want)
    (want : b.want v = some w) :
    let meets (k : Tuner) : List Occ := (s.occs v k).filter fun o => o.overlaps w
    let counted (k : Tuner) (u : Nat) : Nat := ((meets k).filter fun o => o.counts && o.standsAt u).length
    let takes (k : Tuner) : Prop := s.usable k = true ∧ avoid ≠ some k ∧ (∀ o ∈ meets k, o.mux = w.mux) ∧
      ∀ u, w.lo ≤ u → u < w.hi → counted k u ≤ 3
    let others (k : Tuner) : List Occ := (meets k).filter fun o => o.mux != w.mux
    let yields (k : Tuner) (rank : Nat) : Prop := s.usable k = true ∧ avoid ≠ some k ∧ others k ≠ [] ∧
      (∀ o ∈ others k, ∃ c, o.who = .booking c ∧ (auto = true ∨ v.auto c.cls w.cls = true) ∧ w.rank < o.rank ∧
        rank ≤ o.rank) ∧ rank ≤ 31 ∧ (rank = 31 ∨ ∃ o ∈ others k, o.rank = rank) ∧
      ∀ u, w.lo ≤ u → u < w.hi →
        ((meets k).filter fun o => o.mux == w.mux && o.counts && o.standsAt u).length ≤ 3
    (∀ k, takes k → meets k ≠ [] → (k = .B → ¬(takes .A ∧ meets .A ≠ [])) →
      s.choose v auto none avoid b = some (0, k, 31)) ∧
    (∀ k, takes k → (∀ j, takes j → meets j = []) → (k = .B → ¬takes .A) →
      s.choose v auto none avoid b = some (1, k, 31)) ∧
    ((∀ j, ¬takes j) →
      (∀ k rank, yields k rank → (∀ r, yields k.other r → r < rank ∨ (r = rank ∧ k = .A)) →
        s.choose v auto none avoid b = some (2, k, rank)) ∧
      ((∀ j r, ¬yields j r) → s.choose v auto none avoid b = none)) := by
  intro meets counted takes others yields
  have interval := Booking.want_interval want
  have fits (k : Tuner) : s.fits v avoid w k = true ↔ takes k := by
    simp only [Sched.fits, Bool.and_eq_true, bne_iff_ne, canTake_iff interval, and_assoc]
    rfl
  have shared (k : Tuner) : s.shared v w k = true ↔ meets k ≠ [] := s.shared_iff v w k
  have figure (k : Tuner) (rank : Nat) : s.weighed v auto avoid w k = some rank ↔ yields k rank := Sched.weighed_iff interval k rank
  refine ⟨fun k here some' lower => ?_, fun k here alone lower => ?_, fun noFit => ⟨fun k rank here best => ?_, fun nobody => ?_⟩⟩
  · refine Sched.choose_shared want auto ((fits k).mpr here) ((shared k).mpr some') fun isB => ?_
    rw [fits, shared]
    exact lower isB
  · refine Sched.choose_unshared want auto ((fits k).mpr here) (fun j hj => ?_) fun isB => ?_
    · rw [← Bool.not_eq_true, shared, Classical.not_not]
      exact alone j ((fits j).mp hj)
    · rw [← Bool.not_eq_true, fits]
      exact lower isB
  · rw [Sched.choose_displacing want auto fun j => by rw [← Bool.not_eq_true, fits]; exact noFit j,
      Sched.displaceChoice_some ((figure k rank).mpr here) fun r hr => best r ((figure _ r).mp hr)]
    rfl
  · rw [Sched.choose_displacing want auto fun j => by rw [← Bool.not_eq_true, fits]; exact noFit j,
      Sched.displaceChoice_none fun k => Option.eq_none_iff_forall_ne_some.mpr fun r hr => nobody k r ((figure k r).mp hr)]
    rfl

end Sys2Proof.Machine
end

section
/-! BOOK, by the step of the placement order that takes the booking. -/

namespace Sys2Proof.Machine

/-! ## The record that BOOK makes -/

theorem bookDraft_eq (f : BookFields) : bookDraft f =
    { handle := 0, id := ⟨0, 0⟩, cls := if f.event = none then .manual else .event, service := f.service,
      mux := f.multiplex, event := f.event, link := none, episode := none, start := f.start / 60 * 60,
      finish := (f.finish + 59) / 60 * 60, pre := f.pre, post := f.post,
      priority := min 7 f.priority, follow := f.follow == 1, running := if f.follow = 1 then some .unknown else none,
      state := .waiting, plan := .absent, order := 0, attempts := 0, segs := [], outcome := none, confirm := none,
      peerLost := false, endedAt := none, prepSeq := 0 } := by
  have cls : (if f.event.isSome then BClass.event else .manual) = if f.event = none then .manual else .event := by
    cases f.event <;> rfl
  simp only [bookDraft, newBooking, minuteDown, minuteUp, cls, beq_iff_eq]

/-- What a BOOK that passes the checks has shown (R10). -/
theorem State.bookRefusal_none {f : BookFields} {s : State} (passes : s.bookRefusal f = none) :
    s.sch.roomFor (bookDraft f).cls = true ∧ s.sch.bookings.length < 128 ∧ (bookDraft f).start < (bookDraft f).finish := by
  unfold State.bookRefusal at passes
  dsimp only at passes
  obtain ⟨-, passes⟩ := check_passes passes
  obtain ⟨bad, passes⟩ := check_passes passes
  obtain ⟨-, passes⟩ := check_passes passes
  obtain ⟨-, passes⟩ := check_passes passes
  obtain ⟨-, passes⟩ := check_passes passes
  obtain ⟨full, -⟩ := check_passes passes
  simp only [Bool.or_eq_true, decide_eq_true_eq, not_or, Nat.not_le] at bad
  have room : s.sch.roomFor (bookDraft f).cls = true := by simpa using full
  exact ⟨room, (bookDraft_roomFor f s.sch).mp room, bad.1.1.2⟩

/-- A BOOK that passes answers from the event that places the new record. -/
theorem State.book_passes {f : BookFields} {s : State} (passes : s.bookRefusal f = none) : s.book f =
    s.answerEvent (fun e => (e.on fun x => x.createLocal s.base.cfg.station (bookDraft f)).place s.base Open.new s.sch.nextHandle)
      fun x => byte s.sch.nextHandle ++ idField ⟨s.base.cfg.station, s.sch.nextSerial⟩ ++ x.placed s.sch.nextHandle := by
  unfold State.book
  rw [passes]

/-- The next local record of a draft (R2 to R4). -/
def Sched.record (station : Nat) (draft : Booking) (s : Sched) : Booking :=
  draft.enrolled s.nextHandle s.orderCtr ⟨station, s.nextSerial⟩

/-- The state with the next local record in its table, as given. -/
def Sched.recorded (b : Booking) (s : Sched) : Sched :=
  { s with
    bookings := insertBooking b s.bookings, orderCtr := orderAfter s.orderCtr, serialCtr := serialAfter s.nextSerial }

theorem Sched.recorded_adds {s : Sched} {b : Booking} (room : s.bookings.length < 128) (handle : b.handle = s.nextHandle) :
    s.Adds b (s.recorded b) := Sched.adds_next room handle rfl

theorem Sched.placed_some {s : Sched} {h : Nat} {b : Booking} (found : s.bk h = some b) :
    s.placed h = byte b.state.code ++ optionalTuner (if b.state = .planned then b.plan.tuner? else none) := by
  unfold Sched.placed
  rw [found]

theorem optionalTuner_some (k : Tuner) : optionalTuner (some k) = [1, BitVec.ofNat 8 k.index] := by cases k <;> decide

theorem optionalTuner_none : optionalTuner none = [0, 0] := by decide

theorem Sched.placed_planned {s : Sched} {h : Nat} {b : Booking} {k : Tuner} (found : s.bk h = some b) (state : b.state = .planned)
    (plan : b.plan = .tuner k) : s.placed h = [1, 1, BitVec.ofNat 8 k.index] := by
  rw [Sched.placed_some found, state, if_pos rfl, plan, show Plan.tuner? (.tuner k) = some k from rfl, optionalTuner_some,
    byte_eq_field1]
  rfl

theorem Sched.placed_elsewhere {s : Sched} {h : Nat} {b : Booking} (found : s.bk h = some b) (state : b.state ≠ .planned) :
    s.placed h = field1 b.state.code ++ [0, 0] := by
  rw [Sched.placed_some found, if_neg state, optionalTuner_none, byte_eq_field1]

/-! ## Planned on a free tuner -/

/-- The state of a station that has planned a new local record where nothing was planned. -/
def Sched.booked (v : Base) (k : Tuner) (draft : Booking) (s : Sched) : Sched :=
  { s.recorded ((s.record v.cfg.station draft).inState .planned (.tuner k)) with
    plans := s.plans.set k [⟨s.nextHandle, false⟩]
    triggers := armedWith s.nextHandle .prepare (draft.prepareTime v) s.triggers }

theorem Sched.booked_bk {v : Base} {k : Tuner} {draft : Booking} {s : Sched} (room : s.bookings.length < 128) :
    (s.booked v k draft).bk s.nextHandle = some ((s.record v.cfg.station draft).inState .planned (.tuner k)) :=
  (Sched.recorded_adds (b := (s.record v.cfg.station draft).inState .planned (.tuner k)) room rfl).bk_same

theorem Sched.Settled.booked {v : Base} {k : Tuner} {draft : Booking} {s : Sched} (settled : s.Settled)
    (plans : s.plans = ⟨[], []⟩) (room : s.bookings.length < 128) : (s.booked v k draft).Settled :=
  settled.of_vacant rfl (Sched.occupants_unplanned plans) (Sched.occupants_planned (h := s.nextHandle) (k := k)
    (by show s.plans.set k [⟨s.nextHandle, false⟩] = _; rw [plans]) (Sched.booked_bk room) rfl)

/-- A new local record is PLANNED on the lower usable tuner, where nothing else stands on either (R90). -/
theorem Ev.create_free {v : Base} {k : Tuner} {s : Sched} {draft : Booking} (fits : s.roomFor draft.cls = true)
    (room : s.bookings.length < 128) (bare : s.Bare) (noHolds : s.holds = []) (noLive : ∀ j, (s.tuners.get j).live = none)
    (usable : s.usable k = true) (lower : k = .B → s.usable .A = false) (alive : draft.state ≠ .ended)
    (ended : draft.endedAt = none) (sound : draft.start < draft.finish) (ahead : v.clock < draft.prepareTime v) :
    ((Ev.of s).on fun x => x.createLocal v.cfg.station draft).place v Open.new s.nextHandle = Ev.of (s.booked v k draft) := by
  let b := s.record v.cfg.station draft
  have made : s.createLocal v.cfg.station draft = s.recorded b := Sched.createLocal_of_room _ fits
  have first : (Open.new.prefer.getD .A) = k ∨
      (s.recorded b).usable (Open.new.prefer.getD .A) = false ∧ (Open.new.prefer.getD .A).other = k := by
    cases k with
    | A => exact .inl rfl
    | B => exact .inr ⟨lower rfl, rfl⟩
  rw [show (Ev.of s).on (fun x => x.createLocal v.cfg.station draft) = Ev.of (s.recorded b) from congrArg Ev.of made]
  exact Ev.place_free (v := v) (o := Open.new) (k := k) (Sched.recorded_adds (b := b) room rfl) alive bare noHolds noLive usable
    rfl first ended sound ahead

theorem book_planned (f : BookFields) (k : Tuner) (s : State) (takes : s.Takes) (bare : s.sch.Bare) (settled : s.sch.Settled)
    (noHolds : s.sch.holds = []) (noLive : ∀ j, (s.sch.tuners.get j).live = none) (usable : s.sch.usable k = true)
    (lower : k = .B → s.sch.usable .A = false) (passes : s.bookRefusal f = none)
    (ahead : s.base.clock < (bookDraft f).prepareTime s.base) :
    ∃ t, Answered (.book f) s t .ok
        [BitVec.ofNat 8 s.sch.nextHandle, BitVec.ofNat 8 s.base.cfg.station, BitVec.ofNat 8 (s.sch.nextSerial / 256),
          BitVec.ofNat 8 s.sch.nextSerial, 1, 1, BitVec.ofNat 8 k.index] ∧
      t.base = s.base ∧ t.sch = s.sch.booked s.base k (bookDraft f) := by
  obtain ⟨fits, room, sound⟩ := State.bookRefusal_none passes
  have placed := Ev.create_free (v := s.base) fits room bare noHolds noLive usable lower nofun rfl sound ahead
  obtain ⟨t, answered, base, sch⟩ := takes.answersSettled rfl (exec_book f s) (State.book_passes passes)
    (by rw [placed]; exact Ev.rests_quiet rfl rfl rfl) (by rw [placed]; rfl) (by rw [placed]; exact settled.booked bare.1 room)
  rw [placed] at answered sch
  have bytes : (s.sch.booked s.base k (bookDraft f)).placed s.sch.nextHandle = [1, 1, BitVec.ofNat 8 k.index] :=
    Sched.placed_planned (Sched.booked_bk room) rfl rfl
  refine ⟨t, ?_, base, sch⟩
  rw [Ev.of_s, bytes, idField_eq_fields, byte_eq_field1] at answered
  exact answered

/-! ## Seeking -/

/-- An event that ends in a look of the engine closes with what the look does, when nothing follows from it. -/
theorem Ev.close_looks {v : Base} {s : Sched} (rests : ((Ev.of s).look1 v).Rests v)
    (settled : ((Ev.of s).look1 v).s.Settled) : ((Ev.of s).askLook.close v).s = ((Ev.of s).look1 v).s := by
  have finish : (Ev.of s).askLook.finish v = ((Ev.of s).look1 v).asked := by
    show work 511 v ((Ev.of s).look1 v) = _
    exact work_rests v 507 _ rests
  rw [Ev.close, finish]
  exact Sched.reviseAll_settled v _ settled

/-- Where nothing is suspended, unplaced or sought, a booking that steps 4 on takes up is SEEKING alone, its PREPARE armed
(R93). -/
theorem Ev.enterSeek_alone {v : Base} {h : Nat} {s : Sched} {b : Booking} (stacked : s.stacked = ⟨[], []⟩)
    (unplaced : s.unplaced = []) (queue : s.seekQueue = []) (found : s.bk h = some b) (alive : b.state ≠ .ended)
    (ahead : v.clock < b.prepareTime v) : (Ev.of s).enterSeek v h = (Ev.of
      { s.modB h (Booking.inState .seeking .absent) with
        seekQueue := [⟨h, none⟩]
        triggers := armedWith h .prepare (b.prepareTime v) s.triggers }).askLook := by
  let x : Sched := { s.modB h (Booking.inState .seeking .absent) with seekQueue := [⟨h, none⟩] }
  have seeking : x.bk h = some (b.inState .seeking .absent) := Sched.bk_modB_self _ (fun _ => rfl) found alive
  have joins : ((Ev.of s).on fun s =>
      let s := s.modB h (Booking.inState .seeking .absent)
      let hs := s.insertHandle h (s.seekQueue.map (·.handle))
      { s with seekQueue := hs.map fun x => (s.seekQueue.find? fun q => q.handle == x).getD ⟨x, none⟩ }) = Ev.of x := by
    refine congrArg Ev.of ?_
    show ({ s.modB h _ with seekQueue := (Sched.insertHandle _ h (s.seekQueue.map _)).map _ } : Sched) = _
    rw [queue]
    show ({ s.modB h _ with seekQueue := [(List.find? _ s.seekQueue).getD ⟨h, none⟩] } : Sched) = _
    rw [queue]
    rfl
  unfold Ev.enterSeek
  dsimp only
  rw [Ev.leaveWaiting_bare (e := Ev.of s) h stacked unplaced, joins]
  exact congrArg Ev.askLook (Ev.arm_ahead (e := Ev.of x) (k := .prepare) seeking rfl ahead)

theorem Ev.afterThree_seeks {v : Base} {o : Open} {b : Booking} {e : Ev} (own : b.hosted = false) (seek : o.seek = true)
    (may : v.maySeek b = true) (few : b.attempts < v.cfg.seekLimit) (room : e.s.seekQueue.length < 16) :
    e.afterThree v o b = e.enterSeek v b.handle := by
  simp [Ev.afterThree, own, seek, may, few, room]

/-- The state of a station whose seek engine has sent the first SEEK of a new local record. -/
def Sched.sought (v : Base) (draft : Booking) (s : Sched) : Sched :=
  let b := ((s.record v.cfg.station draft).inState .seeking .absent).tried
  { s.recorded b with
    seekQueue := [⟨s.nextHandle, none⟩]
    triggers := armedWith s.nextHandle .prepare (draft.prepareTime v) s.triggers
    txq := s.txq ++ [compose v b.rank (b.seekMsg v) none]
    engine := .collecting s.nextHandle none [] }

theorem Sched.sought_bk {v : Base} {draft : Booking} {s : Sched} (room : s.bookings.length < 128) :
    (s.sought v draft).bk s.nextHandle = some ((s.record v.cfg.station draft).inState .seeking .absent).tried :=
  (Sched.recorded_adds (b := ((s.record v.cfg.station draft).inState .seeking .absent).tried) room rfl).bk_same

/-- A new local record that may seek, where no tuner is usable: the event asks the engine to look, and the look sends its
SEEK. -/
theorem Ev.create_seeks {v : Base} {s : Sched} {draft : Booking} (fits : s.roomFor draft.cls = true)
    (table : s.bookings.length < 128) (own : draft.cls ≠ .hosted) (bare : s.Bare) (unusable : ∀ j, s.usable j = false)
    (queue : s.seekQueue = []) (idle : s.engine = .idle) (room : s.txq.length < 12)
    (joined : v.station = .joined) (may : v.maySeek ((s.record v.cfg.station draft).inState .seeking .absent) = true)
    (alive : draft.state ≠ .ended) (few : draft.attempts < v.cfg.seekLimit) (ahead : v.clock < draft.prepareTime v) :
    ∃ z : Sched, ((Ev.of s).on fun x => x.createLocal v.cfg.station draft).place v Open.new s.nextHandle = (Ev.of z).askLook ∧
      (Ev.of z).look1 v = Ev.of (s.sought v draft) := by
  let b := s.record v.cfg.station draft
  have made : s.createLocal v.cfg.station draft = s.recorded b := Sched.createLocal_of_room _ fits
  have adds : s.Adds b (s.recorded b) := Sched.recorded_adds table rfl
  let c := b.inState .seeking .absent
  let z : Sched := { (s.recorded b).modB b.handle (Booking.inState .seeking .absent) with
    seekQueue := [⟨b.handle, none⟩], triggers := armedWith b.handle .prepare (b.prepareTime v) s.triggers }
  have found : z.bk b.handle = some c := Sched.bk_modB_self _ (fun _ => rfl) adds.bk_same alive
  have isSeeking : (s.recorded b).modB b.handle (Booking.inState .seeking .absent) = s.recorded c :=
    adds.modB (f := Booking.inState .seeking .absent) alive fun _ => rfl
  have again : s.Adds c (s.recorded c) := Sched.recorded_adds table rfl
  refine ⟨z, ?_, ?_⟩
  · rw [show (Ev.of s).on (fun x => x.createLocal v.cfg.station draft) = Ev.of (s.recorded b) from congrArg Ev.of made]
    refine (Ev.place_afterThree (e := Ev.of (s.recorded b)) adds.bk_same (Sched.choose_unusable (s := s.recorded b) unusable _ _ _ _ _)).trans ?_
    rw [Ev.afterThree_seeks (b := b) (Booking.not_hosted own) rfl may few (by show s.seekQueue.length < 16; rw [queue]; decide)]
    exact Ev.enterSeek_alone (s := s.recorded b) bare.2.1 bare.2.2 queue adds.bk_same alive ahead
  · rw [Ev.look1_seeks (e := Ev.of z) idle rfl nofun found may, Ev.sendSeek_taken (e := Ev.of z) found nofun joined room]
    refine congrArg Ev.of ?_
    have moved : z.modB b.handle Booking.tried = { s.recorded c.tried with
        seekQueue := [⟨b.handle, none⟩], triggers := armedWith b.handle .prepare (b.prepareTime v) s.triggers } := by
      have tried : (s.recorded c).modB c.handle Booking.tried = s.recorded c.tried :=
        again.modB (f := Booking.tried) nofun fun _ => rfl
      show ({ ((s.recorded b).modB b.handle (Booking.inState .seeking .absent)).modB b.handle Booking.tried with
        seekQueue := _, triggers := _ } : Sched) = _
      rw [isSeeking, show (s.recorded c).modB b.handle Booking.tried = s.recorded c.tried from tried]
    show ({ z.modB b.handle Booking.tried with txq := _, engine := _ } : Sched) = _
    rw [moved]
    rfl

theorem book_seeks (f : BookFields) (s : State) (takes : s.Takes) (bare : s.sch.Bare) (settled : s.sch.Settled)
    (unusable : ∀ j, s.sch.usable j = false) (queue : s.sch.seekQueue = []) (idle : s.sch.engine = .idle)
    (room : s.sch.txq.length < 12) (passes : s.bookRefusal f = none) (joined : s.base.station = .joined)
    (limit : 1 ≤ s.base.cfg.seekLimit) (ahead : s.base.clock < (bookDraft f).prepareTime s.base)
    (may : s.base.maySeek ((s.sch.record s.base.cfg.station (bookDraft f)).inState .seeking .absent) = true) :
    ∃ t, Answered (.book f) s t .ok
        (field1 s.sch.nextHandle ++ field1 s.base.cfg.station ++ field2 s.sch.nextSerial ++ [2, 0, 0]) ∧
      t.base = s.base ∧ t.sch = s.sch.sought s.base (bookDraft f) := by
  obtain ⟨fits, table, -⟩ := State.bookRefusal_none passes
  obtain ⟨z, placed, looks⟩ := Ev.create_seeks (v := s.base) fits table (bookDraft_local f) bare unusable queue idle room joined may
    nofun limit ahead
  have stands : (s.sch.sought s.base (bookDraft f)).Settled :=
    settled.of_vacant rfl (Sched.occupants_unplanned bare.1) (Sched.occupants_unplanned bare.1)
  have rests : ((Ev.of z).look1 s.base).Rests s.base := by rw [looks]; exact Ev.rests_quiet rfl rfl rfl
  have kept : ((Ev.of z).look1 s.base).s.Settled := by rw [looks]; exact stands
  obtain ⟨t, answered, base, sch⟩ := takes.answersEvent rfl (exec_book f s) (State.book_passes passes)
  rw [placed, Ev.close_looks rests kept, looks, Ev.of_s] at answered
  have bytes : (s.sch.sought s.base (bookDraft f)).placed s.sch.nextHandle = [2, 0, 0] :=
    Sched.placed_elsewhere (Sched.sought_bk table) nofun
  rw [bytes, idField_eq_fields, byte_eq_field1, ← List.append_assoc] at answered
  refine ⟨t, answered, base, ?_⟩
  rw [sch, Sched.event, placed, Ev.settle_looks rests (by rw [looks]; rfl) kept, looks]
  rfl

end Sys2Proof.Machine
end

section
/-! BOOK where an incumbent does not yield by itself: the referral. -/

namespace Sys2Proof.Machine

/-! ## The referral (R94) -/

/-- What a draft of BOOK asks of a tuner, its PREPARE ahead. -/
theorem bookDraft_want {v : Base} {f : BookFields} {b : Booking} (start : b.start = (bookDraft f).start)
    (finish : b.finish = (bookDraft f).finish) (pads : b.pre = f.pre ∧ b.post = f.post) (follow : b.follow = (f.follow == 1))
    (running : b.running = some .unknown ∨ b.running = none) (ended : b.endedAt = none) (sound : b.start < b.finish)
    (ahead : v.clock < b.prepareTime v) : b.want v = some ⟨b.prepareTime v,
      b.finish + 60 * (if f.follow = 1 then min f.post v.cfg.overrun else f.post), b.mux, b.unstartedRank, b.cls⟩ := by
  obtain ⟨-, post⟩ := pads
  have keeps : b.keepsRunning = false := by
    unfold Booking.keepsRunning
    rcases running with h | h <;> rw [h] <;> rfl
  have close : b.closeTime v = b.finish + 60 * (if f.follow = 1 then min f.post v.cfg.overrun else f.post) := by
    have stop : b.stopTime = b.finish + 60 * f.post := by simp [Booking.stopTime, ended, Booking.spanEnd, post]
    unfold Booking.closeTime Booking.overrunTime
    rw [keeps, stop, follow]
    by_cases following : f.follow = 1
    · simp only [following, beq_self_eq_true, Bool.not_true, Bool.false_eq_true, if_false, if_true]
      omega
    · simp [following]
  have lo : max v.clock (b.prepareTime v) = b.prepareTime v := by omega
  have left : b.prepareTime v < b.closeTime v := by
    rw [close]
    have : b.prepareTime v ≤ b.start := by unfold Booking.prepareTime; omega
    omega
  unfold Booking.want Booking.tuned
  dsimp only
  rw [lo, if_pos left, close]
  rfl

/-- The occupancy of a booking planned alone on a tuner. -/
theorem Sched.occs_one {v : Base} {s : Sched} {k : Tuner} {g lo hi : Nat} {m : Bool} {c : Booking}
    (plan : s.plans.get k = [⟨g, m⟩]) (found : s.bk g = some c) (tuned : c.tuned v = some (lo, hi))
    (live : (s.tuners.get k).live = none) (holds : s.holds = []) :
    s.occs v k = [⟨lo, some hi, c.mux, c.rank, .booking c⟩] := by
  simp [Sched.occs, Sched.planBookings, plan, found, live, holds, Booking.occ, tuned]

/-- One tuner is usable, its one incumbent overlaps what is wanted on another multiplex, is of a worse rank, and does not
yield by the clash policy vector. -/
structure Sched.Clashes (v : Base) (s : Sched) (k : Tuner) (o : Occ) (c : Booking) (w : Want) : Prop where
  usable : s.usable k = true
  alone : s.usable k.other = false
  occs : s.occs v k = [o]
  who : o.who = .booking c
  overlaps : o.overlaps w = true
  mux : o.mux ≠ w.mux
  worse : w.rank < o.rank
  policy : v.auto c.cls w.cls = false

theorem Tuner.eq_or_other (k j : Tuner) : j = k ∨ j = k.other := by cases k <;> cases j <;> simp [Tuner.other]

namespace Sched.Clashes
variable {v : Base} {s : Sched} {k : Tuner} {o : Occ} {c b : Booking} {w : Want}

theorem met (clash : s.Clashes v k o c w) : (s.occs v k).filter (fun o => o.overlaps w) = [o] := by
  simp [clash.occs, clash.overlaps]

theorem others (clash : s.Clashes v k o c w) :
    ((s.occs v k).filter fun o => o.overlaps w).filter (fun o => o.mux != w.mux) = [o] := by
  simp [clash.met, clash.mux]

theorem mem_met (clash : s.Clashes v k o c w) : o ∈ (s.occs v k).filter fun o => o.overlaps w := by
  rw [clash.met]
  exact List.mem_singleton_self o

theorem mem_others (clash : s.Clashes v k o c w) :
    o ∈ ((s.occs v k).filter fun o => o.overlaps w).filter fun o => o.mux != w.mux := by
  rw [clash.others]
  exact List.mem_singleton_self o

theorem incumbents (clash : s.Clashes v k o c w) : s.incumbents v w k = [o] := by
  simp [Sched.incumbents, clash.occs, clash.overlaps, clash.mux]

/-- Steps 1 to 3 do not place the booking. -/
theorem choose_none (clash : s.Clashes v k o c w) (want : b.want v = some w) : s.choose v false none none b = none := by
  refine ((Sched.choose_spec v s false none b w want).2.2 fun j here => ?_).2 fun j r here => ?_
  · rcases Tuner.eq_or_other k j with rfl | rfl
    · exact clash.mux (here.2.2.1 o clash.mem_met)
    · exact absurd here.1 (by simp [clash.alone])
  · rcases Tuner.eq_or_other k j with rfl | rfl
    · obtain ⟨d, who, yields, -⟩ := here.2.2.2.1 o clash.mem_others
      obtain rfl : c = d := Who.booking.inj (clash.who.symm.trans who)
      simp [clash.policy] at yields
    · exact absurd here.1 (by simp [clash.alone])

/-- With every entry of the vector AUTO, step 3 would displace the incumbent. -/
theorem displaceChoice_auto (clash : s.Clashes v k o c w) (interval : w.lo < w.hi) :
    s.displaceChoice v true none none w = some (k, min 31 o.rank) := by
  refine Sched.displaceChoice_some ((Sched.weighed_iff interval k _).mpr ?_) fun r hr => ?_
  · rw [clash.others, clash.met]
    refine ⟨clash.usable, nofun, nofun, ?_, by omega, ?_, fun u _ _ => ?_⟩
    · intro x hx
      rw [List.mem_singleton.mp hx]
      exact ⟨c, clash.who, .inl rfl, clash.worse, by omega⟩
    · by_cases low : o.rank ≤ 31
      · exact .inr ⟨o, List.mem_singleton_self o, by omega⟩
      · exact .inl (by omega)
    · simp [clash.mux]
  · exact absurd ((Sched.weighed_iff interval _ r).mp hr).1 (by simp [clash.alone])

theorem referral_eq (clash : s.Clashes v k o c w) (want : b.want v = some w) (ahead : v.clock < b.prepareTime v) :
    s.referral v b false = some ⟨b.handle, k, [c.handle], b.prepareTime v, .placement⟩ := by
  unfold Sched.referral
  rw [if_pos ahead, want]
  dsimp only
  rw [clash.displaceChoice_auto (Booking.want_interval want), Option.map_some, clash.incumbents]
  simp only [List.filterMap_cons, clash.who, List.filterMap_nil]
  rfl

end Sched.Clashes

theorem Ev.afterThree_refers {v : Base} {o : Open} {b : Booking} {r : Referral} {e : Ev} (own : b.hosted = false)
    (noSeek : v.maySeek b = false) (refer : o.refer = true) (referral : e.s.referral v b o.check = some r) :
    e.afterThree v o b = e.refer v b r := by
  simp [Ev.afterThree, own, noSeek, refer, referral]

/-- Step 5 where nothing is suspended or unplaced: the booking is REFERRED, its PREPARE armed, and the notice queued. -/
theorem Ev.refer_alone {v : Base} {b c : Booking} {r : Referral} {s : Sched} {g : Nat} (stacked : s.stacked = ⟨[], []⟩)
    (unplaced : s.unplaced = []) (found : s.bk b.handle = some b) (alive : b.state ≠ .ended) (room : s.notices.length < 32)
    (pending : s.pendingOutcomes = []) (ahead : v.clock < b.prepareTime v) (incumbent : r.incumbents = [g])
    (held : s.bk g = some c) (other : g ≠ b.handle) : (Ev.of s).refer v b r = Ev.of
      { s.modB b.handle (Booking.inState .referred .absent) with
        referrals := s.referrals ++ [r]
        triggers := armedWith b.handle .prepare (b.prepareTime v) s.triggers
        notices := s.notices ++ [.referral b.handle b.id b.cls b.service b.start b.finish r.tuner r.source r.deadline
          [(g, c.id, c.cls, c.rank)]] } := by
  let x : Sched := { s.modB b.handle (Booking.inState .referred .absent) with referrals := s.referrals ++ [r] }
  let y : Sched := { x with triggers := armedWith b.handle .prepare (b.prepareTime v) s.triggers }
  have referred : x.bk b.handle = some (b.inState .referred .absent) := Sched.bk_modB_self _ (fun _ => rfl) found alive
  have armed : (b.inState .referred .absent).armed v = some (.prepare, b.prepareTime v) := by
    unfold Booking.armed
    exact if_pos ahead
  have held' : y.bk g = some c := 
    (s.bk_modB_other (Booking.inState .referred .absent) (fun _ => rfl) other).trans held
  have notice : y.referralNotice b r = .referral b.handle b.id b.cls b.service b.start b.finish r.tuner r.source r.deadline
      [(g, c.id, c.cls, c.rank)] := by
    unfold Sched.referralNotice
    rw [incumbent]
    simp only [List.filterMap_cons, held', Option.map_some, List.filterMap_nil]
  unfold Ev.refer
  rw [Ev.leaveWaiting_bare (e := Ev.of s) b.handle stacked unplaced]
  dsimp only
  rw [show ((Ev.of s).on fun s => { s.modB b.handle (Booking.inState .referred .absent) with referrals := s.referrals ++ [r] }) =
      Ev.of x from rfl, Ev.arm_ahead (e := Ev.of x) referred armed ahead]
  refine congrArg Ev.of ?_
  show y.notice (y.referralNotice b r) = _
  rw [notice, Sched.notice_room (s := y) _ room pending]
  rfl

/-! ## BOOK -/

/-- The state of a station that has referred a new local record. -/
def Sched.referred (v : Base) (k : Tuner) (c draft : Booking) (s : Sched) : Sched :=
  let b := (s.record v.cfg.station draft).inState .referred .absent
  { s.recorded b with
    referrals := s.referrals ++ [⟨s.nextHandle, k, [c.handle], draft.prepareTime v, .placement⟩]
    triggers := armedWith s.nextHandle .prepare (draft.prepareTime v) s.triggers
    notices := s.notices ++ [.referral b.handle b.id b.cls b.service b.start b.finish k .placement (draft.prepareTime v)
      [(c.handle, c.id, c.cls, c.rank)]] }

theorem Ev.create_refers {v : Base} {s : Sched} {draft c : Booking} {k : Tuner} {o : Occ} {w : Want}
    (fits : s.roomFor draft.cls = true) (table : s.bookings.length < 128) (own : draft.cls ≠ .hosted)
    (stacked : s.stacked = ⟨[], []⟩) (unplaced : s.unplaced = []) (room : s.notices.length < 32)
    (pending : s.pendingOutcomes = []) (away : v.station ≠ .joined) (alive : draft.state ≠ .ended)
    (found : s.bk c.handle = some c) (ahead : v.clock < draft.prepareTime v)
    (want : (s.record v.cfg.station draft).want v = some w)
    (clash : (s.recorded (s.record v.cfg.station draft)).Clashes v k o c w) :
    ((Ev.of s).on fun x => x.createLocal v.cfg.station draft).place v Open.new s.nextHandle = Ev.of (s.referred v k c draft) := by
  let b := s.record v.cfg.station draft
  have made : s.createLocal v.cfg.station draft = s.recorded b := Sched.createLocal_of_room _ fits
  have adds : s.Adds b (s.recorded b) := Sched.recorded_adds table rfl
  have apart : c.handle ≠ b.handle := fun same => adds.fresh c (s.bk_handle found).2 same
  have held : (s.recorded b).bk c.handle = some c := (adds.bk_other apart).trans found
  let r : Referral := ⟨b.handle, k, [c.handle], b.prepareTime v, .placement⟩
  have referral : (s.recorded b).referral v b false = some r := clash.referral_eq want ahead
  rw [show (Ev.of s).on (fun x => x.createLocal v.cfg.station draft) = Ev.of (s.recorded b) from congrArg Ev.of made]
  calc (Ev.of (s.recorded b)).place v Open.new s.nextHandle
      _ = (Ev.of (s.recorded b)).afterThree v Open.new b :=
        Ev.place_afterThree (e := Ev.of (s.recorded b)) adds.bk_same (clash.choose_none want)
      _ = (Ev.of (s.recorded b)).refer v b r :=
        Ev.afterThree_refers (e := Ev.of (s.recorded b)) (Booking.not_hosted own) (Base.maySeek_not_joined away b) rfl referral
      _ = _ := Ev.refer_alone (s := s.recorded b) (g := c.handle) (r := r) stacked unplaced adds.bk_same alive room pending ahead
        rfl held apart
      _ = Ev.of (s.referred v k c draft) := by
        rw [adds.modB (f := Booking.inState .referred .absent) alive fun _ => rfl]
        rfl

theorem Sched.referred_bk {v : Base} {k : Tuner} {c draft : Booking} {s : Sched} (room : s.bookings.length < 128) :
    (s.referred v k c draft).bk s.nextHandle = some ((s.record v.cfg.station draft).inState .referred .absent) :=
  (Sched.recorded_adds (b := (s.record v.cfg.station draft).inState .referred .absent) room rfl).bk_same

end Sys2Proof.Machine
end

section
/-! BOOK, settled. -/

namespace Sys2Proof.Machine

/-- A fresh record that holds no tuner leaves the directives saying what stands. -/
theorem Sched.Adds.settled {s t : Sched} {b : Booking} (adds : s.Adds b t) (settled : s.Settled) (tuners : t.tuners = s.tuners)
    (plans : t.plans = s.plans) (idle : b.occupies = false) : t.Settled := by
  have nobody : s.bk b.handle = none := List.find?_eq_none.mpr fun c hc => by simpa using adds.fresh c hc
  refine settled.congr tuners fun j => congrArg _ ?_
  rw [Sched.occupants_eq, Sched.occupants_eq, plans]
  refine filterMap_eq_of_forall_mem fun p _ => ?_
  by_cases same : p.handle = b.handle
  · rw [same, adds.bk_same, nobody]
    simp [Option.filter, idle]
  · rw [adds.bk_other same]

/-- What a BOOK asks of a tuner while its PREPARE is ahead. -/
def bookWant (v : Base) (f : BookFields) : Want :=
  ⟨(bookDraft f).prepareTime v, (bookDraft f).finish + 60 * (if f.follow = 1 then min f.post v.cfg.overrun else f.post),
    f.multiplex, 2 + 2 * min 7 f.priority, (bookDraft f).cls⟩

theorem bookDraft_record_want {v : Base} {f : BookFields} {s : Sched} (sound : (bookDraft f).start < (bookDraft f).finish)
    (ahead : v.clock < (bookDraft f).prepareTime v) : (s.record v.cfg.station (bookDraft f)).want v =
      some (bookWant v f) := by
  refine (bookDraft_want (f := f) (b := s.record v.cfg.station (bookDraft f)) rfl rfl ⟨rfl, rfl⟩ rfl ?_ rfl sound ahead).trans rfl
  show (if (f.follow == 1) = true then some Running.unknown else none) = _ ∨ (if (f.follow == 1) = true then _ else _) = _
  split
  · exact .inl rfl
  · exact .inr rfl

theorem book_refers (f : BookFields) (k : Tuner) (g : Nat) (c : Booking) (m : Bool) (s : State) (takes : s.Takes)
    (settled : s.sch.Settled) (passes : s.bookRefusal f = none) (away : s.base.station ≠ .joined) (noHolds : s.sch.holds = [])
    (room : s.sch.Room 1) (usable : s.sch.usable k = true) (alone : s.sch.usable k.other = false)
    (noLive : (s.sch.tuners.get k).live = none) (plan : s.sch.plans.get k = [⟨g, m⟩])
    (stacked : s.sch.stacked = ⟨[], []⟩) (found : s.sch.bk g = some c) (unplaced : s.sch.unplaced = [])
    (ahead : s.base.clock < (bookDraft f).prepareTime s.base) (mux : c.mux ≠ f.multiplex)
    (worse : 2 + 2 * min 7 f.priority < c.rank) (policy : s.base.auto c.cls (bookDraft f).cls = false) {lo hi : Nat}
    (tuned : c.tuned s.base = some (lo, hi))
    (before : lo < (bookDraft f).finish + 60 * (if f.follow = 1 then min f.post s.base.cfg.overrun else f.post))
    (after : (bookDraft f).prepareTime s.base < hi) :
    ∃ t, Answered (.book f) s t .ok
        (field1 s.sch.nextHandle ++ field1 s.base.cfg.station ++ field2 s.sch.nextSerial ++ [5, 0, 0]) ∧
      t.base = s.base ∧ t.sch = s.sch.referred s.base k c (bookDraft f) := by
  obtain ⟨fits, table, sound⟩ := State.bookRefusal_none passes
  obtain ⟨rfl, hc⟩ := s.sch.bk_handle found
  let b := s.sch.record s.base.cfg.station (bookDraft f)
  have adds : s.sch.Adds b (s.sch.recorded b) := Sched.recorded_adds table rfl
  have apart : c.handle ≠ b.handle := adds.fresh c hc
  have want := bookDraft_record_want (v := s.base) (s := s.sch) sound ahead
  have occs : (s.sch.recorded b).occs s.base k = [⟨lo, some hi, c.mux, c.rank, .booking c⟩] :=
    Sched.occs_one plan ((adds.bk_other apart).trans found) tuned noLive noHolds
  have clash : (s.sch.recorded b).Clashes s.base k ⟨lo, some hi, c.mux, c.rank, .booking c⟩ c
      (bookWant s.base f) :=
    { usable, alone, occs, mux, worse, policy, who := rfl, overlaps := Bool.and_eq_true_iff.mpr ⟨decide_eq_true before, decide_eq_true after⟩ }
  have placed := Ev.create_refers (v := s.base) fits table (bookDraft_local f) stacked unplaced (Nat.lt_of_succ_le room.1) room.2 away
    nofun found ahead want clash
  have stands : (s.sch.referred s.base k c (bookDraft f)).Settled :=
    (Sched.recorded_adds (b := b.inState .referred .absent) table rfl : s.sch.Adds _ _).settled settled rfl rfl rfl
  obtain ⟨t, answered, base, sch⟩ := takes.answersSettled rfl (exec_book f s) (State.book_passes passes)
    (by rw [placed]; exact Ev.rests_quiet rfl rfl rfl) (by rw [placed]; rfl) (by rw [placed]; exact stands)
  rw [placed] at answered sch
  have bytes : (s.sch.referred s.base k c (bookDraft f)).placed s.sch.nextHandle = [5, 0, 0] :=
    Sched.placed_elsewhere (Sched.referred_bk table) nofun
  rw [Ev.of_s, bytes, idField_eq_fields, byte_eq_field1, ← List.append_assoc] at answered
  exact ⟨t, answered, base, sch⟩

/-- The local record's serial is no other local record's (R4). -/
theorem Sched.record_serial {s : Sched} (room : s.bookings.length < 128) (station : Nat) (draft : Booking) :
    (s.record station draft).id.origin = station ∧
      ∀ c ∈ s.bookings, c.cls ≠ .hosted → c.id.serial ≠ (s.record station draft).id.serial :=
  ⟨rfl, fun _ hc locally => s.nextSerial_fresh (Nat.le_of_lt room) hc locally⟩

theorem Booking.seekMsg_spec (v : Base) (b : Booking) :
    ∃ m : SeekFields, b.seekMsg v = .seek m ∧ m.id = b.id ∧ m.number = b.attempts := ⟨_, rfl, rfl, rfl⟩

/-- Settles O18: planned, chosen, sought, referred. -/
theorem bookPlansAFreeTuner : Obligations.BookPlansAFreeTuner := by
  refine ⟨?_, Sched.choose_spec, ?_, ?_⟩
  · intro f k s takes inv bare settled noHolds noA noB usable lower passes start finish ahead
    have noLive (j : Tuner) : (s.sch.tuners.get j).live = none := by
      cases j
      · exact noA
      · exact noB
    obtain ⟨-, room, -⟩ := State.bookRefusal_none passes
    obtain ⟨t, answered, base, sch⟩ := book_planned f k s takes bare settled noHolds noLive usable lower passes ahead
    refine ⟨t, (s.sch.record s.base.cfg.station (bookDraft f)).inState .planned (.tuner k), answered, Sched.nextHandle_lowest room,
      Sched.record_serial room _ (bookDraft f), ?_, base, ?_⟩
    · rw [bookDraft_eq]
      rfl
    · rw [sch, ← orderAfter_eq, ← serialAfter_eq]
      rfl
  · intro f s takes inv bare settled queue idle room noA noB passes limit start finish made ahead may
    obtain ⟨-, table, -⟩ := State.bookRefusal_none passes
    have asMade : ((s.sch.record s.base.cfg.station (bookDraft f)).inState .seeking .absent).tried =
        made s.sch.nextHandle ⟨s.base.cfg.station, s.sch.nextSerial⟩ := by
      rw [bookDraft_eq]
      rfl
    have able : s.base.maySeek ((s.sch.record s.base.cfg.station (bookDraft f)).inState .seeking .absent) = true := by
      have := may s.sch.nextHandle ⟨s.base.cfg.station, s.sch.nextSerial⟩
      rw [← asMade] at this
      exact this
    have joined : s.base.station = .joined := by
      apply Classical.byContradiction
      intro away
      rw [Base.maySeek_not_joined away] at able
      cases able
    obtain ⟨t, answered, base, sch⟩ := book_seeks f s takes bare settled (Sched.usable_none noA noB) queue idle room passes joined
      limit ahead able
    let b := ((s.sch.record s.base.cfg.station (bookDraft f)).inState .seeking .absent).tried
    obtain ⟨m, message, id, number⟩ := b.seekMsg_spec s.base
    refine ⟨t, b, m, answered, asMade, base, ?_⟩
    rw [sch, ← message]
    exact ⟨rfl, rfl, rfl, rfl, id, number, rfl, rfl⟩
  · intro f k g c m s takes inv settled passes away noHolds room usable alone noLive plan noPlan stacked found unplaced start finish
      cls lead stop ahead mux worse policy meets
    obtain ⟨lo, hi, tuned, before, after⟩ := meets
    have ofCls : (bookDraft f).cls = cls := by rw [bookDraft_eq]
    obtain ⟨t, answered, base, sch⟩ := book_refers f k g c m s takes settled passes away noHolds room usable alone noLive plan
      stacked found unplaced ahead mux worse (ofCls ▸ policy) tuned before after
    obtain ⟨rfl, -⟩ := s.sch.bk_handle found
    refine ⟨t, (s.sch.record s.base.cfg.station (bookDraft f)).inState .referred .absent, answered, rfl, rfl, ofCls, rfl, rfl, base,
      ?_⟩
    rw [sch, ← ofCls]
    exact ⟨rfl, rfl, rfl, rfl⟩

end Sys2Proof.Machine
end

section
/-! GUIDE-EVENT: the EPISODE booking that a link makes. -/

namespace Sys2Proof.Machine

/-! ## The best MARK heard (R59) -/

theorem markBeats_iff (started : Bool) (rank station : Nat) (started' : Bool) (rank' station' : Nat) :
    markBeats started rank station started' rank' station' = true ↔ (started = true ∧ started' = false) ∨
      (started = started' ∧ (rank < rank' ∨ (rank = rank' ∧ station < station'))) := by
  simp [markBeats]

/-- Of two MARKs one at most beats the other. -/
theorem MarkHeard.beats_asymm {a b : MarkHeard} (h : a.beats b = true) : b.beats a = false := by
  rw [Bool.eq_false_iff, Ne, MarkHeard.beats, markBeats_iff]
  rw [MarkHeard.beats, markBeats_iff] at h
  rintro (⟨h1, h2⟩ | ⟨h1, h2⟩) <;> rcases h with ⟨h3, h4⟩ | ⟨h3, h4⟩
  · simp [h1] at h4
  · simp [h1, h2] at h3
  · simp [h3, h4] at h1
  · omega

theorem bestMark_mem : ∀ {l : List MarkHeard} {m : MarkHeard}, bestMark l = some m → m ∈ l
  | a :: l, m, h => by
    unfold bestMark at h
    split at h
    · cases h
      exact List.mem_cons_self
    · rename_i k rest
      split at h <;> cases h
      · exact List.mem_cons_of_mem _ (bestMark_mem rest)
      · exact List.mem_cons_self

/-- The MARK that beats every other is the best. -/
theorem bestMark_eq {m : MarkHeard} : ∀ {l : List MarkHeard}, m ∈ l → (∀ x ∈ l, x ≠ m → m.beats x = true) → bestMark l = some m
  | a :: l, inside, best => by
    have below : ∀ x ∈ l, x ≠ m → m.beats x = true := fun x hx => best x (List.mem_cons_of_mem _ hx)
    unfold bestMark
    by_cases later : m ∈ l
    · rw [bestMark_eq later below]
      dsimp only
      split
      · rfl
      · rename_i not
        apply Classical.byContradiction
        intro other
        exact not (best a List.mem_cons_self fun same => other (congrArg some same))
    · obtain rfl : m = a := (List.mem_cons.mp inside).resolve_right later
      split
      · rfl
      · rename_i k found
        have beaten : k.beats m = false :=
          MarkHeard.beats_asymm (below k (bestMark_mem found) fun same => later (same ▸ bestMark_mem found))
        rw [beaten, if_neg Bool.false_ne_true]

/-- A MARK that a new booking of a link is weighed against. -/
def MarkHeard.isWeighed (v : Base) (series : Nat) (episode : Option Nat) (m : MarkHeard) : Bool :=
  m.series == series && some m.episode == episode && v.isPresent m.station

theorem Sched.coveredAtCreation_none {v : Base} {s : Sched} {series : Nat} {b : Booking}
    (loses : ∀ m ∈ s.marks, m.isWeighed v series b.episode = true →
      markBeats m.started m.rank m.station false b.unstartedRank v.cfg.station = false) :
    s.coveredAtCreation v series b = none := by
  unfold Sched.coveredAtCreation
  dsimp only
  refine Option.bind_eq_none_iff.mpr fun m found => ?_
  obtain ⟨inside, weighed⟩ := List.mem_filter.mp (bestMark_mem found)
  rw [loses m inside weighed, if_neg Bool.false_ne_true]

theorem Sched.coveredAtCreation_some {v : Base} {s : Sched} {series : Nat} {b : Booking} {m : MarkHeard} (inside : m ∈ s.marks)
    (weighed : m.isWeighed v series b.episode = true)
    (wins : markBeats m.started m.rank m.station false b.unstartedRank v.cfg.station = true)
    (best : ∀ x ∈ s.marks, x.isWeighed v series b.episode = true → x ≠ m → m.beats x = true) :
    s.coveredAtCreation v series b = some m.station := by
  have found : bestMark (s.marks.filter (MarkHeard.isWeighed v series b.episode)) = some m :=
    bestMark_eq (List.mem_filter.mpr ⟨inside, weighed⟩) fun x hx =>
      best x (List.mem_filter.mp hx).1 (List.mem_filter.mp hx).2
  show (bestMark (s.marks.filter (MarkHeard.isWeighed v series b.episode))).bind _ = _
  rw [found]
  exact if_pos wins

/-! ## The record and its link -/

theorem matchOne_makes {f : GuideFields} {l : Link} {s : State} (links : s.sch.links = [l]) (skips : s.skips f l = false)
    (room : s.sch.bookings.length < 128) :
    matchOne f (s, 0, 0) l.slot = (s.event fun e => e.createEpisode s.base f l, 1, 0) := by
  have found : s.sch.links.find? (fun m => m.slot == l.slot) = some l := by simp [links]
  have fits : s.sch.roomFor .episode = true := by simp [Sched.roomFor, room]
  simp [matchOne, found, skips, fits]

/-- The state with a link's new record in its table, the link's one count spent. -/
def Sched.linked (f : GuideFields) (l : Link) (b : Booking) (s : Sched) : Sched :=
  { s.recorded b with links := [l.spent f] }

/-- The notices of a new EPISODE booking (R57). -/
def Link.notices (f : GuideFields) (l : Link) (b : Booking) : List Notice :=
  .episodeBooked b.handle b.id l.id b.service f.event b.episode b.start b.finish b.state ::
    if (l.spent f).exhausted then [.linkExhausted l.id l.series] else []

/-- A link makes its record; where the record goes then is `placed`'s, and the notices follow (R57). -/
theorem Ev.createEpisode_of {v : Base} {f : GuideFields} {l : Link} {s x : Sched} {b : Booking} (links : s.links = [l])
    (table : s.bookings.length < 128)
    (placed : (Ev.of (s.linked f l (s.record v.cfg.station (l.draft f)))).placeEpisode v l.series s.nextHandle = Ev.of x)
    (found : x.bk s.nextHandle = some b) (room : x.Room 2) :
    (Ev.of s).createEpisode v f l = Ev.of { x with notices := x.notices ++ l.notices f b } := by
  have fits : s.roomFor (l.draft f).cls = true := by
    show s.roomFor .episode = true
    simp [Sched.roomFor, table]
  have made : (s.createLocal v.cfg.station (l.draft f)).modLink l.slot (Link.spent f) =
      s.linked f l (s.record v.cfg.station (l.draft f)) := by
    rw [Sched.createLocal_of_room _ fits]
    simp only [Sched.modLink, links, List.map_cons, List.map_nil, beq_self_eq_true, if_true]
    rfl
  obtain ⟨space, pending⟩ := room
  obtain ⟨handle, -⟩ := x.bk_handle found
  let y : Sched := { x with
    notices := x.notices ++ [.episodeBooked b.handle b.id l.id b.service f.event b.episode b.start b.finish b.state] }
  have notice : x.episodeNotice s.nextHandle l f.event = y := by
    unfold Sched.episodeNotice
    rw [found, ← handle]
    exact Sched.notice_room _ (by omega) pending
  have first : ((Ev.of s).on fun s => (s.createLocal v.cfg.station (l.draft f)).modLink l.slot (Link.spent f)) =
      Ev.of (s.linked f l (s.record v.cfg.station (l.draft f))) := congrArg Ev.of made
  have second : (Ev.of x).on (Sched.episodeNotice s.nextHandle l f.event) = Ev.of y := congrArg Ev.of notice
  unfold Ev.createEpisode
  dsimp only [Ev.of_s]
  rw [first, placed, second]
  unfold Link.notices
  split
  · refine congrArg Ev.of ((Sched.notice_room (s := y) _ ?_ pending).trans ?_)
    · show (x.notices ++ [_]).length < 32
      rw [List.length_append, List.length_singleton]
      omega
    · show ({ x with notices := x.notices ++ [_] ++ [_] } : Sched) = _
      rw [List.append_assoc]
      rfl
  · rfl

/-! ## Where the record goes -/

/-- Covered from the start (R59). -/
theorem Ev.placeEpisode_covered {v : Base} {series n : Nat} {s y : Sched} {b : Booking} (adds : s.Adds b y)
    (alive : b.state ≠ .ended) (covered : y.coveredAtCreation v series b = some n) (ahead : v.clock < b.spanEnd) :
    (Ev.of y).placeEpisode v series b.handle = Ev.of { y with
      bookings := insertBooking (b.inState .covered (.covered n)) s.bookings
      triggers := armedWith b.handle .stop b.spanEnd y.triggers } := by
  have found : (y.modB b.handle (Booking.inState .covered (.covered n))).bk b.handle = some (b.inState .covered (.covered n)) :=
    Sched.bk_modB_self _ (fun _ => rfl) adds.bk_same alive
  have arms := Ev.arm_ahead (v := v) (e := (Ev.of y).on fun s => s.modB b.handle (Booking.inState .covered (.covered n)))
    (k := .stop) (t := b.spanEnd) found rfl ahead
  unfold Ev.placeEpisode
  simp only [Ev.of_s, adds.bk_same, covered]
  refine arms.trans (congrArg Ev.of ?_)
  show ({ y.modB b.handle _ with triggers := _ } : Sched) = _
  rw [adds.modB (f := Booking.inState .covered (.covered n)) alive fun _ => rfl]
  rfl

/-- Not covered, it is placed and offers its MARK (R57). -/
theorem Ev.placeEpisode_placed {v : Base} {series : Nat} {s y : Sched} {b : Booking} (adds : s.Adds b y)
    (covered : y.coveredAtCreation v series b = none) :
    (Ev.of y).placeEpisode v series b.handle = ((Ev.of y).place v Open.new b.handle).on (Sched.offerMark v b.handle) := by
  unfold Ev.placeEpisode
  simp only [Ev.of_s, adds.bk_same, covered]

/-- The MARK that a booking offers of itself (R177). -/
def Booking.ownMark (v : Base) (series episode : Nat) (b : Booking) : Msg :=
  .mark ⟨v.tag, series, episode, b.rank, b.started.toNat, shortClamped v b.start⟩

/-- A booking of a link offers its MARK where the station is JOINED and the guide gave it an episode code (R177). -/
theorem Sched.offerMark_eq {v : Base} {s : Sched} {b : Booking} {series : Nat} (found : s.bk b.handle = some b)
    (cls : b.cls = .episode) (ofSeries : s.seriesOf b = some series) (room : v.station = .joined → s.txq.length < 12) :
    s.offerMark v b.handle = { s with txq := s.txq ++
      match v.station, b.episode with
      | .joined, some c => [compose v b.rank (b.ownMark v series c) none]
      | _, _ => [] } := by
  unfold Sched.offerMark
  simp only [found, cls, ofSeries]
  cases episode : b.episode with
  | none => cases v.station <;> simp
  | some c =>
    dsimp only
    by_cases joined : v.station = .joined
    · rw [if_pos joined, joined]
      exact (Sched.offer_plain rfl v _ none s).trans (if_pos ⟨by rw [joined]; rfl, room joined⟩)
    · rw [if_neg joined]
      cases station : v.station with
      | joined => exact absurd station joined
      | _ => simp

/-! ## The two effects -/

/-- What the link's record takes no part of. -/
theorem Sched.linked_seriesOf {f : GuideFields} {l : Link} {s : Sched} {b c : Booking} (link : c.link = some l.id) :
    (s.linked f l b).seriesOf c = some l.series := by
  unfold Sched.seriesOf
  rw [link]
  show Option.map _ (List.find? (fun m => m.id == l.id) [l.spent f]) = _
  rw [List.find?_cons_of_pos (by show (l.id == l.id) = true; exact beq_self_eq_true _)]
  rfl

/-- The state after a link has made a COVERED record. -/
def Sched.madeCovered (v : Base) (f : GuideFields) (l : Link) (n : Nat) (s : Sched) : Sched :=
  let b := (s.record v.cfg.station (l.draft f)).inState .covered (.covered n)
  { s.linked f l b with
    triggers := armedWith b.handle .stop b.spanEnd s.triggers
    notices := s.notices ++ l.notices f b }

theorem Ev.createEpisode_covered {v : Base} {f : GuideFields} {l : Link} {s : Sched} {n : Nat} (links : s.links = [l])
    (table : s.bookings.length < 128) (room : s.Room 2)
    (covered : (s.linked f l (s.record v.cfg.station (l.draft f))).coveredAtCreation v l.series
      (s.record v.cfg.station (l.draft f)) = some n)
    (ahead : v.clock < (s.record v.cfg.station (l.draft f)).spanEnd) :
    (Ev.of s).createEpisode v f l = Ev.of (s.madeCovered v f l n) := by
  let b := s.record v.cfg.station (l.draft f)
  have adds : s.Adds b (s.linked f l b) := Sched.adds_next table rfl rfl
  have placed := Ev.placeEpisode_covered (v := v) adds nofun covered ahead
  let x : Sched := { s.linked f l b with
    bookings := insertBooking (b.inState .covered (.covered n)) s.bookings
    triggers := armedWith b.handle .stop b.spanEnd s.triggers }
  have found : x.bk s.nextHandle = some (b.inState .covered (.covered n)) :=
    (Sched.adds_next (s := s) (t := x) (b := b.inState .covered (.covered n)) table rfl rfl).bk_same
  exact Ev.createEpisode_of (x := x) links table placed found room

/-- The state after a link has made a record that is PLANNED on a free tuner. -/
def Sched.madePlanned (v : Base) (f : GuideFields) (l : Link) (k : Tuner) (txq : List QMsg) (s : Sched) : Sched :=
  let b := (s.record v.cfg.station (l.draft f)).inState .planned (.tuner k)
  { s.linked f l b with
    plans := s.plans.set k [⟨b.handle, false⟩]
    triggers := armedWith b.handle .prepare (b.prepareTime v) s.triggers
    txq := s.txq ++ txq
    notices := s.notices ++ l.notices f b }

theorem Ev.createEpisode_planned {v : Base} {f : GuideFields} {l : Link} {k : Tuner} {s : Sched} (links : s.links = [l])
    (table : s.bookings.length < 128) (room : s.Room 2) (bare : s.Bare) (noHolds : s.holds = [])
    (noLive : ∀ j, (s.tuners.get j).live = none) (usable : s.usable k = true) (lower : k = .B → s.usable .A = false)
    (uncovered : (s.linked f l (s.record v.cfg.station (l.draft f))).coveredAtCreation v l.series
      (s.record v.cfg.station (l.draft f)) = none)
    (sound : (l.draft f).start < (l.draft f).finish) (ahead : v.clock < (l.draft f).prepareTime v)
    (space : v.station = .joined → s.txq.length < 12) :
    (Ev.of s).createEpisode v f l = Ev.of (s.madePlanned v f l k
      (match v.station, f.episode with
      | .joined, some c =>
        [compose v (2 + 2 * l.priority) ((s.record v.cfg.station (l.draft f)).ownMark v l.series c) none]
      | _, _ => [])) := by
  let b := s.record v.cfg.station (l.draft f)
  let c := b.inState .planned (.tuner k)
  have adds : s.Adds b (s.linked f l b) := Sched.adds_next table rfl rfl
  have first : (Open.new.prefer.getD .A) = k ∨
      (s.linked f l b).usable (Open.new.prefer.getD .A) = false ∧ (Open.new.prefer.getD .A).other = k := by
    cases k with
    | A => exact .inl rfl
    | B => exact .inr ⟨lower rfl, rfl⟩
  have placed := Ev.place_free (v := v) (o := Open.new) (k := k) adds nofun bare noHolds noLive usable rfl first rfl sound ahead
  let x : Sched := { s.linked f l c with
    plans := s.plans.set k [⟨b.handle, false⟩], triggers := armedWith b.handle .prepare (b.prepareTime v) s.triggers }
  have found : x.bk c.handle = some c := (Sched.adds_next (s := s) (t := x) (b := c) table rfl rfl).bk_same
  have mark := Sched.offerMark_eq (v := v) (s := x) (b := c) found rfl (Sched.linked_seriesOf (s := s) (b := c) rfl) space
  let y := x.offerMark v b.handle
  have made : (Ev.of (s.linked f l b)).placeEpisode v l.series s.nextHandle = Ev.of y := by
    rw [show s.nextHandle = b.handle from rfl, Ev.placeEpisode_placed adds uncovered, placed]
    rfl
  have offered : y = { x with txq := s.txq ++
      match v.station, f.episode with
      | .joined, some e => [compose v (2 + 2 * l.priority) (b.ownMark v l.series e) none]
      | _, _ => [] } := mark
  have found' : y.bk s.nextHandle = some c := by rw [offered]; exact found
  have space' : y.Room 2 := by rw [offered]; exact room
  rw [Ev.createEpisode_of (x := y) links table made found' space', offered]
  rfl

/-! ## GUIDE-EVENT -/

theorem addEpisode_eq {episode : Option Nat} {l : List Nat} (short : l.length ≤ 48) : addEpisode episode l =
    match episode with
    | none => l
    | some c => (if l.length = 48 then l.tail else l) ++ [c] := by
  cases episode with
  | none => rfl
  | some c =>
    have full : 48 ≤ l.length ↔ l.length = 48 := by omega
    simp only [addEpisode, full]

theorem Link.spent_exhausted {l : Link} (f : GuideFields) (left : l.exhausted = false) :
    (l.spent f).exhausted = l.count.any fun n => n.remaining ≤ 1 := by
  unfold Link.spent
  cases l.count with
  | none => exact left
  | some c =>
    rw [Bool.eq_iff_iff]
    simp only [Count.spend, Option.any_some, decide_eq_true_eq, beq_iff_eq]
    omega

theorem Link.spent_eq {l : Link} (f : GuideFields) (left : l.exhausted = false) (short : l.episodes.length ≤ 48) : l.spent f =
    { l with
      episodes := match f.episode with
        | none => l.episodes
        | some c => (if l.episodes.length = 48 then l.episodes.tail else l.episodes) ++ [c]
      count := l.count.map fun n => { n with remaining := n.remaining - 1 }
      exhausted := l.count.any fun n => n.remaining ≤ 1
      backlog := false } := by
  rw [← addEpisode_eq short, ← Link.spent_exhausted f left]
  rfl

/-- The one matching link makes a record, and the guide event answers so. -/
theorem State.Takes.makesEpisode {f : GuideFields} {l : Link} {s : State} {x : Sched} (takes : s.Takes)
    (timed : s.base.timed = true) (long : 1 ≤ f.duration) (duration : f.duration ≤ 1440) (repeated : f.repeated ≤ 1)
    (links : s.sch.links = [l]) (hit : Link.matches f l = true)
    (programme : ∀ b ∈ s.sch.bookings, b.service ≠ f.service ∨ b.event ≠ some f.event) (skips : s.skips f l = false)
    (table : s.sch.bookings.length < 128) (effect : (Ev.of s.sch).createEpisode s.base f l = Ev.of x) (settled : x.Settled) :
    ∃ t, Answered (.guideEvent f) s t .ok [0, 0, 1, 0] ∧ t.base = s.base ∧ t.sch = x := by
  have one : s.guideStep1 f = (s, 0, 0) := State.guideStep1_none fun b hb => by
    rw [Bool.eq_false_iff, Ne, reached_iff]
    rintro ⟨-, -, service, event⟩
    exact (programme b hb).elim (· service) (· event)
  have two := (State.guideStep2_one long links hit).trans (matchOne_makes links skips table)
  obtain ⟨t, answered, base, sch⟩ := takes.answers rfl (exec_guideEvent f s)
    (State.guideEvent_steps timed duration repeated one two) (s.beside_event _)
  refine ⟨t, answered, base, sch.trans ((State.event_sch _ _).trans ?_)⟩
  rw [Sched.event, effect]
  exact Ev.settle_settled (e := Ev.of x) (Ev.rests_quiet rfl rfl rfl) rfl settled

/-- Settles O26: the link's record is PLANNED, or COVERED from the start. -/
theorem guideEventMakesAnEpisode : Obligations.GuideEventMakesAnEpisode := by
  intro f l s takes inv timed long duration repeated links series scope left first episode programme table settled room
    start finish prepare rank weighed beats makes near
  have short : l.episodes.length ≤ 48 := inv.sch.episodes l (by rw [links]; exact List.mem_singleton_self l)
  have run {x : Sched} (ahead : s.base.clock < finish) := takes.makesEpisode (f := f) (l := l) (x := x) timed long duration repeated
    links (Link.matches_of series scope left) programme (State.skips_none left first episode programme ahead near) table
  let b := s.sch.record s.base.cfg.station (l.draft f)
  obtain ⟨low, fresh, -⟩ := Sched.nextHandle_lowest table
  have isWeighed (m : MarkHeard) : m.isWeighed s.base l.series b.episode = true ↔ weighed m := by
    simp only [MarkHeard.isWeighed, Bool.and_eq_true, beq_iff_eq, and_assoc]
    exact and_congr_right fun _ => and_congr_left fun _ => eq_comm
  constructor
  · intro k loses bare noHolds noA noB usable lower ahead space
    have noLive (j : Tuner) : (s.sch.tuners.get j).live = none := by
      cases j
      · exact noA
      · exact noB
    have uncovered : (s.sch.linked f l b).coveredAtCreation s.base l.series b = none :=
      Sched.coveredAtCreation_none fun m hm heard => by
        rw [Bool.eq_false_iff, Ne, markBeats_iff]
        exact loses m hm ((isWeighed m).mp heard)
    have sound : start < finish := GuideFields.guideEnd_after long
    have later : s.base.clock < finish := by omega
    have effect := Ev.createEpisode_planned (v := s.base) (f := f) (k := k) links table room bare noHolds noLive usable lower uncovered
      sound ahead space
    have found (txq : List QMsg) : (s.sch.madePlanned s.base f l k txq).bk s.sch.nextHandle = some (b.inState .planned (.tuner k)) :=
      (Sched.adds_next (s := s.sch) (t := s.sch.madePlanned s.base f l k txq) (b := b.inState .planned (.tuner k)) table rfl
        rfl).bk_same
    obtain ⟨t, answered, base, sch⟩ := run later effect
      (settled.of_vacant rfl (Sched.occupants_unplanned bare.1) (Sched.occupants_planned (h := s.sch.nextHandle) (k := k)
        (by show s.sch.plans.set k [⟨s.sch.nextHandle, false⟩] = _; rw [bare.1]) (found _) rfl))
    refine ⟨t, b.inState .planned (.tuner k), answered, ⟨low, fresh⟩, Sched.record_serial table _ (l.draft f), rfl, base, ?_⟩
    rw [sch, ← orderAfter_eq, ← serialAfter_eq]
    unfold Sched.madePlanned Sched.linked Link.notices
    rw [Link.spent_exhausted f left, Link.spent_eq f left short]
    rfl
  · intro m inside heard wins best ahead
    have covered : (s.sch.linked f l b).coveredAtCreation s.base l.series b = some m.station :=
      Sched.coveredAtCreation_some inside ((isWeighed m).mpr heard) ((markBeats_iff _ _ _ _ _ _).mpr wins) fun x hx h other =>
        (markBeats_iff _ _ _ _ _ _).mpr (best x hx ((isWeighed x).mp h) other)
    have effect := Ev.createEpisode_covered (v := s.base) (f := f) links table room covered
      (Nat.lt_of_lt_of_le ahead (Nat.le_add_right _ _))
    obtain ⟨t, answered, base, sch⟩ := run ahead effect
      ((Sched.adds_next (s := s.sch) (t := s.sch.madeCovered s.base f l m.station)
        (b := b.inState .covered (.covered m.station)) table rfl rfl).settled settled rfl rfl rfl)
    refine ⟨t, b.inState .covered (.covered m.station), answered, ⟨low, fresh⟩, Sched.record_serial table _ (l.draft f), rfl, base, ?_⟩
    rw [sch, ← orderAfter_eq, ← serialAfter_eq]
    unfold Sched.madeCovered Sched.linked Link.notices
    rw [Link.spent_exhausted f left, Link.spent_eq f left short]
    rfl

end Sys2Proof.Machine
end

section
/-! Attempts: how they begin, and what their sending and their failing leave. -/

namespace Sys2Proof.Machine

/-! ## The queue around the message in the attempt -/

/-- The message in the attempt gives way to what is put in its place. -/
theorem flatMap_at_attempt {before after : List QMsg} {q : QMsg} (f : QMsg → List QMsg) (marked : q.att = true)
    (others : ∀ x ∈ before ++ after, x.att = false) :
    (before ++ q :: after).flatMap (fun x => if x.att then f x else [x]) = before ++ f q ++ after := by
  have apart : ∀ l : List QMsg, (∀ x ∈ l, x.att = false) → l.flatMap (fun x => if x.att then f x else [x]) = l := fun l h => by
    induction l with
    | nil => rfl
    | cons a l ih =>
      obtain ⟨ha, hl⟩ := List.forall_mem_cons.mp h
      simp [ha, ih hl]
  rw [List.flatMap_append, List.flatMap_cons, apart before fun x hx => others x (List.mem_append_left _ hx),
    apart after fun x hx => others x (List.mem_append_right _ hx), marked, if_pos rfl, List.append_assoc]

/-- A queue with its one message in an attempt. -/
structure Sched.Attempts (s : Sched) (before : List QMsg) (q : QMsg) (after : List QMsg) : Prop where
  queue : s.txq = before ++ q :: after
  marked : q.att = true
  others : ∀ x ∈ before ++ after, x.att = false

/-- What takes the place of a message whose attempt fails (R127, R133). -/
def QMsg.failedTo (v : Base) (beside : Option QMsg) (q : QMsg) : List QMsg :=
  match beside with
  | some r => [r]
  | none => if q.bidOver v then [] else [{ q with att := false }]

/-- The state with a queue, no attempt and no ROLL beside one. -/
def Sched.queues (l : List QMsg) (s : Sched) : Sched := { s with txq := l, waitingRoll := none, attempt := none }

namespace Sched.Attempts
variable {s : Sched} {before after : List QMsg} {q : QMsg}

theorem inAttempt (h : s.Attempts before q after) : s.inAttempt = some q :=
  Sched.inAttempt_of_first h.queue h.marked fun x hx => h.others x (List.mem_append_left _ hx)

theorem sentOff (h : s.Attempts before q after) : s.sentOff =
    { s with txq := before ++ s.waitingRoll.toList ++ after, waitingRoll := none, attempt := none } := by
  unfold Sched.sentOff
  rw [h.queue, flatMap_at_attempt (fun _ => s.waitingRoll.toList) h.marked h.others]

theorem offeredLater (h : s.Attempts before q after) : s.offeredLater = after := by
  have skips : (before ++ q :: after).dropWhile (fun x => !x.att) = q :: after := by
    rw [List.dropWhile_append_of_pos fun x hx => by simp [h.others x (List.mem_append_left _ hx)]]
    simp [h.marked]
  rw [Sched.offeredLater, h.queue, skips, List.tail_cons]

/-- The state after an attempt that fails (R127, R133). -/
theorem failedOff (h : s.Attempts before q after) (v : Base) : s.failedOff v =
    let t := s.queues (before ++ q.failedTo v s.waitingRoll ++ after)
    if q.bidOver v then t.dropHoldOf q else t := by
  have moved : s.failedOff v =
      let t := s.queues (s.txq.flatMap fun x => if x.att then x.failedTo v s.waitingRoll else [x])
      match s.inAttempt with
      | some q => if q.bidOver v then t.dropHoldOf q else t
      | none => t := rfl
  rw [moved, h.inAttempt, h.queue, flatMap_at_attempt _ h.marked h.others]

end Sched.Attempts

/-! ## The end of an attempt, on a station that is not LEAVING -/

theorem State.drain_stays {s : State} (stays : s.base.station ≠ .leaving) : s.drain = s := by
  simp [State.drain, stays]

theorem Base.rollSent_station (v : Base) (m : Msg) : (v.rollSent m).station = v.station := by
  unfold Base.rollSent
  split <;> rfl

/-- What a station that is not LEAVING learns of a message sent. -/
theorem Base.rollSent_eq {v : Base} (stays : v.station ≠ .leaving) (m : Msg) : v.rollSent m =
    { v with lastSent := match m with | .roll r => r.sequence | _ => v.lastSent } := by
  unfold Base.rollSent
  cases m with
  | roll r => simp [stays]
  | _ => rfl

theorem State.attemptSent_stays {s : State} {before after : List QMsg} {q : QMsg} {bits : List Bool}
    (standing : s.sch.attempt = some bits) (attempts : s.sch.Attempts before q after) (stays : s.base.station ≠ .leaving) :
    s.attemptSent = { s with
      base := { s.base.rollSent q.msg with idleBits := 0 }
      sch := Sched.told { s.base.rollSent q.msg with idleBits := 0 } q.msg after
        { s.sch with txq := before ++ s.sch.waitingRoll.toList ++ after, waitingRoll := none, attempt := none } } := by
  unfold State.attemptSent
  simp only [standing, attempts.inAttempt, attempts.sentOff, attempts.offeredLater]
  exact State.drain_stays (by show (s.base.rollSent q.msg).station ≠ _; rwa [Base.rollSent_station])

theorem State.attemptFails_stays {s : State} {bits : List Bool} (standing : s.sch.attempt = some bits)
    (stays : s.base.station ≠ .leaving) :
    s.attemptFails = { s with base := { s.base with idleBits := 0 }, sch := s.sch.failedOff s.base } := by
  unfold State.attemptFails
  rw [standing]
  exact State.drain_stays stays

theorem State.attemptFails_idle {s : State} (idle : s.sch.attempt = none) : s.attemptFails = s := by
  simp [State.attemptFails, idle]

/-! ## What a message sent starts -/

theorem Sched.told_plain {v : Base} {m : Msg} {later : List QMsg} {s : Sched} (idle : s.engine = .idle)
    (noTally : ∀ f n, m ≠ .tally f n) : s.told v m later = s := by
  cases m with
  | tally f n => exact absurd rfl (noTally f n)
  | _ => simp [Sched.told, idle]

theorem Sched.told_seek {v : Base} {f : SeekFields} {s : Sched} {h : Nat} {bids : List Bid} {b : Booking}
    (engine : s.engine = .collecting h none bids) (found : s.bk h = some b) (id : b.id = f.id) (number : b.attempts = f.number) :
    s.told v (.seek f) [] = { s with engine := .collecting h (some (v.now + v.cfg.bidWindow * 4096)) bids } := by
  simp [Sched.told, engine, found, id, number, milli]

theorem Sched.told_award {v : Base} {f : AwardFields} {s : Sched} {h : Nat} {bids : List Bid} {b : Booking}
    (engine : s.engine = .awaiting h f.awardee none bids) (found : s.bk h = some b) (id : b.id = f.id)
    (number : b.attempts = f.number) : s.told v (.award f) [] =
      { s with engine := .awaiting h f.awardee (some (v.now + v.cfg.takeTimeout * 4096)) bids } := by
  simp [Sched.told, engine, found, id, number, milli]

theorem exec_messageSent_stays {s : State} {before after : List QMsg} {q : QMsg} {bits : List Bool} (high : s.resetLow = false)
    (standing : s.sch.attempt = some bits) (attempts : s.sch.Attempts before q after) (stays : s.base.station ≠ .leaving) :
    exec .messageSent s = .next { s with
      base := { s.base with
        idleBits := 0
        lastSent := match q.msg with | .roll r => r.sequence | _ => s.base.lastSent }
      sch := Sched.told { s.base.rollSent q.msg with idleBits := 0 } q.msg after
        (s.sch.queues (before ++ s.sch.waitingRoll.toList ++ after)) } := by
  rw [exec_messageSent, s.happens_high State.attemptSent high,
    State.attemptSent_stays standing attempts stays, Base.rollSent_eq stays]
  rfl

/-- Settles O46: how an attempt begins, what its sending leaves in the queue, and what it starts or ends. -/
theorem attemptsBeginAndAreSent : Obligations.AttemptsBeginAndAreSent := by
  refine ⟨fun s high => ⟨fun barred => ?_, ?_⟩, ?_, ?_⟩
  · have stays : s.startAttempt = s := by
      rcases barred with busy | empty
      · cases attempt : s.sch.attempt with
        | none => exact absurd attempt busy
        | some bits => simp [State.startAttempt, attempt]
      · cases attempt : s.sch.attempt <;> simp [State.startAttempt, attempt, empty, lowestKey]
    rw [exec_attemptStart, s.happens_high _ high, stays]
  · intro free idle before q after queue above upTo sent
    have waited : s.base.awaitIdle = s.base := if_pos (Nat.le_of_eq idle.symm)
    rw [exec_attemptStart, s.happens_high _ high,
      State.startAttempt_of_lowest free queue above upTo, waited]
    rfl
  · intro before q after bits s high standing queue marked others stays noTally idle
    rw [exec_messageSent_stays high standing ⟨queue, marked, others⟩ stays, Sched.told_plain (s := s.sch.queues _) idle noTally]
    rfl
  · intro before q bits s high standing queue others marked noRoll stays off base
    have run := exec_messageSent_stays high standing (before := before) (q := q) (after := []) ⟨queue, marked, by simpa using others⟩
      stays
    rw [noRoll, Option.toList_none, List.append_nil, List.append_nil] at run
    refine ⟨?_, ?_, ?_⟩
    · intro f h bids b msg engine found id number
      rw [run, msg, Sched.told_seek (s := s.sch.queues before) engine found id number]
      simp only [off, Sched.queues, noRoll]
      rfl
    · intro f h st bids b msg engine found id number awardee
      subst awardee
      rw [run, msg, Sched.told_award (s := s.sch.queues before) engine found id number]
      simp only [off, Sched.queues, noRoll]
      rfl
    · intro f n msg
      rw [run, msg]
      simp only [off, Sched.queues, noRoll]
      rfl

end Sys2Proof.Machine
end

section
/-! Attempts that fail, and BIDs that go unsent. -/

namespace Sys2Proof.Machine

theorem QMsg.bidOver_iff (v : Base) (q : QMsg) : q.bidOver v = true ↔ ∃ u, q.bidEnd = some u ∧ u ≤ v.now := by
  unfold QMsg.bidOver
  cases q.bidEnd <;> simp

/-- A BID's own hold goes with it (R167). -/
theorem Sched.dropHoldOf_bid {s : Sched} {q : QMsg} {f : BidFields} {u : Nat} (msg : q.msg = .bid f) (ends : q.bidEnd = some u) :
    s.dropHoldOf q = { s with holds := s.holds.filter fun x => !(x.id == f.id && x.number == f.number && x.bidEnd == u) } := by
  have own (x : Hold) : x.isOf q = (x.id == f.id && x.number == f.number && x.bidEnd == u) := by
    unfold Hold.isOf
    rw [msg, ends]
    show (x.id == f.id && x.number == f.number && (some u == some x.bidEnd)) = _
    rw [Option.some_beq_some, BEq.comm (a := u)]
  simp only [Sched.dropHoldOf, own]

/-- A failed attempt, on a station that is not LEAVING. -/
theorem exec_attemptFailed_stays {s : State} {before after : List QMsg} {q : QMsg} {bits : List Bool} (why : AttemptEnd)
    (high : s.resetLow = false) (standing : s.sch.attempt = some bits) (attempts : s.sch.Attempts before q after)
    (stays : s.base.station ≠ .leaving) {x : Sched}
    (effect : (let t := s.sch.queues (before ++ q.failedTo s.base s.sch.waitingRoll ++ after)
      if q.bidOver s.base then t.dropHoldOf q else t) = x) :
    exec (.attemptFailed why) s = .next { s with base := { s.base with idleBits := 0 }, sch := x } := by
  rw [exec_attemptFailed, s.happens_high _ high, State.attemptFails_stays standing stays, attempts.failedOff, effect]

theorem attemptFailed_leaves (why : AttemptEnd) (s : State) (high : s.resetLow = false) :
    (s.sch.attempt = none → exec (.attemptFailed why) s = .next s) ∧
    ∀ before q after bits, s.sch.attempt = some bits → s.sch.txq = before ++ q :: after → q.att = true →
      (∀ x ∈ before ++ after, x.att = false) → s.base.station ≠ .leaving →
      let base := { s.base with idleBits := 0 }
      (s.sch.waitingRoll = none → (∀ u, q.bidEnd = some u → s.base.now < u) → exec (.attemptFailed why) s = .next
        { s with
          base := base, sch := { s.sch with txq := before ++ { q with att := false } :: after, attempt := none } }) ∧
      (∀ r, s.sch.waitingRoll = some r → q.bidEnd = none → exec (.attemptFailed why) s = .next
        { s with base := base, sch := { s.sch with txq := before ++ r :: after, waitingRoll := none, attempt := none } }) ∧
      (∀ u f, s.sch.waitingRoll = none → q.bidEnd = some u → u ≤ s.base.now → q.msg = .bid f →
        exec (.attemptFailed why) s = .next
          { s with
            base := base
            sch := { s.sch with
              txq := before ++ after, attempt := none
              holds := s.sch.holds.filter fun x => !(x.id == f.id && x.number == f.number && x.bidEnd == u) } }) := by
  refine ⟨fun idle => ?_, fun before q after bits standing queue marked others stays => ?_⟩
  · rw [exec_attemptFailed, s.happens_high _ high, State.attemptFails_idle idle]
  · have run {x : Sched} := exec_attemptFailed_stays (x := x) why high standing ⟨queue, marked, others⟩ stays
    refine ⟨fun noRoll open' => run ?_, fun r roll noEnd => run ?_, fun u f noRoll ends past msg => run ?_⟩
    · have notOver : q.bidOver s.base = false := by
        rw [Bool.eq_false_iff, Ne, QMsg.bidOver_iff]
        rintro ⟨u, ends, past⟩
        exact absurd (open' u ends) (Nat.not_lt.mpr past)
      simp [QMsg.failedTo, notOver, noRoll, Sched.queues]
    · have notOver : q.bidOver s.base = false := by simp [QMsg.bidOver, noEnd]
      simp [QMsg.failedTo, notOver, roll, Sched.queues]
    · have isOver : q.bidOver s.base = true := (QMsg.bidOver_iff s.base q).mpr ⟨u, ends, past⟩
      simp [QMsg.failedTo, isOver, noRoll, Sched.queues, Sched.dropHoldOf_bid msg ends]

/-- A test that one message of a list passes and no other. -/
theorem filter_single {p : QMsg → Bool} {before after : List QMsg} {q : QMsg} (here : p q = true)
    (others : ∀ x ∈ before ++ after, p x = false) :
    (before ++ q :: after).filter p = [q] ∧ (before ++ q :: after).filter (fun x => !p x) = before ++ after := by
  obtain ⟨hb, ha⟩ := List.forall_mem_append.mp others
  have none (l : List QMsg) (h : ∀ x ∈ l, p x = false) : l.filter p = [] ∧ l.filter (fun x => !p x) = l :=
    ⟨List.filter_eq_nil_iff.mpr fun x hx => by simp [h x hx], List.filter_eq_self.mpr fun x hx => by simp [h x hx]⟩
  constructor
  · rw [List.filter_append, List.filter_cons_of_pos here, (none before hb).1, (none after ha).1, List.nil_append]
  · rw [List.filter_append, List.filter_cons_of_neg (by simp [here]), (none before hb).2, (none after ha).2]

/-! ## BIDs past their window end -/

theorem QMsg.waitsBid_iff (j : BookingId) (q : QMsg) :
    q.waitsBid j = true ↔ (∃ f, q.msg = .bid f ∧ f.id = j) ∧ q.att = false := by
  unfold QMsg.waitsBid Msg.bidId
  cases q.msg <;> simp

theorem queuedBidRemoved_nothing (j : BookingId) (s : State)
    (unsent : ∀ q ∈ s.sch.txq, ∀ f, q.msg = .bid f → f.id ≠ j ∨ q.att = true ∨ q.bidEnd = none) :
    exec (.queuedBidRemoved j) s = .next s := by
  have nobody : (s.sch.txq.filter (QMsg.waitsBid j)).filterMap (·.bidEnd) = [] := by
    refine List.filterMap_eq_nil_iff.mpr fun q hq => ?_
    obtain ⟨mem, waits⟩ := List.mem_filter.mp hq
    obtain ⟨⟨f, msg, id⟩, att⟩ := (QMsg.waitsBid_iff j q).mp waits
    rcases unsent q mem f msg with e | e | e
    · exact absurd id e
    · simp [att] at e
    · exact e
  have noneDue : s.queuedBidEnd j = none := by
    rw [State.queuedBidEnd, nobody]
    rfl
  rw [exec_queuedBidRemoved, State.atInstant_stopped _ _ s noneDue]

/-- The BID for a booking id whose window ends first, the only one that has by then. -/
theorem queuedBidRemoved_first (j : BookingId) (u : Nat) (before : List QMsg) (q : QMsg) (after : List QMsg) (f : BidFields)
    (s : State) (high : s.resetLow = false) (stays : s.base.station ≠ .leaving) (queue : s.sch.txq = before ++ q :: after)
    (msg : q.msg = .bid f) (id : f.id = j) (unmarked : q.att = false) (ends : q.bidEnd = some u)
    (others : ∀ x ∈ before ++ after, ∀ g, x.msg = .bid g → g.id = j → x.att = false →
      ∀ w ∈ x.bidEnd, u ≤ w ∧ (s.countTo u).base.now < w)
    (past : u ≤ (s.countTo u).base.now) :
    ∃ t, Happened (.queuedBidRemoved j) s t ∧ t.base = (s.countTo u).base ∧
      t.sch =
        { s.sch with
          txq := before ++ after
          holds := s.sch.holds.filter fun x => !(x.id == j && x.number == f.number && x.bidEnd == u) } := by
  have waits : q.waitsBid j = true := (QMsg.waitsBid_iff j q).mpr ⟨⟨f, msg, id⟩, unmarked⟩
  have mem : q ∈ s.sch.txq := by rw [queue]; simp
  have rest : ∀ x ∈ s.sch.txq, x = q ∨ x ∈ before ++ after := fun x hx => by
    rw [queue] at hx
    simp only [List.mem_append, List.mem_cons] at hx ⊢
    exact or_left_comm.mp hx
  have due : s.queuedBidEnd j = some u := by
    refine List.min?_eq_some_iff.mpr ⟨List.mem_filterMap.mpr ⟨q, List.mem_filter.mpr ⟨mem, waits⟩, ends⟩, fun w hw => ?_⟩
    obtain ⟨x, hx, xEnds⟩ := List.mem_filterMap.mp hw
    obtain ⟨xMem, xWaits⟩ := List.mem_filter.mp hx
    rcases rest x xMem with rfl | other
    · exact Nat.le_of_eq (Option.some.inj (ends.symm.trans xEnds))
    · obtain ⟨⟨g, xMsg, xId⟩, att⟩ := (QMsg.waitsBid_iff j x).mp xWaits
      exact (others x other g xMsg xId att w xEnds).1
  let v := (s.countTo u).base
  have gone : (q.waitsBid j && q.bidOver v) = true := by
    rw [waits, Bool.true_and, QMsg.bidOver_iff]
    exact ⟨u, ends, past⟩
  have kept : ∀ x ∈ before ++ after, (x.waitsBid j && x.bidOver v) = false := fun x hx => by
    rw [Bool.eq_false_iff, Ne, Bool.and_eq_true, QMsg.waitsBid_iff, QMsg.bidOver_iff]
    rintro ⟨⟨⟨g, xMsg, xId⟩, att⟩, w, xEnds, xPast⟩
    exact absurd (others x hx g xMsg xId att w xEnds).2 (Nat.not_lt.mpr xPast)
  obtain ⟨goes, stay⟩ := filter_single (p := fun x => x.waitsBid j && x.bidOver v) gone kept
  rw [← queue] at goes stay
  have drops : s.sch.dropBids v j = { s.sch with
      txq := before ++ after
      holds := s.sch.holds.filter fun x => !(x.id == j && x.number == f.number && x.bidEnd == u) } := by
    unfold Sched.dropBids
    dsimp only
    rw [goes, stay, ← id]
    exact Sched.dropHoldOf_bid (s := { s.sch with txq := before ++ after }) msg ends
  have stays' : ((s.countTo u).onSched (Sched.dropBids v j)).base.station ≠ .leaving := by
    show (s.countTo u).base.station ≠ _
    rwa [State.countTo_station]
  have still := State.drain_stays stays'
  refine ⟨_, State.happened_at (exec_queuedBidRemoved j s) high due ((State.beside_onSched _ _).trans (State.beside_drain _)), ?_, ?_⟩
  · exact (congrArg State.base still).trans rfl
  · exact (congrArg State.sch still).trans drops

/-- Settles O47: the attempt that fails, no BID to remove, and the one removed. -/
theorem attemptsFailAndBidsGo : Obligations.AttemptsFailAndBidsGo :=
  ⟨attemptFailed_leaves, queuedBidRemoved_nothing, queuedBidRemoved_first⟩

end Sys2Proof.Machine
end

section
/-! Deadlines of peers: the interval deadline and the confirm deadline. -/

namespace Sys2Proof.Machine

/-! ## A peer that nothing stands with -/

theorem Sched.pick_nobody {s : Sched} {p : Booking → Bool} (none : ∀ b ∈ s.bookings, p b = false) : s.pick p = [] := by
  have nobody : s.bookings.filter p = [] := List.filter_eq_nil_iff.mpr fun b hb => by simp [none b hb]
  rw [Sched.pick, nobody]
  rfl

theorem Ev.lostBookings_none {v : Base} {p : Nat → Bool} {e : Ev} (none : ∀ b ∈ e.s.bookings, b.standsWith p = false) :
    e.lostBookings v p = e := by
  rw [Ev.lostBookings, Sched.pick_nobody none]
  rfl

theorem Booking.standsWith_iff (p : Nat → Bool) (b : Booking) : b.standsWith p = true ↔
    ∃ n, p n = true ∧ ((b.state = .lent ∧ b.plan = .lent n) ∨ (b.state = .covered ∧ b.plan = .covered n)) := by
  unfold Booking.standsWith
  cases b.state <;> cases b.plan <;> simp

/-- The state without the holds and lapsed records of a peer's SEEKs (R174). -/
def Sched.unshare (n : Nat) (s : Sched) : Sched :=
  { s with holds := s.holds.filter fun x => x.id.origin != n, lapsed := s.lapsed.filter fun x => x.id.origin != n }

theorem Ev.voidShared_idle {v : Base} {n : Nat} {lost : Bool} {e : Ev} (idle : e.s.engine = .idle) :
    e.voidShared v n lost = e.on (Sched.unshare n) := by
  unfold Ev.voidShared
  rw [idle]
  rfl

/-! ## An interval that brings nothing -/

theorem Base.peer_station {v : Base} {n : Nat} {p : Peer} (found : v.peer n = some p) : p.station = n := by
  have := List.find?_some (show v.peers.find? (fun p => p.station == n) = some p from found)
  simpa using this

theorem Peer.settled_station (w : Nat) (r : Interval) (p : Peer) : (p.settled w r).station = p.station := by
  unfold Peer.settled
  dsimp only
  split <;> rfl

theorem Peer.settled_presence (w : Nat) (r : Interval) (p : Peer) : (p.settled w r).presence = (p.count w r).moved r := by
  unfold Peer.settled
  dsimp only
  split
  · rename_i h
    rw [h]
    rfl
  · rfl

/-- A record that does not become ABSENT keeps its flags and its incarnation, one that does its incarnation (R151). -/
theorem Peer.settled_incarnation (w : Nat) (r : Interval) (p : Peer) : (p.settled w r).incarnation = p.incarnation := by
  unfold Peer.settled
  dsimp only
  split <;> rfl

theorem Peer.settled_flags {w : Nat} {r : Interval} {p : Peer} (stays : (p.settled w r).presence ≠ .absent) :
    (p.settled w r).flags = p.flags := by
  unfold Peer.settled at stays ⊢
  dsimp only at stays ⊢
  split
  · rename_i h
    rw [h] at stays
    exact absurd rfl stays
  · rfl

/-- A missing interval makes no record PRESENT. -/
theorem Peer.settled_missing_present {w : Nat} {p : Peer} (h : (p.settled w .missing).presence = .present) :
    p.presence = .present := by
  rw [Peer.settled_presence, Peer.moved_count] at h
  cases e : p.presence with
  | present => rfl
  | absent => rw [e] at h; cases h
  | hearing => rw [e] at h; cases h
  | suspect =>
    rw [e] at h
    simp only [Interval.bad, bne_iff_ne, ne_eq, reduceCtorEq, not_false_eq_true, not_true_eq_false, false_and, if_false] at h
    split at h <;> cases h

theorem Peer.not_eligible_of_absent {p : Peer} (h : p.presence = .absent) : p.eligible = false := by
  simp [Peer.eligible, h]

theorem Peer.eligible_congr {p q : Peer} (presence : p.presence = q.presence) (flags : p.flags = q.flags) :
    p.eligible = q.eligible := by
  unfold Peer.eligible
  rw [presence, flags]

/-- A missing interval that leaves the record as present as it was hands nothing on (R156). -/
theorem Ev.handPresence_none {v : Base} {p q : Peer} {cause : PeerCause} {e : Ev}
    (still : q.presence = .present → p.presence = .present) (eligible : q.eligible = true → p.eligible = true)
    (here : q.presence = .absent → p.presence = .absent) : e.handPresence v p q cause = e := by
  unfold Ev.handPresence
  rw [if_neg fun h => h.2 (still h.1), if_neg fun h => by simp [eligible h.2.1] at h, if_neg fun h => h.2 (here h.1)]

/-- The loss of a peer that nothing stands with and the engine does not wait for. -/
theorem Ev.peerLost_alone {v : Base} {n : Nat} {e : Ev} (none : ∀ b ∈ e.s.bookings, b.standsWith (· == n) = false)
    (idle : e.s.engine = .idle) : e.peerLost v n = e.on (Sched.unshare n) := by
  rw [Ev.peerLost, Ev.lostBookings_none none, Ev.voidShared_idle idle]

theorem Ev.handPresence_absent {v : Base} {p q : Peer} {cause : PeerCause} {e : Ev} (gone : q.presence = .absent)
    (was : p.presence ≠ .absent) :
    e.handPresence v p q cause = ((e.peerLost v q.station).finish v).on (Sched.peerNotice p q cause none) := by
  have notPresent : q.presence ≠ .present := by rw [gone]; nofun
  unfold Ev.handPresence
  rw [if_neg fun h => notPresent h.1, if_neg fun h => notPresent h.1, if_pos ⟨gone, was⟩]

theorem intervalDeadline_passes (n d : Nat) (p : Peer) (s : State) (high : s.resetLow = false)
    (found : s.base.peer n = some p) (deadline : p.deadline = some d) {x : Sched}
    (effect : let v := (s.countTo d).base
      let q := p.afterMissing v.cfg.window
      s.sch.event (v.setPeer q) (Ev.handPresence (v.setPeer q) p q .missing) = x) :
    ∃ t, Happened (.intervalDeadlineExpiry n) s t ∧
      t.base = (s.countTo d).base.setPeer (p.afterMissing (s.countTo d).base.cfg.window) ∧ t.sch = x := by
  have found' : (s.countTo d).base.peer n = some p := by
    unfold Base.peer
    rw [State.countTo_peers]
    exact found
  have due : State.intervalDue n s = some d := by rw [State.intervalDue, found]; exact deadline
  have effects : (s.countTo d).intervalMissing n =
      { s.countTo d with base := (s.countTo d).base.setPeer (p.afterMissing (s.countTo d).base.cfg.window), sch := x } := by
    unfold State.intervalMissing
    rw [found', ← effect]
    rfl
  refine ⟨_, State.happened_at (exec_intervalDeadlineExpiry n s) high due (State.beside_intervalMissing n _), ?_, ?_⟩
  · rw [effects]
  · rw [effects]

theorem intervalDeadline (n d : Nat) (p : Peer) (s : State) (high : s.resetLow = false) (found : s.base.peer n = some p)
    (deadline : p.deadline = some d) (settled : s.sch.Settled) :
    let v := (s.countTo d).base
    let q := ({ p with deadline := some (d + p.period.getD 0 * 4096000) } : Peer).settled v.cfg.window .missing
    let base := { v with peers := v.peers.map fun x => if x.station == n then q else x }
    (q.presence ≠ .absent →
      ∃ t, Happened (.intervalDeadlineExpiry n) s t ∧ t.base = base ∧ t.sch = s.sch) ∧
    (q.presence = .absent → p.presence ≠ .absent → (∀ b ∈ s.sch.bookings, b.state ≠ .lent ∧ b.state ≠ .covered) →
      s.sch.engine = .idle → s.sch.Room 1 →
      ∃ t, Happened (.intervalDeadlineExpiry n) s t ∧ t.base = base ∧
        t.sch =
          { s.sch with
            holds := s.sch.holds.filter fun x => x.id.origin != n
            lapsed := s.sch.lapsed.filter fun x => x.id.origin != n
            notices := s.sch.notices ++ [.peer n p.presence .absent .missing p.incarnation none false] }) := by
  intro v q base
  have missing : p.afterMissing v.cfg.window = q := by
    unfold Peer.afterMissing
    rw [deadline]
    rfl
  have station : q.station = n := (Peer.settled_station _ _ _).trans (show p.station = n from Base.peer_station found)
  have bases : v.setPeer (p.afterMissing v.cfg.window) = base := by
    rw [missing]
    show ({ v with peers := v.peers.map fun x => if x.station == q.station then q else x } : Base) = _
    rw [station]
  have run {x : Sched} (effect : s.sch.event base (Ev.handPresence base p q .missing) = x) :
      ∃ t, Happened (.intervalDeadlineExpiry n) s t ∧ t.base = base ∧ t.sch = x := by
    rw [← bases, ← missing] at effect
    rw [← bases]
    exact intervalDeadline_passes n d p s high found deadline effect
  constructor
  · intro stays
    have was : q.presence = .present → p.presence = .present := Peer.settled_missing_present
    have flags : q.flags = p.flags := Peer.settled_flags stays
    have eligible : q.eligible = true → p.eligible = true := fun h => by
      have present : q.presence = .present := by
        simp only [Peer.eligible, Bool.and_eq_true, beq_iff_eq] at h
        exact h.1.1.1.1
      rw [← h]
      exact Peer.eligible_congr ((was present).trans present.symm) flags.symm
    refine run ?_
    rw [Sched.event, Ev.handPresence_none was eligible fun h => absurd h stays]
    exact Ev.settle_settled (e := Ev.of s.sch) (Ev.rests_quiet rfl rfl rfl) rfl settled
  · intro gone was alone idle room
    have nobody : ∀ b ∈ s.sch.bookings, b.standsWith (· == n) = false := fun b hb => by
      rw [Bool.eq_false_iff, Ne, Booking.standsWith_iff]
      rintro ⟨-, -, ⟨lent, -⟩ | ⟨covered, -⟩⟩
      · exact (alone b hb).1 lent
      · exact (alone b hb).2 covered
    have incarnation : q.incarnation = p.incarnation := Peer.settled_incarnation _ _ _
    have notice : (s.sch.unshare n).peerNotice p q .missing none = { s.sch.unshare n with
        notices := s.sch.notices ++ [.peer n p.presence .absent .missing p.incarnation none false] } := by
      unfold Sched.peerNotice
      rw [station, gone, incarnation, Peer.not_eligible_of_absent gone]
      exact Sched.notice_room _ (Nat.lt_of_succ_le room.1) room.2
    refine run ?_
    rw [Sched.event, Ev.handPresence_absent gone was, station, Ev.peerLost_alone (e := Ev.of s.sch) nobody idle]
    refine (Ev.settle_finished (e := (Ev.of s.sch).on (Sched.unshare n)) (f := Sched.peerNotice p q .missing none)
      (Ev.rests_quiet rfl rfl rfl) rfl ?_).trans notice
    show ((s.sch.unshare n).peerNotice p q .missing none).Settled
    rw [notice]
    exact settled.of_bookings rfl rfl rfl

/-! ## The confirm deadline -/

/-- A booking whose confirm deadline is cleared. -/
def Booking.confirmed (b : Booking) : Booking := { b with confirm := none }

/-- A booking whose host is lost while it captures there (R174). -/
def Booking.bereft (b : Booking) : Booking := { b with peerLost := true }

theorem confirmDeadline (h n d : Nat) (b : Booking) (s : State) (high : s.resetLow = false) (found : s.sch.bk h = some b)
    (confirm : b.confirm = some d) (lent : b.state = .lent) (plan : b.plan = .lent n) (settled : s.sch.Settled) :
    let v := (s.countTo d).base
    (v.isPresent n = true →
      ∃ t, Happened (.confirmDeadlineExpiry h) s t ∧ t.base = v ∧ t.sch.bk h = some { b with confirm := none } ∧
        t.sch = { s.sch with bookings := t.sch.bookings } ∧ ∀ g, g ≠ h → t.sch.bk g = s.sch.bk g) ∧
    (v.isPresent n = false → b.start - 60 * b.pre - v.cfg.tuneLead ≤ v.clock →
      let lentDeadline := b.finish + 60 * b.post + 60 * v.cfg.overrun
      v.clock < lentDeadline →
      ∃ t, Happened (.confirmDeadlineExpiry h) s t ∧ t.base = v ∧
        t.sch.bk h = some { b with confirm := none, peerLost := true } ∧
        t.sch =
          { s.sch with
            bookings := t.sch.bookings
            triggers := insertTrigger ⟨h, .overrun, lentDeadline⟩ (s.sch.triggers.filter fun y => y.handle != h) } ∧
        ∀ g, g ≠ h → t.sch.bk g = s.sch.bk g) := by
  intro v
  have alive : b.state ≠ .ended := by rw [lent]; nofun
  have due : (s.sch.bk h).bind (·.confirm) = some d := by rw [found]; exact confirm
  obtain ⟨t, happened, base, sch⟩ := State.happened_event (exec_confirmDeadlineExpiry h s) high due
  let x := s.sch.modB h Booking.confirmed
  have cleared : x.bk h = some b.confirmed := Sched.bk_modB_self Booking.confirmed (fun _ => rfl) found alive
  have others (g : Nat) (other : g ≠ h) : x.bk g = s.sch.bk g := s.sch.bk_modB_other Booking.confirmed (fun _ => rfl) other
  have kept : x.Settled := settled.of_one rfl rfl found cleared others rfl
  have passes : (Ev.of s.sch).confirmPasses v h = if v.isPresent n then Ev.of x else (Ev.of x).lostHost v h := by
    unfold Ev.confirmPasses
    rw [show ((Ev.of s.sch).on fun s => s.modB h fun b => { b with confirm := none }) = Ev.of x from rfl]
    dsimp only [Ev.of_s]
    rw [cleared]
    dsimp only
    rw [show b.confirmed.plan = .lent n from plan]
  constructor
  · intro present
    have left : t.sch = x := by
      refine sch.trans ?_
      show ((Ev.of s.sch).confirmPasses v h).settle v = x
      rw [passes, present, if_pos rfl]
      exact Ev.settle_settled (Ev.rests_quiet rfl rfl rfl) rfl kept
    refine ⟨t, happened, base, ?_, ?_, ?_⟩ <;> rw [left]
    · exact cleared
    · rfl
    · exact others
  · intro absent late lentDeadline ahead
    let c := b.confirmed.bereft
    let y := x.modB h Booking.bereft
    have marked : y.bk h = some c := Sched.bk_modB_self Booking.bereft (fun _ => rfl) cleared alive
    have others' (g : Nat) (other : g ≠ h) : y.bk g = s.sch.bk g :=
      (x.bk_modB_other Booking.bereft (fun _ => rfl) other).trans (others g other)
    have armed : c.armed v = some (.overrun, lentDeadline) := by
      unfold Booking.armed
      rw [show c.state = .lent from lent]
      rfl
    have arms := Ev.arm_ahead (v := v) (e := Ev.of y) marked armed ahead
    have loses : (Ev.of x).lostHost v h = (Ev.of y).arm v h := by
      unfold Ev.lostHost
      rw [Ev.of_s, cleared]
      exact if_neg (Nat.not_lt.mpr late)
    have stands : ({ y with triggers := armedWith h .overrun lentDeadline y.triggers } : Sched).Settled :=
      (kept.of_one rfl rfl cleared marked (fun g other => x.bk_modB_other Booking.bereft (fun _ => rfl) other) rfl : y.Settled).of_bookings
        rfl rfl rfl
    have left : t.sch = { y with triggers := armedWith h .overrun lentDeadline y.triggers } := by
      refine sch.trans ?_
      show ((Ev.of s.sch).confirmPasses v h).settle v = _
      rw [passes, absent, if_neg Bool.false_ne_true, loses, arms]
      exact Ev.settle_settled (Ev.rests_quiet rfl rfl rfl) rfl stands
    refine ⟨t, happened, base, ?_, ?_, ?_⟩ <;> rw [left]
    · exact marked
    · rfl
    · exact others'

/-- Settles O51: the interval deadline and the confirm deadline. -/
theorem deadlinesOfPeers : Obligations.DeadlinesOfPeers := ⟨intervalDeadline, confirmDeadline⟩

end Sys2Proof.Machine
end

section
/-! MARK: what a better MARK makes of a booking that yields to it. -/

namespace Sys2Proof.Machine

/-! ## A table of one booking -/

theorem Sched.bk_alone {s : Sched} {b : Booking} (one : s.bookings = [b]) : s.bk b.handle = some b := by
  simp [Sched.bk, one]

theorem Sched.modB_alone {s : Sched} {b : Booking} (one : s.bookings = [b]) (alive : b.state ≠ .ended) (f : Booking → Booking) :
    s.modB b.handle f = { s with bookings := [f b] } := by
  simp [Sched.modB, one, alive]

/-- A table whose one booking holds no tuner gives no tuner an occupant. -/
theorem Sched.occupants_alone {s : Sched} {b : Booking} (one : s.bookings = [b]) (idle : b.occupies = false) (k : Tuner) :
    s.occupants k = [] := by
  rw [Sched.occupants_eq]
  refine List.filterMap_eq_nil_iff.mpr fun p _ => ?_
  cases found : s.bk p.handle with
  | none => rfl
  | some c =>
    obtain ⟨-, inside⟩ := s.bk_handle found
    rw [one, List.mem_singleton] at inside
    simp [Option.filter, inside, idle]

theorem Sched.leaveCapture_none {s : Sched} {h : Nat} (none : ∀ k, ∀ c ∈ (s.tuners.get k).captures, c.handle ≠ h) :
    s.leaveCapture h = s := by
  have kept (k : Tuner) : (s.tuners.get k).captures.filter (fun c => c.handle != h) = (s.tuners.get k).captures :=
    List.filter_eq_self.mpr fun c hc => by simpa using none k c hc
  have both : s.tuners.both (fun r => { r with captures := r.captures.filter fun c => c.handle != h }) = s.tuners := by
    show (⟨{ s.tuners.a with captures := _ }, { s.tuners.b with captures := _ }⟩ : Two TunerRec) = s.tuners
    rw [show s.tuners.a.captures.filter (fun c => c.handle != h) = _ from kept .A,
      show s.tuners.b.captures.filter (fun c => c.handle != h) = _ from kept .B]
    rfl
  exact congrArg (fun t => ({ s with tuners := t } : Sched)) both

/-! ## A booking leaves what it stands in -/

/-- The state without a booking's place in plans, lists, referrals, captures and seek, the engine IDLE, with a queue. -/
def Sched.abandoned (h : Nat) (txq : List QMsg) (s : Sched) : Sched :=
  { (s.leaveLists h).leaveSeek h with engine := .idle, txq := txq }

/-- An event that may have a stack to examine and a look to take, and nothing else. -/
def Ev.asks (s : Sched) (exam : Two Bool) (look : Bool) : Ev := { Ev.of s with exam := exam, look := look }

theorem Ev.leaveAll_ofIdle {s : Sched} (stacked : s.stacked = ⟨[], []⟩) (idle : s.engine = .idle) (v : Base) (h : Nat) :
    ∃ x, (Ev.of s).leaveAll v h = Ev.asks (s.abandoned h s.txq) x false := by
  obtain ⟨x, left⟩ := Ev.leaveAll_idle (e := Ev.of s) stacked idle v h
  refine ⟨x, left.trans ?_⟩
  show Ev.asks ((s.leaveLists h).leaveSeek h) x false = _
  exact congrArg (fun y => Ev.asks { (s.leaveLists h).leaveSeek h with engine := y } x false) idle

theorem Ev.leaveAll_ofCollecting {s : Sched} {h : Nat} {w : Option Nat} {bids : List Bid} {b : Booking}
    (stacked : s.stacked = ⟨[], []⟩) (engine : s.engine = .collecting h w bids) (found : s.bk h = some b) (v : Base) :
    ∃ x, (Ev.of s).leaveAll v h = Ev.asks (s.abandoned h (s.txq.filter fun q => q.att || !q.msg.isSeekOf b.id)) x true := by
  obtain ⟨x, left⟩ := Ev.leaveAll_lists (e := Ev.of s) stacked v h
  refine ⟨x, left.trans ?_⟩
  have queue : (s.txq.filter fun q => !q.msg.isSeekOf b.id || q.att) = s.txq.filter fun q => q.att || !q.msg.isSeekOf b.id := by
    simp only [Bool.or_comm]
  have engine' : (s.leaveLists h).engine = .collecting h w bids := engine
  have found' : (s.leaveLists h).bk h = some b := found
  unfold Ev.abandon Ev.abandonEngine
  simp only [Ev.of_s, engine', found', if_true]
  rw [← queue]
  rfl

theorem Ev.leaveAll_ofAwaiting {s : Sched} {h st : Nat} {w : Option Nat} {bids : List Bid} {b : Booking}
    (stacked : s.stacked = ⟨[], []⟩) (engine : s.engine = .awaiting h st w bids) (found : s.bk h = some b) (v : Base) :
    ((∃ q ∈ s.txq, q.att = false ∧ q.msg.isAwardOf b.id st = true) →
      ∃ x, (Ev.of s).leaveAll v h =
        Ev.asks (s.abandoned h (s.txq.filter fun q => q.att || !q.msg.isAwardOf b.id st)) x true) ∧
    ((∀ q ∈ s.txq, q.att = false → q.msg.isAwardOf b.id st = false) → v.station = .joined → s.txq.length < 12 →
      ∃ x, (Ev.of s).leaveAll v h = Ev.asks (s.abandoned h (s.txq ++ [compose v b.rank (.withdraw b.id st) none])) x true) := by
  obtain ⟨x, left⟩ := Ev.leaveAll_lists (e := Ev.of s) stacked v h
  have engine' : (s.leaveLists h).engine = .awaiting h st w bids := engine
  have found' : (s.leaveLists h).bk h = some b := found
  have waits : (s.leaveLists h).waitsUnsent (Msg.isAwardOf b.id st) = true ↔
      ∃ q ∈ s.txq, q.att = false ∧ q.msg.isAwardOf b.id st = true := by
    simp only [Sched.waitsUnsent, List.any_eq_true, Bool.and_eq_true, Bool.not_eq_true']
    exact exists_congr fun q => and_congr Iff.rfl and_comm
  constructor
  · intro unsent
    refine ⟨x, left.trans ?_⟩
    have queue : (s.txq.filter fun q => !q.msg.isAwardOf b.id st || q.att) =
        s.txq.filter fun q => q.att || !q.msg.isAwardOf b.id st := by simp only [Bool.or_comm]
    unfold Ev.abandon Ev.abandonEngine
    simp only [Ev.of_s, engine', found', if_true, waits.mpr unsent]
    rw [← queue]
    rfl
  · intro sent joined room
    refine ⟨x, left.trans ?_⟩
    have noWait : (s.leaveLists h).waitsUnsent (Msg.isAwardOf b.id st) = false := by
      rw [Bool.eq_false_iff, Ne, waits]
      rintro ⟨q, hq, att, award⟩
      rw [sent q hq att] at award
      cases award
    have sends := Ev.withdraw_sends (v := v) (e := { Ev.of (s.leaveLists h) with exam := x }) (st := st) found' joined room
    unfold Ev.abandon Ev.abandonEngine
    simp only [Ev.of_s, engine', found', if_true, noWait, Bool.false_eq_true, if_false]
    rw [show ({ Ev.of s with s := s.leaveLists h, exam := x } : Ev) = { Ev.of (s.leaveLists h) with exam := x } from rfl, sends]
    rfl

/-! ## A booking is covered -/

/-- A booking covered by a station (R179). -/
def Booking.coveredBy (n : Nat) (b : Booking) : Booking := { b.inState .covered (.covered n) with attempts := 0 }

/-- The state of a station whose one booking, which has not started, has yielded to a MARK (R179). -/
def Sched.yielded (n : Nat) (txq : List QMsg) (b : Booking) (s : Sched) : Sched :=
  { s with
    bookings := [b.coveredBy n]
    plans := s.plans.both (List.filter fun p => p.handle != b.handle)
    unplaced := s.unplaced.filter fun x => x != b.handle
    referrals := s.referrals.filter fun r => r.handle != b.handle
    seekQueue := s.seekQueue.filter fun q => q.handle != b.handle
    engine := .idle
    triggers := armedWith b.handle .stop b.spanEnd s.triggers
    txq := txq }

theorem Ev.cover_settles {v : Base} {s : Sched} {n : Nat} {txq : List QMsg} {x : Two Bool} {look : Bool} {b : Booking}
    (one : s.bookings = [b]) (alive : b.state ≠ .ended) (stacked : s.stacked = ⟨[], []⟩)
    (noCapture : ∀ k, ∀ c ∈ (s.tuners.get k).captures, c.handle ≠ b.handle) (idle : b.occupies = false)
    (ahead : v.clock < b.spanEnd) (queue : look = true → ∀ q ∈ s.seekQueue, q.handle = b.handle) (settled : s.Settled)
    (left : (Ev.of s).leaveAll v b.handle = Ev.asks (s.abandoned b.handle txq) x look) :
    ((Ev.of s).cover v b.handle n).settle v = s.yielded n txq b := by
  let y := s.abandoned b.handle txq
  have oneY : y.bookings = [b] := one
  have covered : (y.modB b.handle (Booking.coveredBy n)) = { y with bookings := [b.coveredBy n] } :=
    Sched.modB_alone oneY alive (Booking.coveredBy n)
  have found : (y.modB b.handle (Booking.coveredBy n)).bk b.handle = some (b.coveredBy n) := by
    rw [covered]
    exact Sched.bk_alone (b := b.coveredBy n) rfl
  have arms := Ev.arm_ahead (v := v) (k := .stop) (t := b.spanEnd) (e := Ev.asks (y.modB b.handle (Booking.coveredBy n)) x look)
    found rfl ahead
  have effect : (Ev.of s).cover v b.handle n = Ev.asks (s.yielded n txq b) x look := by
    unfold Ev.cover
    rw [left]
    refine arms.trans (congrArg (fun z => Ev.asks z x look) ?_)
    show ({ y.modB b.handle (Booking.coveredBy n) with triggers := _ } : Sched) = _
    rw [covered]
    show ({ (s.leaveCapture b.handle) with
      bookings := _, plans := _, unplaced := _, referrals := _, seekQueue := _, engine := _, txq := _, triggers := _ } : Sched) = _
    rw [Sched.leaveCapture_none noCapture]
    rfl
  have noQueue : look = true → (s.yielded n txq b).seekQueue = [] := fun h =>
    List.filter_eq_nil_iff.mpr fun q hq => by simp [queue h q hq]
  have stands : (s.yielded n txq b).Settled :=
    settled.of_vacant rfl (Sched.occupants_alone one idle) (Sched.occupants_alone (b := b.coveredBy n) rfl rfl)
  rw [effect]
  refine Ev.settle_settled (e := Ev.asks (s.yielded n txq b) x look) ⟨?_, ?_, nofun, fun h => ?_⟩ rfl stands
  · exact fun _ => Sched.still_of_empty (by show s.stacked.get .A = []; rw [stacked]; rfl)
  · exact fun _ => Sched.still_of_empty (by show s.stacked.get .B = []; rw [stacked]; rfl)
  · exact Sched.noLook_of_empty (noQueue h)

end Sys2Proof.Machine
end

section
/-! MARK: how one is weighed. -/

namespace Sys2Proof.Machine

/-! ## The marks heard -/

theorem Sched.hear_eq (m : MarkHeard) (s : Sched) : s.hear m = { s with marks :=
    let rest := s.marks.filter fun x => !(x.series == m.series && x.episode == m.episode && x.station == m.station)
    (if rest.length < 64 then rest else rest.tail) ++ [m] } := by
  have turned (l : List MarkHeard) : (if 64 ≤ l.length then l.tail else l) = if l.length < 64 then l else l.tail := by
    by_cases few : l.length < 64
    · rw [if_neg (by omega), if_pos few]
    · rw [if_pos (by omega), if_neg few]
  unfold Sched.hear
  dsimp only
  rw [turned]
  rfl

theorem Sched.marked_nobody {s : Sched} {m : MarkHeard} (none : ∀ b ∈ s.bookings, b.cls = .episode → b.state ≠ .ended →
    b.episode = some m.episode → ∀ l ∈ s.links, b.link = some l.id → l.series ≠ m.series) : s.marked m = [] := by
  have nobody : s.bookings.filter (fun b => b.cls == .episode && b.state != .ended && b.episode == some m.episode &&
      s.seriesOf b == some m.series) = [] := by
    refine List.filter_eq_nil_iff.mpr fun b hb hit => ?_
    simp only [Bool.and_eq_true, beq_iff_eq, bne_iff_ne] at hit
    obtain ⟨⟨⟨cls, alive⟩, episode⟩, series⟩ := hit
    unfold Sched.seriesOf at series
    obtain ⟨i, link, found⟩ := Option.bind_eq_some_iff.mp series
    obtain ⟨l, hl, ofSeries⟩ := Option.map_eq_some_iff.mp found
    have id : l.id = i := by simpa using List.find?_some hl
    exact none b hb cls alive episode l (List.mem_of_find?_eq_some hl) (by rw [link, id]) ofSeries
  rw [Sched.marked, nobody]
  rfl

theorem Sched.marked_one {s : Sched} {m : MarkHeard} {b : Booking} {l : Link} (one : s.bookings = [b]) (links : s.links = [l])
    (cls : b.cls = .episode) (alive : b.state ≠ .ended) (episode : b.episode = some m.episode) (link : b.link = some l.id)
    (series : l.series = m.series) : s.seriesOf b = some m.series ∧ s.marked m = [b.handle] := by
  have ofSeries : s.seriesOf b = some m.series := by simp [Sched.seriesOf, link, links, series]
  exact ⟨ofSeries, by simp [Sched.marked, one, cls, alive, episode, ofSeries]⟩

/-! ## The event -/

/-- A MARK that no booking weighs. -/
theorem Ev.markArrives_unweighed {v : Base} {m : MarkHeard} {s : Sched}
    (nobody : v.isPresent m.station = false ∨ (s.hear m).marked m = []) :
    (Ev.of s).markArrives v m = Ev.of (s.hear m) := by
  show (if v.isPresent m.station && v.station == .joined then ((s.hear m).marked m).foldl (Ev.weighMark v m) (Ev.of (s.hear m))
    else Ev.of (s.hear m)) = _
  rcases nobody with absent | none
  · rw [absent]
    rfl
  · rw [none]
    exact ite_self _

theorem Ev.markArrives_weighed {v : Base} {m : MarkHeard} {s : Sched} {h : Nat} (present : v.isPresent m.station = true)
    (joined : v.station = .joined) (marked : (s.hear m).marked m = [h]) :
    (Ev.of s).markArrives v m = (Ev.of (s.hear m)).weighMark v m h := by
  show (if v.isPresent m.station && v.station == .joined then ((s.hear m).marked m).foldl (Ev.weighMark v m) (Ev.of (s.hear m))
    else Ev.of (s.hear m)) = _
  rw [present, joined, marked]
  rfl

/-! ## The rows of the weighing -/

/-- The MARK is better than the booking. -/
def MarkHeard.betters (v : Base) (m : MarkHeard) (b : Booking) : Bool :=
  markBeats m.started m.rank m.station b.started b.rank v.cfg.station

section
variable {v : Base} {m : MarkHeard} {s : Sched} {b : Booking}

theorem Ev.weighMark_worse (found : s.bk b.handle = some b) (uncovered : b.state ≠ .covered) (worse : m.betters v b = false) :
    (Ev.of s).weighMark v m b.handle = (Ev.of s).on (Sched.offerMark v b.handle) := by
  unfold MarkHeard.betters at worse
  unfold Ev.weighMark
  dsimp only [Ev.of_s]
  rw [found]
  dsimp only
  rw [worse]
  split
  · rename_i covered _
    exact absurd covered uncovered
  · rfl

theorem Ev.weighMark_started (found : s.bk b.handle = some b) (uncovered : b.state ≠ .covered) (better : m.betters v b = true)
    (started : b.started = true) : (Ev.of s).weighMark v m b.handle = Ev.of s := by
  unfold MarkHeard.betters at better
  unfold Ev.weighMark
  dsimp only [Ev.of_s]
  rw [found]
  dsimp only
  rw [better]
  split
  · rename_i covered _
    exact absurd covered uncovered
  · rw [started]
    rfl

theorem Ev.weighMark_lent {st : Nat} (found : s.bk b.handle = some b) (lent : b.state = .lent) (plan : b.plan = .lent st)
    (better : m.betters v b = true) (unstarted : b.started = false) : (Ev.of s).weighMark v m b.handle =
      if v.clock < b.prepareTime v then ((Ev.of s).withdraw v b.handle st).cover v b.handle m.station else Ev.of s := by
  unfold MarkHeard.betters at better
  unfold Ev.weighMark
  dsimp only [Ev.of_s]
  rw [found]
  dsimp only
  rw [better, lent, plan, unstarted]
  rfl

theorem Ev.weighMark_yields (found : s.bk b.handle = some b)
    (state : b.state = .waiting ∨ b.state = .planned ∨ b.state = .referred ∨ b.state = .seeking) (better : m.betters v b = true)
    (unstarted : b.started = false) : (Ev.of s).weighMark v m b.handle = (Ev.of s).cover v b.handle m.station := by
  unfold MarkHeard.betters at better
  unfold Ev.weighMark
  dsimp only [Ev.of_s]
  rw [found]
  dsimp only
  rw [better, unstarted]
  rcases state with e | e | e | e <;> simp [e]

theorem Ev.weighMark_covered {old : Nat} (found : s.bk b.handle = some b) (covered : b.state = .covered)
    (plan : b.plan = .covered old) : (Ev.of s).weighMark v m b.handle =
      if m.betters v b then (Ev.of s).repoint v m b old else Ev.of s := by
  unfold MarkHeard.betters
  unfold Ev.weighMark
  dsimp only [Ev.of_s]
  rw [found]
  dsimp only
  rw [covered, plan]

end

/-! ## Re-pointing -/

/-- The entry of the covering station that a MARK is weighed against (R179). -/
def Sched.coveringMark (v : Base) (s : Sched) (m : MarkHeard) (old : Nat) : Option MarkHeard :=
  (s.marks.find? (MarkHeard.isFor m.series m.episode old)).filter fun x => v.isPresent x.station

theorem Ev.repoint_eq {v : Base} {m : MarkHeard} {b : Booking} {old : Nat} {s : Sched} : (Ev.of s).repoint v m b old =
    if (s.coveringMark v m old).all fun x => m.beats x then
      ((Ev.of s).on fun s => s.modB b.handle (Booking.inState .covered (.covered m.station))).arm v b.handle
    else Ev.of s := rfl

theorem MarkHeard.isFor_station {a b c : Nat} {x : MarkHeard} (h : MarkHeard.isFor a b c x = true) : x.station = c := by
  unfold MarkHeard.isFor at h
  simp only [Bool.and_eq_true, beq_iff_eq] at h
  exact h.2

/-- The MARK beats the covering station's entry, or there is none to weigh. -/
theorem Sched.coveringMark_beaten {v : Base} {s : Sched} {m : MarkHeard} {old : Nat}
    (beats : v.isPresent old = true → ∀ x ∈ s.marks.filter (MarkHeard.isFor m.series m.episode old), m.beats x = true) :
    (s.coveringMark v m old).all (fun x => m.beats x) = true := by
  unfold Sched.coveringMark
  cases found : s.marks.find? (MarkHeard.isFor m.series m.episode old) with
  | none => rfl
  | some x =>
    have isFor := List.find?_some found
    by_cases present : v.isPresent x.station = true
    · have beaten := beats (MarkHeard.isFor_station isFor ▸ present) x
        (List.mem_filter.mpr ⟨List.mem_of_find?_eq_some found, isFor⟩)
      simp [Option.filter, present, beaten]
    · simp [Option.filter, present]

theorem Sched.coveringMark_stands {v : Base} {s : Sched} {m : MarkHeard} {old : Nat} (present : v.isPresent old = true)
    (some' : s.marks.filter (MarkHeard.isFor m.series m.episode old) ≠ [])
    (stands : ∀ x ∈ s.marks.filter (MarkHeard.isFor m.series m.episode old), m.beats x = false) :
    (s.coveringMark v m old).all (fun x => m.beats x) = false := by
  unfold Sched.coveringMark
  cases found : s.marks.find? (MarkHeard.isFor m.series m.episode old) with
  | none =>
    refine absurd (List.filter_eq_nil_iff.mpr fun x hx => ?_) some'
    exact List.find?_eq_none.mp found x hx
  | some x =>
    have isFor := List.find?_some found
    have left := stands x (List.mem_filter.mpr ⟨List.mem_of_find?_eq_some found, isFor⟩)
    have here : v.isPresent x.station = true := by rw [MarkHeard.isFor_station isFor]; exact present
    simp [Option.filter, here, left]

end Sys2Proof.Machine
end

section
/-! MARK, settled. -/

namespace Sys2Proof.Machine

theorem MarkFields.markBeats_iff (n rank station : Nat) (started' : Bool) (rank' station' : Nat) :
    markBeats (n == 1) rank station started' rank' station' = true ↔ (n = 1 ∧ started' = false) ∨
      ((n = 1 ↔ started' = true) ∧ (rank < rank' ∨ (rank = rank' ∧ station < station'))) := by
  have same : (n == 1) = started' ↔ (n = 1 ↔ started' = true) := by rw [Bool.eq_iff_iff, beq_iff_eq]
  rw [Machine.markBeats_iff, same, beq_iff_eq]

theorem Booking.started_eq (b : Booking) : b.started = (b.state == .preparing || b.state == .recording || b.state == .paused ||
    b.state == .suspended || !b.segs.isEmpty) := by
  unfold Booking.started
  cases b.state <;> rfl

theorem Booking.rank_eq (b : Booking) :
    b.rank = (if b.state = .preparing ∨ b.state = .recording ∨ b.state = .paused then 1 else 2) + 2 * b.priority := by
  unfold Booking.rank Booking.occupies
  cases b.state <;> simp [BState.occupies]

theorem Booking.idle_of_unstarted {b : Booking} (unstarted : b.started = false) : b.occupies = false := by
  unfold Booking.started at unstarted
  unfold Booking.occupies
  simp only [Bool.or_eq_false_iff] at unstarted
  exact unstarted.1.1

/-- The weighing's event where nothing more follows from it. -/
theorem Sched.event_markArrives {v : Base} {m : MarkHeard} {s x : Sched} {b : Booking} {l : Link} (one : s.bookings = [b])
    (links : s.links = [l]) (cls : b.cls = .episode) (alive : b.state ≠ .ended) (episode : b.episode = some m.episode)
    (link : b.link = some l.id) (series : l.series = m.series) (present : v.isPresent m.station = true)
    (joined : v.station = .joined) (effect : ((Ev.of (s.hear m)).weighMark v m b.handle).settle v = x) :
    s.event v (Ev.markArrives v m) = x := by
  have heard := s.hear_eq m
  have marked := (Sched.marked_one (s := s.hear m) (m := m) (by rw [heard]; exact one) (by rw [heard]; exact links) cls alive
    episode link series).2
  rw [Sched.event, Ev.markArrives_weighed present joined marked, effect]

/-- Settles O60: the MARK joins the list, and is weighed with the one booking of the episode. -/
theorem markArrival : Obligations.MarkArrival := by
  intro h f day s hears admitted settled tag later m rest marks leaves beats
  let v := s.base.heard
  have joined : v.station = .joined := hears.2.2.2.1
  have isHeard : MarkFields.heard h.sender day f = m := by
    unfold MarkFields.heard
    rw [longForm_eq later]
  have run {x : Sched} (effect : s.sch.event v (Ev.markArrives v m) = x) : leaves x := by
    refine hears.dated (f := fun v day => Ev.markArrives v (MarkFields.heard h.sender day f)) (exec_markArrival h f s) admitted
      rfl rfl tag ?_
    rw [isHeard]
    exact effect
  let y : Sched := { s.sch with marks := marks }
  have hear : s.sch.hear m = y := s.sch.hear_eq m
  have beatsIff (started : Bool) (rank station : Nat) :
      markBeats m.started m.rank m.station started rank station = true ↔ beats started rank station :=
    MarkFields.markBeats_iff f.started f.rank h.sender started rank station
  have settledY : y.Settled := settled.of_bookings rfl rfl rfl
  have quiet {x : Sched} (kept : x.Settled) : (Ev.of x).settle v = x := Ev.settle_settled (Ev.rests_quiet rfl rfl rfl) rfl kept
  constructor
  · intro nobody
    refine run ?_
    have unweighed : v.isPresent m.station = false ∨ (s.sch.hear m).marked m = [] :=
      nobody.imp id fun none => by rw [hear]; exact Sched.marked_nobody none
    rw [Sched.event, Ev.markArrives_unweighed unweighed, hear]
    exact quiet settledY
  · intro b l one links cls episode link series present alive started rank better prepare stop armed queued
    have found : y.bk b.handle = some b := Sched.bk_alone one
    have weigh {x : Sched} (effect : ((Ev.of y).weighMark v m b.handle).settle v = x) : leaves x := by
      refine run (Sched.event_markArrives one links cls alive episode link series present joined ?_)
      rw [hear]
      exact effect
    have ofSeries : y.seriesOf b = some m.series := (Sched.marked_one (s := y) (m := m) one links cls alive episode link series).1
    have isStarted : b.started = started := b.started_eq
    have isRank : b.rank = rank := b.rank_eq
    have betterIff : m.betters v b = true ↔ better := by
      unfold MarkHeard.betters
      rw [isStarted, isRank]
      exact beatsIff started rank s.base.cfg.station
    have worse (no : ¬better) : m.betters v b = false := by rwa [Bool.eq_false_iff, Ne, betterIff]
    refine ⟨fun no uncovered room => weigh ?_, fun yes uncovered stays => weigh ?_, ?_, ?_⟩
    · have offered := Sched.offerMark_eq (v := v) found cls ofSeries fun _ => room
      rw [joined, episode] at offered
      rw [Ev.weighMark_worse found uncovered (worse no)]
      refine (quiet (x := y.offerMark v b.handle) ?_).trans ?_
      · rw [offered]
        exact settledY.of_bookings rfl rfl rfl
      · rw [offered, isRank]
        unfold Booking.ownMark
        rw [isRank, isStarted]
        rfl
    · rcases stays with begun | ⟨lent, ⟨st, plan⟩, late⟩
      · rw [Ev.weighMark_started found uncovered (betterIff.mpr yes) (isStarted.trans begun)]
        exact quiet settledY
      · by_cases begun : b.started = true
        · rw [Ev.weighMark_started found uncovered (betterIff.mpr yes) begun]
          exact quiet settledY
        · rw [Ev.weighMark_lent found lent plan (betterIff.mpr yes) (by simpa using begun),
            if_neg (show ¬ v.clock < b.prepareTime v from Nat.not_lt.mpr late)]
          exact quiet settledY
    · intro old covered plan entries
      have idle : b.occupies = false := by
        unfold Booking.occupies
        rw [covered]
        rfl
      have weighed := Ev.weighMark_covered (v := v) (m := m) found covered plan
      constructor
      · intro yes beaten ahead
        have all : (y.coveringMark v m old).all (fun x => m.beats x) = true :=
          Sched.coveringMark_beaten fun here x hx => (beatsIff _ _ _).mpr (beaten here x hx)
        let c := b.inState .covered (.covered m.station)
        have moved : y.modB b.handle (Booking.inState .covered (.covered m.station)) = { y with bookings := [c] } :=
          Sched.modB_alone (s := y) one alive _
        have arms := Ev.arm_ahead (v := v) (k := .stop) (t := b.spanEnd) (h := b.handle) (b := c)
          (e := Ev.of { y with bookings := [c] }) (Sched.bk_alone (b := c) rfl) rfl ahead
        refine weigh ?_
        rw [weighed, if_pos (betterIff.mpr yes), Ev.repoint_eq, all, if_pos rfl,
          show (Ev.of y).on (fun s => s.modB b.handle (Booking.inState .covered (.covered m.station))) =
            Ev.of { y with bookings := [c] } from congrArg Ev.of moved, arms]
        let z : Sched := { y with bookings := [c], triggers := armedWith b.handle .stop b.spanEnd y.triggers }
        have settledZ : z.Settled := settledY.of_vacant (t := z) rfl (Sched.occupants_alone (s := y) one idle)
          (Sched.occupants_alone (s := z) (b := c) rfl rfl)
        refine (quiet settledZ).trans ?_
        dsimp only [z, c, Booking.inState]
        rw [← covered]
        rfl
      · intro stays
        have unchanged : (Ev.of y).weighMark v m b.handle = Ev.of y := by
          rw [weighed]
          rcases stays with no | ⟨here, some', stands⟩
          · rw [worse no]
            rfl
          · have all : (y.coveringMark v m old).all (fun x => m.beats x) = false :=
              Sched.coveringMark_stands here some' fun x hx => by
                rw [Bool.eq_false_iff, Ne, MarkHeard.beats, beatsIff]
                exact stands x hx
            rw [Ev.repoint_eq, all]
            exact ite_self _
        refine weigh ?_
        rw [unchanged]
        exact quiet settledY
    · intro yes fresh ahead stacked noCapture covers
      have unstarted : b.started = false := isStarted.trans fresh
      have isBetter := betterIff.mpr yes
      have covered {z : Sched} {txq : List QMsg} {x : Two Bool} {look : Bool} (same : z.yielded m.station txq b = y.yielded m.station txq b)
          (oneZ : z.bookings = [b]) (stackedZ : z.stacked = ⟨[], []⟩)
          (noCaptureZ : ∀ k, ∀ c ∈ (z.tuners.get k).captures, c.handle ≠ b.handle) (settledZ : z.Settled)
          (queue : look = true → ∀ q ∈ z.seekQueue, q.handle = b.handle)
          (left : (Ev.of z).leaveAll v b.handle = Ev.asks (z.abandoned b.handle txq) x look)
          (weighed : (Ev.of y).weighMark v m b.handle = (Ev.of z).cover v b.handle m.station) : covers txq := by
        refine weigh ?_
        rw [weighed, Ev.cover_settles (v := v) (n := m.station) (s := z) oneZ alive stackedZ noCaptureZ (Booking.idle_of_unstarted unstarted) ahead queue settledZ left,
          same]
        rfl
      refine ⟨fun state idle => ?_, fun lent idle early room st plan => ?_, fun seeking queue => ⟨fun w bids engine => ?_,
        fun st w bids engine => ?_⟩⟩
      · obtain ⟨x, left⟩ := Ev.leaveAll_ofIdle (s := y) stacked idle v b.handle
        exact covered (z := y) (look := false) rfl one stacked noCapture settledY nofun left (Ev.weighMark_yields found state isBetter unstarted)
      · let z := y.sends v b.rank [.withdraw b.id st]
        have sends : (Ev.of y).withdraw v b.handle st = Ev.of z := Ev.withdraw_sends (e := Ev.of y) found joined room
        obtain ⟨x, left⟩ := Ev.leaveAll_ofIdle (s := z) stacked idle v b.handle
        have weighed : (Ev.of y).weighMark v m b.handle = (Ev.of z).cover v b.handle m.station := by
          rw [Ev.weighMark_lent found lent plan isBetter unstarted, if_pos (show v.clock < b.prepareTime v from early), sends]
        rw [← isRank]
        exact covered (z := z) (look := false) rfl one stacked noCapture (settledY.of_bookings rfl rfl rfl) nofun left weighed
      · obtain ⟨x, left⟩ := Ev.leaveAll_ofCollecting (s := y) stacked engine found v
        exact covered rfl one stacked noCapture settledY (fun _ => queue) left
          (Ev.weighMark_yields found (.inr (.inr (.inr seeking))) isBetter unstarted)
      · have weighed := Ev.weighMark_yields (v := v) (m := m) found (.inr (.inr (.inr seeking))) isBetter unstarted
        obtain ⟨waits, sent⟩ := Ev.leaveAll_ofAwaiting (s := y) stacked engine found v
        constructor
        · intro unsent
          obtain ⟨x, left⟩ := waits unsent
          exact covered rfl one stacked noCapture settledY (fun _ => queue) left weighed
        · intro noAward room
          obtain ⟨x, left⟩ := sent noAward joined room
          rw [← isRank]
          exact covered rfl one stacked noCapture settledY (fun _ => queue) left weighed

end Sys2Proof.Machine
end

section
/-! The directive that one tuner is issued, a tuner with nothing planned that leaves or enters the usable set, and the
budget choice. -/

namespace Sys2Proof.Machine

/-! ## One directive -/

theorem Sched.revise_due {v : Base} {s : Sched} {k : Tuner} (due : s.directiveStale k = true) :
    s.revise v k = s.modTuner k (TunerRec.issue v (s.neededMux k)) := if_pos due

theorem Sched.revise_current {v : Base} {s : Sched} {k : Tuner} (current : s.directiveStale k = false) : s.revise v k = s := by
  unfold Sched.revise
  rw [current]
  rfl

theorem Sched.modTuner_get_other (s : Sched) (k : Tuner) (f : TunerRec → TunerRec) :
    (s.modTuner k f).tuners.get k.other = s.tuners.get k.other := by
  rw [Sched.modTuner_tuners, Two.mod, Two.get_set_other]

/-- A tuner's directive does not look at the other tuner's record. -/
theorem Sched.directiveStale_modTuner_other (s : Sched) (k : Tuner) (f : TunerRec → TunerRec) :
    (s.modTuner k f).directiveStale k.other = s.directiveStale k.other := by
  have same := s.modTuner_get_other k f
  exact Sched.directiveStale_congr (by rw [same]) (by rw [same]) (by rw [same]) rfl

/-- One directive is due and is issued. -/
theorem Sched.reviseAll_one {v : Base} {s : Sched} {k : Tuner} (due : s.directiveStale k = true)
    (current : s.directiveStale k.other = false) : s.reviseAll v = s.modTuner k (TunerRec.issue v (s.neededMux k)) := by
  have after := s.directiveStale_modTuner_other k (TunerRec.issue v (s.neededMux k))
  unfold Sched.reviseAll
  cases k with
  | A =>
    rw [Sched.revise_due due]
    exact Sched.revise_current (after.trans current)
  | B =>
    rw [Sched.revise_current (k := .A) current]
    exact Sched.revise_due due

/-- What a directive does, whatever the tuner's state (R65). -/
def TunerRec.directed (mux : Option Nat) (r : TunerRec) : TunerRec :=
  { r with directive := ⟨(r.directive.serial + 1) % 65536, mux, r.live.map (·.service), r.captures⟩, unread := true }

theorem TunerRec.issue_failed {v : Base} {r : TunerRec} (mux : Option Nat) (failed : r.state = .failed) :
    r.issue v mux = { r.directed mux with tuneTimer := none } := by
  cases r
  cases failed
  rfl

theorem TunerRec.issue_none {v : Base} {r : TunerRec} (alive : r.state ≠ .failed) :
    r.issue v none = { r.directed none with state := .idle, tuneTimer := none } := by
  unfold TunerRec.issue
  cases state : r.state with
  | failed => exact absurd state alive
  | idle => rfl
  | tuning => rfl
  | locked => rfl
  | unknown => rfl

/-- A directive of another multiplex starts tuning (R66). -/
theorem TunerRec.issue_tunes {v : Base} {r : TunerRec} {mux : Nat} (alive : r.state ≠ .failed)
    (moves : r.directive.mux ≠ some mux) : r.issue v (some mux) =
      { r.directed (some mux) with
        state := .tuning, tuneTimer := some (v.now + v.cfg.tuneTimeout * unit, (r.directive.serial + 1) % 65536) } := by
  have other : (some mux == r.directive.mux) = false := by
    rw [beq_eq_false_iff_ne]
    exact moves.symm
  unfold TunerRec.issue
  cases state : r.state with
  | failed => exact absurd state alive
  | idle => rfl
  | tuning =>
    rw [TunerRec.directed, state]
  | locked => simp only [other, Bool.false_eq_true, if_false]; rfl
  | unknown => simp only [other, Bool.false_eq_true, if_false]; rfl

/-! ## Tuners with nothing planned -/

theorem Sched.planBookings_none {s : Sched} {k : Tuner} (plan : s.plans.get k = []) : s.planBookings k = [] := by
  unfold Sched.planBookings
  rw [plan]
  rfl

theorem Sched.occupants_none {s : Sched} {k : Tuner} (plan : s.plans.get k = []) : s.occupants k = [] := by
  unfold Sched.occupants
  rw [Sched.planBookings_none plan]
  rfl

theorem Sched.topRank_free {s : Sched} {k : Tuner} (plan : s.plans.get k = []) (live : (s.tuners.get k).live = none) :
    s.topRank k = 31 := by
  unfold Sched.topRank Sched.bookingTop
  rw [live, Sched.occupants_none plan]
  rfl

theorem Sched.neededMux_held {s : Sched} {k : Tuner} {l : Live} (live : (s.tuners.get k).live = some l) :
    s.neededMux k = some l.mux := by
  unfold Sched.neededMux
  rw [live]

theorem Sched.neededMux_free {s : Sched} {k : Tuner} (plan : s.plans.get k = []) (live : (s.tuners.get k).live = none) :
    s.neededMux k = none := by
  unfold Sched.neededMux Sched.bookingMux
  rw [live, Sched.occupants_none plan]
  rfl

/-- A tuner with nothing planned that leaves the usable set loses its hold alone (R75). -/
theorem Ev.leaveUsable_unplanned {e : Ev} {k : Tuner} (plan : e.s.plans.get k = []) (v : Base) (cause : PushReason) :
    e.leaveUsable v k cause =
      ((e.on fun s => s.modTuner k fun r => { r with live := none }).on (Sched.release v k)).on
        (Sched.usableNotice k (e.s.tuners.get k).live.isSome) := by
  let x := e.on fun s => s.modTuner k fun r => { r with live := none }
  have none : x.s.planBookings k = [] := Sched.planBookings_none (s := x.s) plan
  have nobody : x.s.occupants k = [] := Sched.occupants_none (s := x.s) plan
  unfold Ev.leaveUsable
  dsimp only
  rw [show (e.on fun s => s.modTuner k fun r => { r with live := Option.none }) = x from rfl, nobody, List.filter_nil]
  rw [show x.push v k cause Option.none [] = x from rfl, none, List.filter_nil, List.foldl_nil]
  rw [show x.placePushed v [] = x from rfl, none]
  rfl

theorem Sched.modTuner_self {s : Sched} {k : Tuner} {f : TunerRec → TunerRec} (same : f (s.tuners.get k) = s.tuners.get k) :
    s.modTuner k f = s := by
  unfold Sched.modTuner
  rw [Two.mod_self same]

theorem TunerRec.live_none {r : TunerRec} (live : r.live = none) : { r with live := none } = r := by
  cases r
  exact live ▸ rfl

/-- One that is not held and fitted only says so. -/
theorem Ev.leaveUsable_free {e : Ev} {k : Tuner} (plan : e.s.plans.get k = []) (live : (e.s.tuners.get k).live = none)
    (fitted : (e.s.tuners.get k).marks.fitted = false) (current : e.s.directiveStale k = false) (v : Base) (cause : PushReason) :
    e.leaveUsable v k cause = e.on (Sched.usableNotice k false) := by
  have clear : (e.on fun s => s.modTuner k fun r => { r with live := none }) = e :=
    Ev.on_congr (g := id) (Sched.modTuner_self (TunerRec.live_none live))
  have release : e.on (Sched.release v k) = e := by
    refine Ev.on_congr (g := id) ?_
    unfold Sched.release
    rw [fitted]
    exact Sched.revise_current current
  rw [Ev.leaveUsable_unplanned plan, clear, release, live]
  rfl

/-! ## The budget choice -/

/-- A choice that changes no mark changes nothing (R74). -/
theorem Ev.choose_same {e : Ev} {v : Base} (same : e.s.budgetMarks v = e.s) : e.choose v e.s.usable = e := by
  have chosen : e.on (Sched.budgetMarks v) = e := Ev.on_congr (g := id) same
  have leave : ([Tuner.A, .B].filter fun t => e.s.usable t && !e.s.usable t) = [] := by
    simp
  have enter : ([Tuner.A, .B].filter fun t => !e.s.usable t && e.s.usable t) = [] := by
    simp
  unfold Ev.choose
  dsimp only
  rw [chosen, leave, enter]
  rfl

theorem foldl_still {α β : Type} {f : α → β → α} {a : α} : ∀ {l : List β}, (∀ x ∈ l, f a x = a) → l.foldl f a = a
  | [], _ => rfl
  | x :: rest, still => by
    rw [List.foldl_cons, still x List.mem_cons_self]
    exact foldl_still fun y hy => still y (List.mem_cons_of_mem x hy)

/-- A budget that keeps every candidate, none of which has its mark, changes no mark. -/
theorem Sched.budgetMarks_all {v : Base} {s : Sched} (enough : (s.candidates v).length ≤ s.budget)
    (clear : ∀ k ∈ s.candidates v, (s.tuners.get k).marks.budget = false) : s.budgetMarks v = s := by
  have kept : s.kept v = s.candidates v := if_pos enough
  unfold Sched.budgetMarks
  dsimp only
  rw [kept]
  refine foldl_still fun k candidate => Sched.modTuner_self ?_
  have stays : (!(s.candidates v).contains k) = (s.tuners.get k).marks.budget := by
    rw [clear k candidate, List.contains_iff_mem.mpr candidate]
    rfl
  rw [stays]

/-- The candidates where both tuners are fitted and neither is FAILED. -/
theorem Sched.candidates_both {v : Base} {s : Sched} (fitted : v.cfg.fitted = 2) (a : s.tuners.a.state ≠ .failed)
    (b : s.tuners.b.state ≠ .failed) : s.candidates v = [.A, .B] := by
  simp [Sched.candidates, Base.fittedTuners, fitted, a, b]

/-- The tuners that a budget of n leaves out of two of equal top rank (R74). -/
def leftOut (n : Nat) : Tuner → Bool
  | .A => n == 0
  | .B => n ≤ 1

theorem Sched.kept_equal {v : Base} {s : Sched} (range : s.budget ≤ 2) (both : s.candidates v = [.A, .B])
    (equal : s.topRank .A = s.topRank .B) (k : Tuner) : (!(s.kept v).contains k) = leftOut s.budget k := by
  unfold Sched.kept
  dsimp only
  rw [both, equal]
  generalize s.budget = n at range ⊢
  obtain rfl | rfl | rfl : n = 0 ∨ n = 1 ∨ n = 2 := by omega
  all_goals cases k <;> simp [leftOut]

/-- The two records with the marks that the choice gives them. -/
def Sched.chosen (s : Sched) : Sched :=
  { s with tuners :=
    ⟨{ s.tuners.a with marks := { s.tuners.a.marks with budget := leftOut s.budget .A } },
      { s.tuners.b with marks := { s.tuners.b.marks with budget := leftOut s.budget .B } }⟩ }

theorem Sched.budgetMarks_equal {v : Base} {s : Sched} (range : s.budget ≤ 2) (both : s.candidates v = [.A, .B])
    (equal : s.topRank .A = s.topRank .B) : s.budgetMarks v = s.chosen := by
  have out := Sched.kept_equal range both equal
  unfold Sched.budgetMarks
  dsimp only
  rw [both]
  simp only [List.foldl_cons, List.foldl_nil, out]
  rfl

/-- The USABLE notice of a tuner that is not held, where there is room. -/
def Sched.usableNote (s : Sched) (k : Tuner) : Notice :=
  .usable k (s.tuners.get k).marks.none (s.tuners.get k).marks (s.tuners.get k).state false

theorem Sched.usableNotice_room {s : Sched} (k : Tuner) (room : s.notices.length < 32) (pending : s.pendingOutcomes = []) :
    s.usableNotice k false = { s with notices := s.notices ++ [s.usableNote k] } := Sched.notice_room _ room pending

/-- The notices of those left out, the lower first. -/
def Sched.leftNotices (s : Sched) : List Notice :=
  (if leftOut s.budget .A then [s.usableNote .A] else []) ++ if leftOut s.budget .B then [s.usableNote .B] else []

theorem Sched.chosen_usable {s : Sched} {k : Tuner} (usable : s.usable k = true) : s.chosen.usable k = !leftOut s.budget k := by
  unfold Sched.usable Marks.none at usable ⊢
  cases k <;> simp_all [Sched.chosen]

/-- A free tuner with a place for the notice leaves. -/
theorem Ev.leaveUsable_noted {e : Ev} {k : Tuner} (plans : e.s.plans = ⟨[], []⟩) (settled : e.s.Settled)
    (live : (e.s.tuners.get k).live = none) (fitted : (e.s.tuners.get k).marks.fitted = false)
    (room : e.s.notices.length < 32) (pending : e.s.pendingOutcomes = []) (v : Base) (cause : PushReason) :
    e.leaveUsable v k cause = e.on fun s => { s with notices := s.notices ++ [s.usableNote k] } := by
  have plan : e.s.plans.get k = [] := by
    rw [plans]
    cases k <;> rfl
  rw [Ev.leaveUsable_free plan live fitted ((Sched.settled_iff _).mp settled k)]
  exact Ev.on_congr (Sched.usableNotice_room k room pending)

/-- The choice between two free tuners of equal rank, both usable before (R74, R75). -/
theorem Ev.choose_equal {e : Ev} {v : Base} {before : Tuner → Bool} (was : ∀ k, before k = true)
    (range : e.s.budget ≤ 2) (both : e.s.candidates v = [.A, .B]) (plans : e.s.plans = ⟨[], []⟩) (settled : e.s.Settled)
    (room : e.s.Room 2) (live : ∀ k, (e.s.tuners.get k).live = none) (usable : ∀ k, e.s.usable k = true) :
    e.choose v before = e.on fun s => { s.chosen with notices := s.notices ++ s.chosen.leftNotices } := by
  have plan (k : Tuner) : e.s.plans.get k = [] := by
    rw [plans]
    cases k <;> rfl
  have equal : e.s.topRank .A = e.s.topRank .B := by rw [Sched.topRank_free (plan .A) (live .A), Sched.topRank_free (plan .B) (live .B)]
  have marked : e.on (Sched.budgetMarks v) = e.on Sched.chosen := Ev.on_congr (Sched.budgetMarks_equal range both equal)
  have isUsable (k : Tuner) : (e.on Sched.chosen).s.usable k = !leftOut e.s.budget k := Sched.chosen_usable (usable k)
  have leave : ([Tuner.A, .B].filter fun t => before t && !(e.on Sched.chosen).s.usable t) =
      [Tuner.A, .B].filter (leftOut e.s.budget) := by
    simp only [was, isUsable, Bool.not_not, Bool.true_and]
  have enter : ([Tuner.A, .B].filter fun t => !before t && (e.on Sched.chosen).s.usable t) = [] := by
    simp [was]
  have settledC : e.s.chosen.Settled := settled
  have noted (k : Tuner) (l : List Notice) (few : l.length < 32) :
      (e.on fun s => { s.chosen with notices := l }).leaveUsable v k .limit =
        e.on fun s => { s.chosen with notices := l ++ [e.s.chosen.usableNote k] } := by
    refine Ev.leaveUsable_noted (e := e.on fun s => { s.chosen with notices := l }) plans
      (settledC.of_bookings rfl rfl rfl) ?_ ?_ few room.2 v .limit
    · cases k
      · exact live .A
      · exact live .B
    · have unmarked := usable k
      unfold Sched.usable Marks.none at unmarked
      cases k <;> simp_all [Sched.chosen, Ev.on]
  unfold Ev.choose
  dsimp only
  rw [marked, leave, enter, Ev.enterUsable, List.isEmpty_nil, if_pos rfl]
  have few := room.1
  have zero : e.on Sched.chosen = e.on fun s => { s.chosen with notices := e.s.notices } := rfl
  show _ = e.on fun s => { s.chosen with notices := e.s.notices ++ e.s.chosen.leftNotices }
  unfold Sched.leftNotices
  have isOut (k : Tuner) : leftOut e.s.chosen.budget k = leftOut e.s.budget k := rfl
  rw [isOut, isOut, zero]
  cases a : leftOut e.s.budget .A <;> cases b : leftOut e.s.budget .B <;>
    simp only [List.filter_cons, List.filter_nil, a, b, List.foldl_cons, List.foldl_nil, if_true, if_false, Bool.false_eq_true,
      List.append_nil, List.nil_append]
  · exact noted .B _ (by omega)
  · exact noted .A _ (by omega)
  · rw [noted .A _ (by omega), noted .B _ (by rw [List.length_append, List.length_singleton]; omega), List.append_assoc]

/-! ## POWER-BUDGET -/

theorem exec_powerBudget (n : Nat) (s : State) : exec (.powerBudget n) s = s.request 18 (State.powerBudget n) := rfl

theorem Marks.eq_of_none {m : Marks} (none : m.none = true) : m = ⟨false, false, false⟩ := by
  obtain ⟨fitted, signal, budget⟩ := m
  simpa [Marks.none, and_assoc] using none

theorem Sched.chosen_eq (s : Sched) (usable : ∀ k, s.usable k = true) : s.chosen =
    { s with tuners :=
      ⟨{ s.tuners.a with marks := ⟨false, false, leftOut s.budget .A⟩ },
        { s.tuners.b with marks := ⟨false, false, leftOut s.budget .B⟩ }⟩ } := by
  unfold Sched.chosen
  rw [show s.tuners.a.marks = _ from Marks.eq_of_none (usable .A), show s.tuners.b.marks = _ from Marks.eq_of_none (usable .B)]

theorem Sched.leftNotices_eq (s : Sched) (usable : ∀ k, s.usable k = true) : s.chosen.leftNotices =
    (if leftOut s.budget .A then [.usable .A false ⟨false, false, true⟩ s.tuners.a.state false] else []) ++
      if leftOut s.budget .B then [.usable .B false ⟨false, false, true⟩ s.tuners.b.state false] else [] := by
  have note (k : Tuner) (out : leftOut s.budget k = true) : s.chosen.usableNote k =
      .usable k false ⟨false, false, true⟩ (s.tuners.get k).state false := by
    rw [s.chosen_eq usable]
    cases k <;> simp [Sched.usableNote, out, Marks.none]
  have budget : s.chosen.budget = s.budget := rfl
  unfold Sched.leftNotices
  rw [budget]
  congr 1
  · split
    · rw [note .A ‹_›]
      rfl
    · rfl
  · split
    · rw [note .B ‹_›]
      rfl
    · rfl

/-- The tuners that a free choice leaves usable. -/
theorem Sched.chosen_usableTuners {s : Sched} (usable : ∀ k, s.usable k = true) (range : s.budget ≤ 2) :
    listField tunerField s.chosen.usableTuners = match s.budget with | 0 => [0] | 1 => [1, 0] | _ => [2, 0, 1] := by
  have isUsable (k : Tuner) : s.chosen.usable k = !leftOut s.budget k := Sched.chosen_usable (usable k)
  have list : s.chosen.usableTuners = [Tuner.A, .B].filter fun k => !leftOut s.budget k := List.filter_congr fun k _ => isUsable k
  rw [list]
  generalize s.budget = n at range ⊢
  obtain rfl | rfl | rfl : n = 0 ∨ n = 1 ∨ n = 2 := by omega
  all_goals decide

/-- Settles O31: the check, any budget, and the choice between two free tuners. -/
theorem powerBudget : Obligations.PowerBudget := by
  intro n s takes
  let g : Ev → Ev := fun e => (e.on fun x => { x with budget := n }).choose s.base e.s.usable
  have answer (range : n ≤ 2) : s.powerBudget n = s.answerEvent g fun x => listField tunerField x.usableTuners :=
    if_neg (Nat.not_lt.mpr range)
  refine ⟨fun bad => takes.refused rfl (exec_powerBudget n s) (if_pos bad), fun range => ?_, ?_⟩
  · obtain ⟨t, answered, base, sch⟩ := takes.answersEvent rfl (exec_powerBudget n s) (answer range)
    have evolves : ({ s.sch with budget := n } : Sched).Evolves t.sch := by
      rw [sch]
      exact Sched.event_evolves (s := { s.sch with budget := n }) (f := fun e => e.choose s.base s.sch.usable) fun e =>
        e.evolves_choose s.base _
    exact ⟨t, _, answered, base, evolves.budget, evolves⟩
  · intro range fitted ⟨plans, stacked, unplaced⟩ settled room liveA liveB usableA usableB aliveA aliveB out record note
    let x : Sched := { s.sch with budget := n }
    have usable (k : Tuner) : x.usable k = true := by
      cases k
      · exact usableA
      · exact usableB
    have live (k : Tuner) : (x.tuners.get k).live = none := by
      cases k
      · exact liveA
      · exact liveB
    have chosen : g (Ev.of s.sch) = Ev.of { x.chosen with notices := s.sch.notices ++ x.chosen.leftNotices } :=
      Ev.choose_equal (e := Ev.of x) (before := s.sch.usable) usable range (Sched.candidates_both fitted aliveA aliveB) plans
        (settled.of_bookings rfl rfl rfl) room live usable
    have settledX : x.Settled := settled.of_bookings rfl rfl rfl
    have settledC : x.chosen.Settled := settledX
    obtain ⟨t, answered, base, sch⟩ := takes.answersSettled rfl (exec_powerBudget n s) (answer range)
      (by rw [chosen]; exact Ev.rests_quiet rfl rfl rfl) (by rw [chosen]; rfl)
      (by rw [chosen]; exact settledC.of_bookings rfl rfl rfl)
    rw [chosen] at answered sch
    refine ⟨t, ?_, base, sch.trans ?_⟩
    · have bytes := Sched.chosen_usableTuners (s := x) usable range
      have list : (Ev.of { x.chosen with notices := s.sch.notices ++ x.chosen.leftNotices }).s.usableTuners =
          x.chosen.usableTuners := rfl
      rw [list, bytes] at answered
      exact answered
    · have records := x.chosen_eq usable
      have notices := x.leftNotices_eq usable
      rw [notices, records, ← List.append_assoc]
      rfl

end Sys2Proof.Machine
end

section
/-! RUNNING: the status that a booking takes, and the bookings that pause on one tuner. -/

namespace Sys2Proof.Machine

/-! ## The directive after a change of a capture list -/

theorem TunerRec.issue_directed (v : Base) (mux : Option Nat) (r : TunerRec) :
    (r.issue v mux).directive = (r.directed mux).directive ∧ (r.issue v mux).unread = true ∧
      (r.issue v mux).captures = r.captures := by
  unfold TunerRec.issue
  dsimp only
  split <;> (try split) <;> exact ⟨rfl, rfl, rfl⟩

/-- The state whose tuner has another capture list and a directive that carries it. -/
structure Sched.Recaptured (u : Tuner) (l : List Capture) (s t : Sched) : Prop where
  captures : (t.tuners.get u).captures = l
  carried : (t.tuners.get u).directive.captures = l
  serial : (t.tuners.get u).directive.serial = ((s.tuners.get u).directive.serial + 1) % 65536
  unread : (t.tuners.get u).unread = true
  other : t.tuners.get u.other = s.tuners.get u.other

/-- A changed capture list alone brings a directive of its tuner (R65). -/
theorem Sched.recaptured {v : Base} {s y : Sched} {u : Tuner} {l : List Capture} (settled : s.Settled)
    (keys : ∀ k, (y.occupants k).map Booking.tuneKey = (s.occupants k).map Booking.tuneKey)
    (changed : y.tuners.get u = { s.tuners.get u with captures := l }) (new : l ≠ (s.tuners.get u).captures)
    (other : y.tuners.get u.other = s.tuners.get u.other) : s.Recaptured u l (y.reviseAll v) := by
  have stands := (Sched.settled_iff s).mp settled
  have due : y.directiveStale u = true := by
    rw [← Bool.not_eq_false, Sched.directiveStale_iff, changed]
    rintro ⟨-, -, same⟩
    exact new (same.symm.trans ((s.directiveStale_iff u).mp (stands u)).2.2)
  have current : y.directiveStale u.other = false :=
    (Sched.directiveStale_congr (by rw [other]) (by rw [other]) (by rw [other]) (keys _)).trans (stands u.other)
  rw [Sched.reviseAll_one due current]
  obtain ⟨directive, unread, captures⟩ := TunerRec.issue_directed v (y.neededMux u) (y.tuners.get u)
  constructor
  · rw [Sched.modTuner_tuners, Two.get_mod, captures, changed]
  · rw [Sched.modTuner_tuners, Two.get_mod, directive]
    exact congrArg TunerRec.captures changed
  · rw [Sched.modTuner_tuners, Two.get_mod, directive]
    rw [changed]
    rfl
  · rw [Sched.modTuner_tuners, Two.get_mod, unread]
  · rw [Sched.modTuner_get_other, other]

/-! ## A status reaches a booking -/

/-- The record that a status RUNNING leaves where its booking neither pauses nor resumes, as the statement has it. -/
theorem Booking.takeStatus_eq {v : Base} {r : Running} {b : Booking} (apart : b.state ≠ .recording) : b.takeStatus v r =
    { b with
      running := some r
      endedAt := if r = .ended then
        (if b.running = some .ended then b.endedAt else if b.segs = [] then none else some v.clock) else none } := by
  have recording : (b.state == .recording) = false := by rw [beq_eq_false_iff_ne]; exact apart
  unfold Booking.takeStatus
  rw [recording]
  cases b.segs <;> rfl

/-- Nothing follows from a status in other states than PREPARING, RECORDING and PAUSED. -/
theorem Ev.status_quiet {v : Base} {r : Running} {b : Booking} {e : Ev} {k : TrigKind} {d : Nat}
    (found : e.s.bk b.handle = some b) (alive : b.state ≠ .ended)
    (apart : b.state ≠ .preparing ∧ b.state ≠ .recording ∧ b.state ≠ .paused)
    (armed : (b.takeStatus v r).armed v = some (k, d)) (ahead : v.clock < d) :
    e.status v r b = e.on fun s =>
      { s.modB b.handle (Booking.takeStatus v r) with triggers := armedWith b.handle k d s.triggers } := by
  have found' : (s : Sched) → s = e.s → (s.modB b.handle (Booking.takeStatus v r)).bk b.handle = some (b.takeStatus v r) := by
    rintro s rfl
    exact Sched.bk_modB_self (f := Booking.takeStatus v r) (fun _ => rfl) found alive
  have arms := Ev.arm_ahead (e := e.on fun s => s.modB b.handle (Booking.takeStatus v r)) (found' _ rfl) armed ahead
  obtain ⟨preparing, recording, paused⟩ := apart
  have nothing (e : Ev) : e.statusEffect v r (b.takeStatus v r) = e := by
    unfold Ev.statusEffect
    split
    · exact absurd ‹_› preparing
    · exact absurd ‹_› recording
    · exact absurd ‹_› paused
    · rfl
  unfold Ev.status
  rw [nothing, arms]
  rfl

/-- The record of a RECORDING booking that pauses (R40). -/
def Booking.halted (v : Base) (b : Booking) : Booking :=
  { b with running := some .paused, endedAt := none, state := .paused, segs := closeOpen v.clock b.segs }

/-- What a pause does, but for the order of the Trigger List. -/
structure Sched.Halts (v : Base) (b : Booking) (s t : Sched) : Prop where
  here : t.bk b.handle = some (b.halted v)
  others : ∀ g, g ≠ b.handle → t.bk g = s.bk g
  tuners : t.tuners = (s.leaveCapture b.handle).tuners
  plans : t.plans = s.plans
  notices : t.notices = s.notices

theorem Ev.status_pauses {v : Base} {b : Booking} {e : Ev} {k : TrigKind} {d : Nat} (found : e.s.bk b.handle = some b)
    (recording : b.state = .recording) (armed : (b.halted v).armed v = some (k, d)) (ahead : v.clock < d) :
    ∃ t, e.status v .paused b = { e with s := t } ∧ e.s.Halts v b t := by
  let f : Booking → Booking := Booking.takeStatus v .paused
  let close : Booking → Booking := fun b => { b with segs := closeOpen v.clock b.segs }
  let stop : Booking → Booking := fun b => { b with state := .paused }
  have alive (c : Booking) (state : c.state = .recording) : c.state ≠ .ended := by rw [state]; exact nofun
  have took : (e.s.modB b.handle f).bk b.handle = some (f b) := Sched.bk_modB_self f (fun _ => rfl) found (alive b recording)
  have armedF : (f b).armed v = some (k, d) := by
    rw [← armed]
    unfold Booking.armed
    rw [show (f b).state = .recording from recording]
    rfl
  let x : Sched := { e.s.modB b.handle f with triggers := armedWith b.handle k d e.s.triggers }
  let y : Sched := ((x.closeSeg b.handle v.clock).leaveCapture b.handle).modB b.handle stop
  have first : ((e.on fun s => s.modB b.handle f).arm v b.handle) = { e with s := x } := Ev.arm_ahead took armedF ahead
  have closed : (x.closeSeg b.handle v.clock).bk b.handle = some (close (f b)) :=
    Sched.bk_modB_self (s := x) close (fun _ => rfl) took (alive _ recording)
  have here : y.bk b.handle = some (b.halted v) :=
    Sched.bk_modB_self (s := (x.closeSeg b.handle v.clock).leaveCapture b.handle) stop (fun _ => rfl) closed (alive _ recording)
  have second := Ev.arm_ahead (v := v) (e := { e with s := y }) here armed ahead
  refine ⟨{ y with triggers := armedWith b.handle k d y.triggers }, ?_, here, fun g other => ?_, rfl, rfl, rfl⟩
  · have effect : Ev.statusEffect v .paused (f b) { e with s := x } = ({ e with s := x } : Ev).pause v b.handle := by
      unfold Ev.statusEffect
      rw [show (f b).state = .recording from recording]
      rfl
    unfold Ev.status
    rw [first, effect]
    exact second
  · calc y.bk g = (x.closeSeg b.handle v.clock).bk g :=
          Sched.bk_modB_other ((x.closeSeg b.handle v.clock).leaveCapture b.handle) stop (fun _ => rfl) other
      _ = x.bk g := Sched.bk_modB_other x close (fun _ => rfl) other
      _ = e.s.bk g := Sched.bk_modB_other e.s f (fun _ => rfl) other

/-- A pause leaves the bookings on the tuners as its own figures see them. -/
theorem Sched.Halts.keys {v : Base} {b : Booking} {s t : Sched} (halts : s.Halts v b t) (found : s.bk b.handle = some b)
    (recording : b.state = .recording) (k : Tuner) : (t.occupants k).map Booking.tuneKey = (s.occupants k).map Booking.tuneKey := by
  refine Sched.occupants_congr (by rw [halts.plans]) fun p _ => ?_
  by_cases here : p.handle = b.handle
  · have key : (b.halted v).tuneKey = b.tuneKey := by
      unfold Booking.tuneKey Booking.occupies
      rw [recording]
      rfl
    rw [here, halts.here, found, Option.map_some, Option.map_some, key]
  · rw [halts.others _ here]

theorem Sched.leaveCapture_get (s : Sched) (h : Nat) (k : Tuner) : (s.leaveCapture h).tuners.get k =
    { s.tuners.get k with captures := (s.tuners.get k).captures.filter fun c => c.handle != h } := by
  cases k <;> rfl

/-- A list that loses a member is another list. -/
theorem filter_ne_of_mem {α : Type} {p : α → Bool} {l : List α} {x : α} (inside : x ∈ l) (gone : p x = false) : l.filter p ≠ l :=
  fun same => by simpa [gone] using List.filter_eq_self.mp same x inside

/-! ## RUNNING -/

theorem exec_running (service event status : Nat) (s : State) :
    exec (.running service event status) s = s.request 15 (State.running service event status) := rfl

/-- A status that reaches bookings is one event. -/
theorem State.running_reaches {service event status : Nat} {r : Running} {s : State} {b : Booking} {rest : List Booking}
    (good : Running.ofStatus status = some r) (reached : s.sch.bookings.filter (followsProgramme service event) = b :: rest) :
    s.running service event status =
      (s.event fun e => ((b :: rest).map (·.handle)).foldl (Ev.statusOf s.base service event r) e).done
        (byte (rest.length + 1)) := by
  unfold State.running
  rw [good]
  dsimp only
  rw [reached, List.map_cons, List.isEmpty_cons, List.length_cons, List.length_map]
  rfl

theorem Ev.statusOf_follows {v : Base} {service event : Nat} {r : Running} {e : Ev} {b : Booking}
    (found : e.s.bk b.handle = some b) (follows : followsProgramme service event b = true) :
    e.statusOf v service event r b.handle = e.status v r b := by
  unfold Ev.statusOf
  rw [found]
  exact if_pos follows

theorem followsProgramme_iff (service event : Nat) (b : Booking) : followsProgramme service event b = true ↔
    b.follow = true ∧ b.state ≠ .ended ∧ b.service = service ∧ b.event = some event := by
  simp [followsProgramme, and_assoc]

/-- The pause of one booking on a tuner, and of two, leaves an event with its directive. -/
theorem State.running_event {service event status : Nat} {r : Running} {s : State} {b : Booking} {rest : List Booking}
    (takes : s.Takes) (good : Running.ofStatus status = some r)
    (reached : s.sch.bookings.filter (followsProgramme service event) = b :: rest) {y : Sched}
    (effect : ((b :: rest).map (·.handle)).foldl (Ev.statusOf s.base service event r) (Ev.of s.sch) = Ev.of y) :
    ∃ t, Answered (.running service event status) s t .ok (byte (rest.length + 1)) ∧ t.base = s.base ∧
      t.sch = y.reviseAll s.base := by
  obtain ⟨t, answered, base, sch⟩ := takes.answers rfl (exec_running service event status s)
    (State.running_reaches good reached) (s.beside_event _)
  refine ⟨t, answered, base, sch.trans ?_⟩
  show (((b :: rest).map (·.handle)).foldl (Ev.statusOf s.base service event r) (Ev.of s.sch)).settle s.base = _
  rw [effect]
  exact Ev.settle_rests (Ev.rests_quiet rfl rfl rfl) rfl

theorem Running.ofStatus_low : ∀ {n : Nat}, n ≤ 3 → ∃ r, Running.ofStatus n = some r
  | 0, _ => ⟨_, rfl⟩
  | 1, _ => ⟨_, rfl⟩
  | 2, _ => ⟨_, rfl⟩
  | 3, _ => ⟨_, rfl⟩

/-- Settles O28: the checks, one booking that takes its status, and one or two that pause on one tuner. -/
theorem runningStatus : Obligations.RunningStatus := by
  intro service event status s takes
  have follows {l : List Booking} (reached : s.sch.bookings.filter (followsProgramme service event) = l) :
      ∀ b ∈ l, followsProgramme service event b = true := by
    rintro b inside
    rw [← reached] at inside
    exact (List.mem_filter.mp inside).2
  refine ⟨fun bad => takes.refused rfl (exec_running service event status s) ?_, fun good nobody => ?_, ?_, ?_⟩
  · have none : Running.ofStatus status = none := by
      unfold Running.ofStatus
      split
      · omega
      · omega
      · omega
      · omega
      · rfl
    unfold State.running
    rw [none]
  · refine takes.told rfl (exec_running service event status s) ?_
    have none : s.sch.bookings.filter (followsProgramme service event) = [] := by
      rw [List.filter_eq_nil_iff]
      intro b inside follows
      obtain ⟨follow, alive, service', event'⟩ := (followsProgramme_iff _ _ _).mp follows
      rcases nobody b inside with h | h | h | h
      · exact absurd follow (by rw [h]; exact nofun)
      · exact alive h
      · exact h service'
      · exact h event'
    obtain ⟨r, reads⟩ : ∃ r, Running.ofStatus status = some r := Running.ofStatus_low good
    unfold State.running
    rw [reads]
    dsimp only
    rw [none]
    rfl
  · intro r b k d good reached found settled ahead
    have reaches := follows reached b List.mem_cons_self
    have alive := ((followsProgramme_iff _ _ _).mp reaches).2.1
    have one : Ev.statusOf s.base service event r (Ev.of s.sch) b.handle = (Ev.of s.sch).status s.base r b :=
      Ev.statusOf_follows found reaches
    constructor
    · intro c preparing recording paused armed
      have takesIt : b.takeStatus s.base r = c := Booking.takeStatus_eq recording
      have effect := Ev.status_quiet (e := Ev.of s.sch) (r := r) found alive ⟨preparing, recording, paused⟩ (takesIt ▸ armed) ahead
      let y : Sched := { s.sch.modB b.handle (Booking.takeStatus s.base r) with
        triggers := armedWith b.handle k d s.sch.triggers }
      obtain ⟨t, answered, base, sch⟩ := State.running_event (y := y) takes good reached (one.trans effect)
      have settled' : y.Settled :=
        (settled.modB b.handle (Booking.takeStatus s.base r) (fun _ => rfl) fun _ _ _ => rfl).of_bookings rfl rfl rfl
      rw [Sched.reviseAll_settled _ _ settled'] at sch
      refine ⟨t, answered, base, ?_, ?_, fun g other => ?_⟩
      · rw [sch, ← takesIt]
        exact Sched.bk_modB_self (Booking.takeStatus s.base r) (fun _ => rfl) found alive
      · rw [sch]
        rfl
      · rw [sch]
        exact Sched.bk_modB_other s.sch (Booking.takeStatus s.base r) (fun _ => rfl) other
    · rintro c recording rfl armed u inside elsewhere l
      obtain ⟨y, effect, halts⟩ := Ev.status_pauses (e := Ev.of s.sch) found recording armed ahead
      obtain ⟨t, answered, base, sch⟩ := State.running_event takes good reached (one.trans effect)
      have recaptured : s.sch.Recaptured u l (y.reviseAll s.base) :=
        Sched.recaptured settled (halts.keys found recording)
          (by rw [halts.tuners]; exact s.sch.leaveCapture_get b.handle u) (filter_ne_of_mem inside (by simp))
          (by
            rw [halts.tuners, Sched.leaveCapture_get, List.filter_eq_self.mpr fun y hy => by simpa using elsewhere y hy]
            rfl)
      obtain ⟨tuners, revised⟩ := y.reviseAll_eq s.base
      rw [← sch] at recaptured
      rw [revised] at sch
      obtain ⟨captures, carried, serial, unread, other⟩ := recaptured
      refine ⟨t, answered, base, ?_, captures, carried, serial, unread, other, ?_, fun g apart => ?_⟩
      · rw [sch]
        exact halts.here
      · rw [sch]
        exact halts.notices
      · rw [sch]
        exact halts.others g apart
  · rintro b c u rfl reached apart foundB foundC settled halted each elsewhere l
    have statusOf {e : Ev} {x : Booking} (inside : x ∈ [b, c]) (found : e.s.bk x.handle = some x) :
        ∃ t, Ev.statusOf s.base service event .paused e x.handle = { e with s := t } ∧ e.s.Halts s.base x t := by
      obtain ⟨recording, -, k, d, armed, ahead⟩ := each x inside
      rw [Ev.statusOf_follows found (follows reached x inside)]
      exact Ev.status_pauses found recording armed ahead
    obtain ⟨recordingB, insideB, -⟩ := each b List.mem_cons_self
    obtain ⟨recordingC, -⟩ := each c (by simp)
    obtain ⟨x, first, haltsB⟩ := statusOf (e := Ev.of s.sch) (x := b) List.mem_cons_self foundB
    have foundC' : x.bk c.handle = some c := (haltsB.others c.handle apart.symm).trans foundC
    obtain ⟨y, second, haltsC⟩ := statusOf (e := Ev.of x) (x := c) (by simp) foundC'
    obtain ⟨t, answered, base, sch⟩ := State.running_event (y := y) takes (show Running.ofStatus 2 = some .paused from rfl) reached (by
      rw [List.map_cons, List.map_cons, List.map_nil, List.foldl_cons, List.foldl_cons, List.foldl_nil, first]
      exact second)
    have got (k : Tuner) : y.tuners.get k = { s.sch.tuners.get k with
        captures := (s.sch.tuners.get k).captures.filter fun y => y.handle != b.handle && y.handle != c.handle } := by
      rw [haltsC.tuners, Sched.leaveCapture_get]
      dsimp only [Ev.of]
      rw [haltsB.tuners, Sched.leaveCapture_get]
      dsimp only [Ev.of]
      rw [List.filter_filter]
      simp only [Bool.and_comm]
    have recaptured : s.sch.Recaptured u l (y.reviseAll s.base) :=
      Sched.recaptured settled (fun k => (haltsC.keys foundC' recordingC k).trans (haltsB.keys foundB recordingB k)) (got u)
        (filter_ne_of_mem insideB (by simp))
        (by
          rw [got, List.filter_eq_self.mpr fun y hy => by simpa using elsewhere y hy])
    obtain ⟨tuners, revised⟩ := y.reviseAll_eq s.base
    rw [← sch] at recaptured
    rw [revised] at sch
    obtain ⟨captures, carried, serial, unread, other⟩ := recaptured
    have two : byte ([c].length + 1) = [2] := by
      rw [List.length_singleton]
      decide
    refine ⟨t, two ▸ answered, base, ?_, ?_, captures, carried, serial, unread, other, ?_, fun g notB notC => ?_⟩
    · rw [sch]
      exact (haltsC.others b.handle apart).trans haltsB.here
    · rw [sch]
      exact haltsC.here
    · rw [sch]
      exact haltsC.notices.trans haltsB.notices
    · rw [sch]
      exact (haltsC.others g notC).trans (haltsB.others g notB)

end Sys2Proof.Machine
end

section
/-! START and GRACE: the capture rule at one PREPARING booking. -/

namespace Sys2Proof.Machine

/-- A directive of the same multiplex leaves a LOCKED tuner as it is (R66). -/
theorem TunerRec.issue_locked {v : Base} {r : TunerRec} {mux : Nat} (locked : r.state = .locked)
    (same : r.directive.mux = some mux) : r.issue v (some mux) = r.directed (some mux) := by
  have equal : (some mux == r.directive.mux) = true := by rw [same]; exact beq_self_eq_true _
  unfold TunerRec.issue
  rw [locked]
  dsimp only
  rw [equal, if_pos rfl, TunerRec.directed, locked]

theorem Sched.lockedOn_iff (s : Sched) (k : Tuner) (mux : Nat) : s.lockedOn k mux = true ↔
    (s.tuners.get k).state = .locked ∧ (s.tuners.get k).directive.mux = some mux := by
  simp [Sched.lockedOn]

/-- A change at one place, seen from a pair that agrees at the other. -/
theorem Two.mod_eq_set {α : Type} {x y : Two α} {k : Tuner} {f : α → α} (other : y.get k.other = x.get k.other) :
    y.mod k f = x.set k (f (y.get k)) := by
  cases k
  · exact congrArg (Two.mk _) other
  · exact congrArg (Two.mk · _) other

/-! ## The verdict of the running field -/

/-- The running field lets a booking capture (R35). -/
theorem Booking.verdict_capture {v : Base} {b : Booking} (allows : b.follow = false ∨ b.running = some .running ∨
    (b.running = some .ended ∧ b.segs ≠ []) ∨ (b.graceTime v ≤ v.clock ∧ (b.running ≠ some .paused ∨ b.segs = []))) :
    b.verdict v = .capture := by
  unfold Booking.verdict
  dsimp only
  rcases allows with follow | running | ⟨ended, segs⟩ | ⟨grace, free⟩
  · rw [follow]
    rfl
  · rw [running]
    split <;> rfl
  · rw [ended]
    cases list : b.segs with
    | nil => exact absurd list segs
    | cons g l => split <;> rfl
  · rw [if_pos grace]
    split
    · rfl
    · cases running : b.running with
      | none => rfl
      | some r =>
        cases segs : b.segs with
        | nil => cases r <;> rfl
        | cons g l =>
          have other : r ≠ .paused := fun e => free.elim (· (by rw [running, e])) (by rw [segs]; exact nofun)
          cases r with
          | paused => exact absurd rfl other
          | _ => rfl

/-- One that has begun pauses at its GRACE time (R35). -/
theorem Booking.verdict_pause {v : Base} {b : Booking} (follow : b.follow = true) (running : b.running = some .paused)
    (segs : b.segs ≠ []) (grace : b.graceTime v ≤ v.clock) : b.verdict v = .pause := by
  unfold Booking.verdict
  rw [follow, running]
  cases list : b.segs with
  | nil => exact absurd list segs
  | cons g l => exact if_pos grace

/-! ## The capture rule -/

/-- The state of a booking that captures on a tuner. -/
def Sched.captures (v : Base) (b : Booking) (k : Tuner) (s : Sched) : Sched :=
  (s.modB b.handle fun c => { c.addSegment (openSegment v k) with state := .recording }).modTuner k fun r =>
    { r with captures := r.captures ++ [⟨b.service, b.handle⟩] }

theorem Sched.joinCapture_room {s : Sched} {k : Tuner} (few : (s.tuners.get k).captures.length < 4) (c : Capture) :
    s.joinCapture k c = s.modTuner k fun r => { r with captures := r.captures ++ [c] } := by
  unfold Sched.joinCapture Sched.modTuner Two.mod
  dsimp only
  rw [if_pos few]

/-- A booking with room for a segment and for its capture begins to record (R35, R41, R64). -/
theorem Ev.capture_records {v : Base} {e : Ev} {b : Booking} {k : Tuner} {kind : TrigKind} {d : Nat}
    (found : e.s.bk b.handle = some b) (alive : b.state ≠ .ended) (segs : b.segs.length < 4)
    (few : (e.s.tuners.get k).captures.length < 4)
    (armed : ({ b with state := .recording, segs := b.segs ++ [openSegment v k] } : Booking).armed v = some (kind, d))
    (ahead : v.clock < d) :
    e.capture v b k = e.on fun s => { s.captures v b k with triggers := armedWith b.handle kind d s.triggers } := by
  let f : Booking → Booking := fun c => { c.addSegment (openSegment v k) with state := .recording }
  have added : f b = { b with state := .recording, segs := b.segs ++ [openSegment v k] } := by
    show ({ b.addSegment (openSegment v k) with state := .recording } : Booking) = _
    unfold Booking.addSegment
    rw [if_pos segs]
  have joined : (e.on fun s => (s.modB b.handle f).joinCapture k ⟨b.service, b.handle⟩) = e.on (Sched.captures v b k) :=
    Ev.on_congr (Sched.joinCapture_room (s := e.s.modB b.handle f) few _)
  have here : (e.s.captures v b k).bk b.handle = some (f b) :=
    Sched.bk_modB_self (s := e.s) f (fun c => by unfold f Booking.addSegment; rfl) found alive
  unfold Ev.capture
  rw [if_neg (Nat.not_le.mpr segs), if_neg (Nat.not_le.mpr few), joined]
  exact Ev.arm_ahead (e := e.on (Sched.captures v b k)) here (added ▸ armed) ahead

/-- The rule at a PREPARING booking whose tuner is LOCKED for it and whose START time has passed. -/
theorem Ev.captureRule_applies {v : Base} {e : Ev} {b : Booking} {k : Tuner} (found : e.s.bk b.handle = some b)
    (preparing : b.state = .preparing) (plan : b.plan = .tuner k) (locked : e.s.lockedOn k b.mux = true)
    (begun : b.startTime ≤ v.clock) : e.captureRule v b.handle =
      match b.verdict v with
      | .wait => e
      | .capture => e.capture v b k
      | .pause => (e.on fun s => s.modB b.handle fun c => { c with state := .paused }).arm v b.handle := by
  unfold Ev.captureRule
  rw [found]
  dsimp only
  rw [preparing, plan]
  dsimp only
  rw [locked, decide_eq_true begun]
  rfl

theorem Ev.captureRule_waits {v : Base} {e : Ev} {b : Booking} {k : Tuner} (found : e.s.bk b.handle = some b)
    (preparing : b.state = .preparing) (plan : b.plan = .tuner k)
    (waits : e.s.lockedOn k b.mux = false ∨ v.clock < b.startTime) : e.captureRule v b.handle = e := by
  have no : (e.s.lockedOn k b.mux && decide (b.startTime ≤ v.clock)) = false := by
    rcases waits with open' | early
    · rw [open']
      rfl
    · rw [decide_eq_false (Nat.not_le.mpr early), Bool.and_false]
  unfold Ev.captureRule
  rw [found]
  dsimp only
  rw [preparing, plan]
  dsimp only
  rw [no]
  rfl

/-! ## START and GRACE -/

theorem Ev.fireStart_preparing {v : Base} {e : Ev} {h : Nat} {b : Booking} (found : e.s.bk h = some b)
    (preparing : b.state = .preparing) : e.fireStart v h =
      if ((e.captureRule v h).s.bk h).any (fun b => b.state == .preparing) then (e.captureRule v h).arm v h
      else e.captureRule v h := by
  unfold Ev.fireStart
  rw [found, Option.map_some, preparing]

/-- An event of a trigger that is START or GRACE. -/
theorem State.start_happened {i : Instr} {kind : TrigKind} {h d : Nat} {s : State} (high : s.resetLow = false)
    (which : (i = .start h ∧ kind = .start) ∨ (i = .grace h ∧ kind = .grace)) (armed : s.sch.trigger h = some ⟨h, kind, d⟩)
    {x : Sched} (effect : ((Ev.of s.sch).fireStart (s.countTo (d * unit)).base h).settle (s.countTo (d * unit)).base = x) :
    ∃ t, Happened i s t ∧ t.base = (s.countTo (d * unit)).base ∧ t.sch = x := by
  have command : i = kind.command h := by
    rcases which with ⟨rfl, rfl⟩ | ⟨rfl, rfl⟩ <;> rfl
  have fires : ∀ v, (Ev.of s.sch).fire v h kind = (Ev.of s.sch).fireStart v h := by
    rcases which with ⟨-, rfl⟩ | ⟨-, rfl⟩ <;> exact fun _ => rfl
  subst command
  have due : State.armedAt h kind s = some (d * unit) := by simp [State.armedAt, armed]
  obtain ⟨t, happened, base, sch⟩ := State.happened_event (exec_trigger h kind s) high due
  refine ⟨t, happened, base, sch.trans ?_⟩
  rw [← effect, ← fires]
  rfl

/-- Settles O38: the rule lets the booking capture or pause, or it waits for its tuner. -/
theorem startAndGraceBeginTheCapture : Obligations.StartAndGraceBeginTheCapture := by
  intro i kind kind' h d d' k b s high which trigger found preparing plan settled v r armed ahead
  obtain ⟨rfl, -⟩ := s.sch.bk_handle found
  have alive : b.state ≠ .ended := by rw [preparing]; exact nofun
  have occupies : b.occupies = true := by
    unfold Booking.occupies
    rw [preparing]
    rfl
  have stale := (Sched.settled_iff s.sch).mp settled
  have fire := Ev.fireStart_preparing (v := v) (e := Ev.of s.sch) found preparing
  refine ⟨?_, ?_, ?_⟩
  · intro c l locked mux few segs begun allows rearmed
    have verdict := Booking.verdict_capture (v := v) allows
    have isLocked : s.sch.lockedOn k b.mux = true := (s.sch.lockedOn_iff k b.mux).mpr ⟨locked, mux⟩
    have rule := Ev.captureRule_applies (v := v) (e := Ev.of s.sch) found preparing plan isLocked begun
    rw [verdict] at rule
    let f : Booking → Booking := fun c => { c.addSegment (openSegment v k) with state := .recording }
    have added : f b = c := by
      show ({ b.addSegment (openSegment v k) with state := .recording } : Booking) = _
      unfold Booking.addSegment
      rw [if_pos segs]
      rfl
    have handles (x : Booking) : (f x).handle = x.handle := by unfold f Booking.addSegment; rfl
    let y : Sched := { s.sch.captures v b k with triggers := armedWith b.handle kind' d' s.sch.triggers }
    have records : (Ev.of s.sch).captureRule v b.handle = Ev.of y :=
      rule.trans (Ev.capture_records (e := Ev.of s.sch) found alive segs few rearmed ahead)
    have here : y.bk b.handle = some c := added ▸ Sched.bk_modB_self (s := s.sch) f handles found alive
    have others (g : Nat) (other : g ≠ b.handle) : y.bk g = s.sch.bk g := Sched.bk_modB_other s.sch f handles other
    have keys (u : Tuner) : (y.occupants u).map Booking.tuneKey = (s.sch.occupants u).map Booking.tuneKey := by
      refine Sched.occupants_congr (s := s.sch) (t := y) rfl fun p _ => ?_
      by_cases same : p.handle = b.handle
      · have key : c.tuneKey = b.tuneKey := congrArg (·, b.mux, b.prepSeq) occupies.symm
        rw [same, here, found, Option.map_some, Option.map_some, key]
      · rw [others _ same]
    have changed : y.tuners.get k = { r with captures := l } := Two.get_mod _ k _
    have other : y.tuners.get k.other = s.sch.tuners.get k.other := Sched.modTuner_get_other _ k _
    obtain ⟨stands, -, carried⟩ := (s.sch.directiveStale_iff k).mp (stale k)
    have needed : y.neededMux k = some b.mux := by
      rw [Sched.neededMux_congr (s := s.sch) (by rw [changed]) (keys k), ← stands]
      exact mux
    have due : y.directiveStale k = true := by
      rw [← Bool.not_eq_false, Sched.directiveStale_iff, changed]
      rintro ⟨-, -, same⟩
      have lengths := congrArg List.length (carried.symm.trans same)
      rw [List.length_append, List.length_singleton] at lengths
      exact absurd lengths (by dsimp only [r]; omega)
    have current : y.directiveStale k.other = false :=
      (Sched.directiveStale_congr (by rw [other]) (by rw [other]) (by rw [other]) (keys _)).trans (stale k.other)
    rw [records, show (Ev.of y).s.bk b.handle = some c from here, if_neg nofun] at fire
    obtain ⟨t, happened, base, sch⟩ := State.start_happened high which trigger (x := y.reviseAll v)
      ((congrArg (Ev.settle v) fire).trans (Ev.settle_rests (Ev.rests_quiet rfl rfl rfl) rfl))
    rw [Sched.reviseAll_one due current, needed] at sch
    refine ⟨t, happened, base, ?_, fun g apart => ?_, ?_⟩
    · rw [sch]
      exact here
    · rw [sch]
      exact others g apart
    · have issued : (y.tuners.get k).issue v (some b.mux) =
          { r with
            captures := l
            directive := ⟨(r.directive.serial + 1) % 65536, some b.mux, r.live.map (·.service), l⟩
            unread := true } := by
        rw [changed]
        exact TunerRec.issue_locked locked mux
      have tuners := Two.mod_eq_set (f := TunerRec.issue v (some b.mux)) other
      rw [issued] at tuners
      rw [sch]
      exact congrArg (fun x => ({ y with tuners := x } : Sched)) tuners
  · intro c locked mux begun follow running segs grace rearmed
    have isLocked : s.sch.lockedOn k b.mux = true := (s.sch.lockedOn_iff k b.mux).mpr ⟨locked, mux⟩
    have rule := Ev.captureRule_applies (v := v) (e := Ev.of s.sch) found preparing plan isLocked begun
    rw [Booking.verdict_pause follow running segs grace] at rule
    let f : Booking → Booking := fun c => { c with state := .paused }
    have here : (s.sch.modB b.handle f).bk b.handle = some c := Sched.bk_modB_self f (fun _ => rfl) found alive
    let y : Sched := { s.sch.modB b.handle f with triggers := armedWith b.handle kind' d' s.sch.triggers }
    have pauses : (Ev.of s.sch).captureRule v b.handle = Ev.of y :=
      rule.trans (Ev.arm_ahead (e := Ev.of (s.sch.modB b.handle f)) here rearmed ahead)
    have settledY : y.Settled := by
      refine (settled.modB b.handle f (fun _ => rfl) fun x found' _ => ?_).of_bookings rfl rfl rfl
      obtain rfl : b = x := Option.some.inj (found.symm.trans found')
      exact congrArg (·, b.mux, b.prepSeq) occupies.symm
    rw [pauses, show (Ev.of y).s.bk b.handle = some c from here, if_neg nofun] at fire
    obtain ⟨t, happened, base, sch⟩ := State.start_happened high which trigger (x := y)
      ((congrArg (Ev.settle v) fire).trans (Ev.settle_settled (Ev.rests_quiet rfl rfl rfl) rfl settledY))
    refine ⟨t, happened, base, ?_, fun g apart => ?_, ?_⟩
    · rw [sch]
      exact here
    · rw [sch]
      exact Sched.bk_modB_other s.sch f (fun _ => rfl) apart
    · rw [sch]
      rfl
  · intro unlocked rearmed
    have open' : s.sch.lockedOn k b.mux = false := by
      rw [Bool.eq_false_iff, Ne, Sched.lockedOn_iff]
      exact Classical.not_and_iff_not_or_not.mpr unlocked
    have rule := Ev.captureRule_waits (v := v) (e := Ev.of s.sch) found preparing plan (.inl open')
    have still : ((Ev.of s.sch).s.bk b.handle).any (fun b => b.state == .preparing) = true := by
      rw [show (Ev.of s.sch).s.bk b.handle = some b from found, Option.any_some, preparing]
      rfl
    rw [rule, still, if_pos rfl, Ev.arm_ahead (e := Ev.of s.sch) found rearmed ahead] at fire
    obtain ⟨t, happened, base, sch⟩ := State.start_happened high which trigger
      (x := { s.sch with triggers := armedWith b.handle kind' d' s.sch.triggers })
      ((congrArg (Ev.settle v) fire).trans
        (Ev.settle_settled (Ev.rests_quiet rfl rfl rfl) rfl (settled.of_bookings rfl rfl rfl)))
    exact ⟨t, happened, base, sch⟩

end Sys2Proof.Machine
end

section
/-! One booking is pushed onto an empty stack, and the one record of a stack pops. -/

namespace Sys2Proof.Machine

/-! ## The push of one booking -/

/-- A booking that is taken off its tuner (R111). -/
def Booking.suspended (v : Base) (b : Booking) : Booking :=
  { b with state := .suspended, plan := .absent, segs := closeOpen v.clock b.segs }

/-- The state without a booking's captures and plan entry, the booking SUSPENDED alone in the unplaced list and its trigger
armed. -/
def Sched.unseated (v : Base) (b : Booking) (kd : TrigKind) (d : Nat) (s : Sched) : Sched :=
  { ((s.closeSeg b.handle v.clock).leaveCapture b.handle).modB b.handle fun b => { b with state := .suspended, plan := .absent } with
    plans := s.plans.both (List.filter fun p => p.handle != b.handle)
    triggers := armedWith b.handle kd d s.triggers
    unplaced := [b.handle] }

/-- The same with a stack record of the booking alone on a tuner. -/
def Sched.pushed (v : Base) (k : Tuner) (reason : PushReason) (by' : Option (Nat × BookingId)) (b : Booking)
    (kd : TrigKind) (d : Nat) (s : Sched) : Sched :=
  { s.unseated v b kd d with stacked := s.stacked.set k [⟨[b.handle], b.mux, v.clock, reason, by', false⟩] }

theorem Sched.unseated_bk {v : Base} {b : Booking} {kd : TrigKind} {d : Nat} {s : Sched} (found : s.bk b.handle = some b)
    (alive : b.state ≠ .ended) : (s.unseated v b kd d).bk b.handle = some (b.suspended v) := by
  have closed : (s.closeSeg b.handle v.clock).bk b.handle = some { b with segs := closeOpen v.clock b.segs } :=
    Sched.bk_modB_self _ (fun _ => rfl) found alive
  exact Sched.bk_modB_self (s := (s.closeSeg b.handle v.clock).leaveCapture b.handle)
    (fun b => { b with state := .suspended, plan := .absent }) (fun _ => rfl) closed alive

theorem Sched.unseated_bk_other {v : Base} {b : Booking} {kd : TrigKind} {d g : Nat} {s : Sched} (other : g ≠ b.handle) :
    (s.unseated v b kd d).bk g = s.bk g :=
  (Sched.bk_modB_other ((s.closeSeg b.handle v.clock).leaveCapture b.handle)
      (fun b => { b with state := .suspended, plan := .absent }) (fun _ => rfl) other).trans
    (Sched.bk_modB_other s _ (fun _ => rfl) other)

theorem groups_one (b : Booking) : groups [b] = [(b.mux, [b.handle])] := rfl

/-- A booking is taken off its tuner where the stacks and the unplaced list are empty. -/
theorem Ev.suspend_alone {v : Base} {e : Ev} {b : Booking} {kd : TrigKind} {d : Nat} (stacked : e.s.stacked = ⟨[], []⟩)
    (unplaced : e.s.unplaced = []) (found : e.s.bk b.handle = some b) (alive : b.state ≠ .ended)
    (armed : (b.suspended v).armed v = some (kd, d)) (ahead : v.clock < d) :
    ∃ x, e.suspend v .suspended b.handle = { e with s := e.s.unseated v b kd d, exam := x } := by
  obtain ⟨x, left⟩ := Ev.leavePlan_plain (e := e.on fun s => (s.closeSeg b.handle v.clock).leaveCapture b.handle) stacked b.handle
  let y : Sched := { ((e.s.closeSeg b.handle v.clock).leaveCapture b.handle) with
    plans := e.s.plans.both (List.filter fun p => p.handle != b.handle) }
  let z : Sched := y.modB b.handle fun b => { b with state := .suspended, plan := .absent }
  have found' : z.bk b.handle = some (b.suspended v) := Sched.unseated_bk (kd := kd) (d := d) found alive
  have arms := Ev.arm_ahead (e := { e with s := z, exam := x }) found' armed ahead
  refine ⟨x, ?_⟩
  unfold Ev.suspend
  dsimp only
  rw [left]
  show (({ e with s := z, exam := x } : Ev).arm v b.handle).on (fun s => s.joinUnplaced b.handle) = _
  rw [arms]
  exact Ev.on_congr (e := ({ e with s := z, exam := x } : Ev).on fun s =>
      { s with triggers := armedWith b.handle kd d s.triggers }) (f := fun s => s.joinUnplaced b.handle)
    (g := fun s => { s with unplaced := [b.handle] }) (Sched.joinUnplaced_empty b.handle unplaced)

/-- The push of one booking where the stacks and the unplaced list are empty (R111). -/
theorem Ev.push_one {v : Base} {e : Ev} {b : Booking} {kd : TrigKind} {d : Nat} (stacked : e.s.stacked = ⟨[], []⟩)
    (unplaced : e.s.unplaced = []) (found : e.s.bk b.handle = some b) (alive : b.state ≠ .ended)
    (armed : (b.suspended v).armed v = some (kd, d)) (ahead : v.clock < d) (depth : 1 ≤ v.cfg.depth) (k : Tuner)
    (reason : PushReason) (by' : Option (Nat × BookingId)) : ∃ x, e.push v k reason by' [b] =
      { e with s := e.s.pushed v k reason by' b kd d, exam := x } := by
  obtain ⟨x, suspends⟩ := Ev.suspend_alone stacked unplaced found alive armed ahead
  refine ⟨x, ?_⟩
  have none : e.s.stacked.get k = [] := by rw [stacked]; cases k <;> rfl
  have keeps : (e.s.unseated v b kd d).evictDown k .stackFull (v.cfg.depth - 1) = e.s.unseated v b kd d :=
    Sched.evictDown_empty k .stackFull _ stacked
  have record (l : StackRec) : e.s.stacked.mod k (List.cons l) = e.s.stacked.set k [l] := by rw [Two.mod, none]
  unfold Ev.push
  rw [groups_one, List.foldl_cons, List.foldl_nil, Ev.pushGroup]
  dsimp only
  rw [if_neg (Nat.one_le_iff_ne_zero.mp depth), List.foldl_cons, List.foldl_nil, suspends]
  dsimp only [Ev.on]
  rw [keeps]
  exact congrArg (fun l => ({ e with s := { e.s.unseated v b kd d with stacked := l }, exam := x } : Ev)) (record _)

/-! ## The pushed booking stays unplaced -/

/-- A tuner holds what a booking cannot share and does not displace, and the other is not usable: steps 1 to 3 fail. -/
theorem Sched.choose_blocked {v : Base} {s : Sched} {k : Tuner} (other : s.usable k.other = false) (auto : Bool)
    (avoid : Option Tuner) {b : Booking}
    (blocks : ∀ w, b.want v = some w → ∃ o ∈ s.occs v k, o.overlaps w = true ∧ o.mux ≠ w.mux ∧
      ∀ c, o.who = .booking c → ¬w.rank < o.rank) : s.choose v auto none avoid b = none := by
  cases want : b.want v with
  | none =>
    unfold Sched.choose
    rw [want]
  | some w =>
    obtain ⟨o, inside, overlaps, apart, worse⟩ := blocks w want
    have meets : o ∈ (s.occs v k).filter fun o => o.overlaps w := List.mem_filter.mpr ⟨inside, overlaps⟩
    have usable {j : Tuner} (h : s.usable j = true) : j = k := (Tuner.eq_or_other k j).resolve_right fun same => by
      rw [same, other] at h
      cases h
    refine ((Sched.choose_spec v s auto avoid b w want).2.2 fun j takes => ?_).2 fun j r yields => ?_
    · obtain ⟨isUsable, -, same, -⟩ := takes
      obtain rfl := usable isUsable
      exact apart (same o meets)
    · obtain ⟨isUsable, -, -, all, -⟩ := yields
      obtain rfl := usable isUsable
      obtain ⟨c, who, -, better, -⟩ := all o (List.mem_filter.mpr ⟨meets, by simpa using apart⟩)
      exact worse c who better

/-- The pushed booking that no tuner takes and that may not seek stays as it is (R107). -/
theorem Ev.placePushed_stays {v : Base} {e : Ev} {b c : Booking} (found : e.s.bk b.handle = some c) (own : c.hosted = false)
    (apart : v.station ≠ .joined) (no : e.s.choose v false none none c = none) : e.placePushed v [b] = e := by
  have still : e.place v Open.retry b.handle = e := by
    rw [Ev.place_afterThree (o := Open.retry) found no]
    simp [Ev.afterThree, own, Base.maySeek_not_joined apart, Open.retry]
  have handles : ((groups [b]).flatMap fun g => ascending g.2) = [b.handle] := rfl
  unfold Ev.placePushed
  rw [handles, List.foldl_cons, List.foldl_nil, Ev.retryOne]
  split
  · exact still
  · rfl

/-! ## The pop of one record -/

theorem work_examines (v : Base) (k : Tuner) (n : Nat) (s : Sched) (retry : Option Bool) (look : Bool) (late : List Nat) :
    work (n + 1) v ⟨s, (⟨false, false⟩ : Two Bool).set k true, retry, look, late⟩ =
      work n v (examine 4 v k ⟨s, ⟨false, false⟩, retry, look, late⟩) := by
  cases k <;> rfl

/-- The first thing to do is the examination of one tuner's stack. -/
theorem Ev.finish_examines {v : Base} {e : Ev} {k : Tuner} (asked : e.exam = (⟨false, false⟩ : Two Bool).set k true)
    (rests : (examine 4 v k { e with exam := ⟨false, false⟩ }).Rests v) : e.finish v =
      (examine 4 v k { e with exam := ⟨false, false⟩ }).asked := by
  obtain ⟨s, exam, retry, look, late⟩ := e
  dsimp only at asked
  subst asked
  exact (work_examines v k 511 s retry look late).trans (work_rests v 507 _ rests)

/-- A booking that resumes on a tuner (R115). -/
def Booking.resumed (k : Tuner) (n : Nat) (b : Booking) : Booking :=
  { b with state := .preparing, plan := .tuner k, prepSeq := n }

/-- The state in which a booking, unplaced alone and on no plan, is PREPARING on a tuner again, its trigger armed. -/
def Sched.reseated (k : Tuner) (h : Nat) (kd : TrigKind) (d : Nat) (s : Sched) : Sched :=
  { (s.modB h fun b => { b with plan := .tuner k }).modB h fun b => { b with state := .preparing, prepSeq := s.prepCtr } with
    prepCtr := s.prepCtr + 1
    triggers := armedWith h kd d s.triggers
    plans := s.plans.set k [⟨h, false⟩]
    unplaced := [] }

theorem Sched.reseated_bk {k : Tuner} {kd : TrigKind} {d : Nat} {s : Sched} {b : Booking}
    (found : s.bk b.handle = some b) (alive : b.state ≠ .ended) :
    (s.reseated k b.handle kd d).bk b.handle = some (b.resumed k s.prepCtr) := by
  have planned : (s.modB b.handle fun b => { b with plan := .tuner k }).bk b.handle = some { b with plan := .tuner k } :=
    Sched.bk_modB_self _ (fun _ => rfl) found alive
  exact Sched.bk_modB_self (s := s.modB b.handle fun b => { b with plan := .tuner k })
    (fun b => { b with state := .preparing, prepSeq := s.prepCtr }) (fun _ => rfl) planned alive

theorem Sched.reseated_bk_other {k : Tuner} {kd : TrigKind} {d h g : Nat} {s : Sched} (other : g ≠ h) :
    (s.reseated k h kd d).bk g = s.bk g :=
  (Sched.bk_modB_other (s.modB h fun b => { b with plan := .tuner k })
      (fun b => { b with state := .preparing, prepSeq := s.prepCtr }) (fun _ => rfl) other).trans
    (Sched.bk_modB_other s (fun b => { b with plan := .tuner k }) (fun _ => rfl) other)

/-- A booking resumes on a tuner that is not LOCKED for it (R115). -/
theorem Ev.resume_alone {v : Base} {e : Ev} {k : Tuner} {b : Booking} {kd : TrigKind} {d : Nat}
    (found : e.s.bk b.handle = some b) (alive : b.state ≠ .ended) (plan : e.s.plans.get k = [])
    (unplaced : e.s.unplaced = [b.handle]) (unlocked : e.s.lockedOn k b.mux = false)
    (armed : (b.resumed k e.s.prepCtr).armed v = some (kd, d)) (ahead : v.clock < d) :
    e.resume v k b.handle = e.on (Sched.reseated k b.handle kd d) := by
  let y := e.s.reseated k b.handle kd d
  have here : y.bk b.handle = some (b.resumed k e.s.prepCtr) := Sched.reseated_bk found alive
  let z : Sched := { y with triggers := e.s.triggers }
  have left : (e.on fun s => (s.leaveUnplaced b.handle).modB b.handle fun b => { b with plan := .tuner k }) =
      e.on fun s => { s.modB b.handle fun b => { b with plan := .tuner k } with unplaced := [] } := by
    refine Ev.on_congr ?_
    unfold Sched.leaveUnplaced
    rw [unplaced]
    simp [Sched.modB]
  have joined : ((e.on fun s => { s.modB b.handle fun b => { b with plan := .tuner k } with unplaced := [] }).on
      fun s => s.joinPlan k ⟨b.handle, false⟩) =
      e.on fun s => { s.modB b.handle fun b => { b with plan := .tuner k } with
        unplaced := [], plans := s.plans.set k [⟨b.handle, false⟩] } := by
    refine Ev.on_congr (e := e) (f := fun s => Sched.joinPlan
      { s.modB b.handle fun b => { b with plan := .tuner k } with unplaced := [] } k ⟨b.handle, false⟩) ?_
    unfold Sched.joinPlan Two.mod
    dsimp only [Sched.modB]
    rw [plan]
    rfl
  have prepares : (e.on fun s => { s.modB b.handle fun b => { b with plan := .tuner k } with
        unplaced := [], plans := s.plans.set k [⟨b.handle, false⟩] }).enterPreparing v b.handle = { e with s := y } :=
    Ev.arm_ahead (e := { e with s := z }) here armed ahead
  unfold Ev.resume
  dsimp only
  rw [left, joined, prepares]
  exact Ev.captureRule_waits (e := { e with s := y }) (b := b.resumed k e.s.prepCtr) here rfl rfl (.inl unlocked)

/-! ## A pop -/

/-- The one record of a stack, of one booking that may resume, pops (R114, R115). -/
theorem examine_pops {v : Base} {e : Ev} {k : Tuner} {b : Booking} {kd : TrigKind} {d : Nat} {r : StackRec}
    (found : e.s.bk b.handle = some b) (alive : b.state ≠ .ended) (plan : e.s.plans.get k = [])
    (unplaced : e.s.unplaced = [b.handle]) (stack : e.s.stacked.get k = [r]) (alone : r.handles = [b.handle])
    (ended : r.causeEnded = true) (usable : e.s.usable k = true) (live : (e.s.tuners.get k).live = none)
    (more : v.clock < b.closeTime v) (unlocked : e.s.lockedOn k b.mux = false)
    (armed : (b.resumed k e.s.prepCtr).armed v = some (kd, d)) (ahead : v.clock < d) (n : Nat) :
    examine (n + 1) v k e = e.on fun s => { s.reseated k b.handle kd d with stacked := s.stacked.set k [] } := by
  have nobody : e.s.occupants k = [] := Sched.occupants_none plan
  have pops : e.s.pops k r = true := by
    unfold Sched.pops
    rw [ended, usable, live, nobody]
    rfl
  let y := e.on fun s => { s with stacked := s.stacked.set k [] }
  have tail : (e.on fun s => { s with stacked := s.stacked.mod k List.tail }) = y :=
    Ev.on_congr (e := e) (f := fun s => { s with stacked := s.stacked.mod k List.tail })
      (g := fun s => { s with stacked := s.stacked.set k [] }) (by rw [Two.mod, stack]; rfl)
  have nobody' : y.s.occupants k = [] := Sched.occupants_none (s := y.s) plan
  have resumes : y.resume v k b.handle = y.on (Sched.reseated k b.handle kd d) :=
    Ev.resume_alone (e := y) found alive plan unplaced unlocked armed ahead
  have one : Pop.one v k r.reason ⟨y, false, []⟩ b.handle = ⟨y.on (Sched.reseated k b.handle kd d), true, []⟩ := by
    unfold Pop.one
    rw [show y.s.bk b.handle = some b from found]
    dsimp only
    rw [if_neg (Nat.not_le.mpr more), nobody', resumes]
    rfl
  have pop : e.pop v k r = ⟨y.on (Sched.reseated k b.handle kd d), true, []⟩ := by
    unfold Ev.pop
    dsimp only
    rw [tail, alone, List.foldl_cons, List.foldl_nil, one]
    rfl
  unfold examine
  rw [stack]
  dsimp only
  rw [pops, pop]
  rfl

end Sys2Proof.Machine
end

section
/-! The loss of a tuner and its return. -/

namespace Sys2Proof.Machine

/-! ## Steps of a loss -/

theorem Sched.occupants_single {s : Sched} {k : Tuner} {p : PlanEntry} {b : Booking} (plan : s.plans.get k = [p])
    (found : s.bk p.handle = some b) (occupies : b.occupies = true) : s.occupants k = [b] := by
  simp [Sched.occupants, Sched.planBookings, plan, found, occupies]

/-- A tuner that serves one local booking, which no other tuner takes, leaves the usable set: the booking is pushed (R75). -/
theorem Ev.leaveUsable_one {v : Base} {e : Ev} {k : Tuner} {m : Bool} {b : Booking} {kd : TrigKind} {d : Nat}
    (plan : e.s.plans.get k = [⟨b.handle, m⟩]) (stacked : e.s.stacked = ⟨[], []⟩)
    (unplaced : e.s.unplaced = []) (found : e.s.bk b.handle = some b) (own : b.cls ≠ .hosted) (occupies : b.occupies = true)
    (live : (e.s.tuners.get k).live = none) (unusable : ∀ j, e.s.usable j = false) (apart : v.station ≠ .joined)
    (depth : 1 ≤ v.cfg.depth) (armed : (b.suspended v).armed v = some (kd, d)) (ahead : v.clock < d) (cause : PushReason) :
    ∃ x, e.leaveUsable v k cause =
      ((({ e with s := e.s.pushed v k cause none b kd d, exam := x } : Ev).on (Sched.release v k)).on
        (Sched.usableNotice k false)) := by
  have alive : b.state ≠ .ended := by
    intro ended
    rw [Booking.occupies, ended] at occupies
    cases occupies
  obtain ⟨x, pushes⟩ := Ev.push_one stacked unplaced found alive armed ahead depth k cause none
  refine ⟨x, ?_⟩
  let y : Ev := { e with s := e.s.pushed v k cause none b kd d, exam := x }
  have clear : (e.on fun s => s.modTuner k fun r => { r with live := none }) = e :=
    Ev.on_congr (g := id) (Sched.modTuner_self (TunerRec.live_none live))
  have served : (e.s.occupants k).filter (fun b => !b.hosted) = [b] := by
    rw [Sched.occupants_single plan found occupies]
    simp [Booking.not_hosted own]
  have emptied : y.s.planBookings k = [] := by
    refine Sched.planBookings_none (s := y.s) ?_
    show (e.s.plans.both _).get k = []
    have filtered : (e.s.plans.both (List.filter fun p => p.handle != b.handle)).get k =
        (e.s.plans.get k).filter fun p => p.handle != b.handle := by cases k <;> rfl
    rw [filtered, plan]
    simp
  have stays : y.placePushed v [b] = y :=
    Ev.placePushed_stays (e := y) (c := b.suspended v) (Sched.unseated_bk (kd := kd) (d := d) found alive) (Booking.not_hosted own) apart
      (Sched.choose_unusable (s := y.s) (Sched.usable_none (unusable .A) (unusable .B)) v _ _ _ _)
  unfold Ev.leaveUsable
  dsimp only
  rw [clear, served, pushes, live]
  dsimp only
  rw [show (e.s.pushed v k cause none b kd d).planBookings k = [] from emptied, List.filter_nil, List.foldl_nil,
    show Ev.placePushed v [b] { e with s := e.s.pushed v k cause none b kd d, exam := x } = y from stays, emptied]
  rfl

/-- The record of a tuner that has been lost (R71, R75). -/
def TunerRec.lost (v : Base) (r : TunerRec) : TunerRec :=
  { state := .failed, captures := [], live := none, directive := ⟨(r.directive.serial + 1) % 65536, none, none, []⟩,
    unread := true, tuneTimer := none, recheck := some (v.now + v.cfg.recheck * unit), marks := { r.marks with signal := true } }

/-- The record with the marks of FAILED, before it is released. -/
def TunerRec.failing (v : Base) (r : TunerRec) : TunerRec :=
  { r with
    state := .failed, tuneTimer := none, recheck := some (v.now + v.cfg.recheck * unit), marks := { r.marks with signal := true } }

/-- A FAILED tuner with nothing left on it is released from its multiplex. -/
theorem Sched.release_lost {v : Base} {s : Sched} {k : Tuner} {r : TunerRec} (fitted : r.marks.fitted = false)
    (plan : s.plans.get k = []) (record : s.tuners.get k = { r.failing v with captures := [], live := none })
    (due : r.directive.mux ≠ none) : s.release v k = { s with tuners := s.tuners.set k (r.lost v) } := by
  have live : (s.tuners.get k).live = none := by rw [record]
  have stale : s.directiveStale k = true := by
    rw [← Bool.not_eq_false, Sched.directiveStale_iff, Sched.neededMux_free plan live, record]
    rintro ⟨same, -⟩
    exact due same
  have isFitted : (s.tuners.get k).marks.fitted = false := by rw [record]; exact fitted
  have issued : (s.tuners.get k).issue v none = r.lost v := by
    rw [TunerRec.issue_failed none (by rw [record]; rfl), record]
    rfl
  unfold Sched.release
  rw [isFitted, if_neg nofun, Sched.revise_due stale, Sched.neededMux_free plan live]
  unfold Sched.modTuner Two.mod
  rw [issued]

/-- No candidate but the other tuner is left beside a FAILED one. -/
theorem Sched.candidates_failed {v : Base} {s : Sched} {k j : Tuner} (failed : (s.tuners.get k).state = .failed)
    (candidate : j ∈ s.candidates v) : j = k.other := by
  refine (Tuner.eq_or_other k j).resolve_left ?_
  rintro rfl
  have alive := (List.mem_filter.mp candidate).2
  rw [failed] at alive
  cases alive

theorem Sched.candidates_length (v : Base) (s : Sched) : (s.candidates v).length ≤ 2 := by
  refine Nat.le_trans (List.length_filter_le _ _) ?_
  unfold Base.fittedTuners
  split
  · exact Nat.le_succ 1
  · exact Nat.le_refl 2

/-- The budget choice after a loss marks nothing where the other tuner has no mark or is no candidate. -/
theorem Sched.budgetMarks_failed {v : Base} {s : Sched} {k : Tuner} (failed : (s.tuners.get k).state = .failed)
    (other : (s.budget = 2 ∧ (s.tuners.get k.other).marks.budget = false) ∨ (s.tuners.get k.other).state = .failed) :
    s.budgetMarks v = s := by
  have only {j : Tuner} (candidate : j ∈ s.candidates v) := Sched.candidates_failed failed candidate
  rcases other with ⟨budget, clear⟩ | gone
  · refine Sched.budgetMarks_all (by rw [budget]; exact s.candidates_length v) fun j candidate => ?_
    rw [only candidate]
    exact clear
  · have none : s.candidates v = [] := by
      rw [List.eq_nil_iff_forall_not_mem]
      intro j candidate
      have same := Sched.candidates_failed gone candidate
      rw [only candidate] at same
      cases k <;> cases same
    exact Sched.budgetMarks_all (by rw [none]; exact Nat.zero_le _) fun j candidate => by
      rw [none] at candidate
      cases candidate

/-! ## A tuner fails -/

/-- The USABLE notice of a tuner that is lost (R77). -/
def TunerRec.lostNotice (k : Tuner) (lost : Bool) (r : TunerRec) : Notice :=
  .usable k false { r.marks with signal := true } .failed lost

theorem Sched.usableNotice_lost {v : Base} {s : Sched} {k : Tuner} {r : TunerRec}
    (record : s.tuners.get k = r.lost v) (room : s.Room 1) (lost : Bool) :
    s.usableNotice k lost = { s with notices := s.notices ++ [r.lostNotice k lost] } := by
  have few := room.1
  refine (Sched.notice_room _ (by omega) room.2).trans ?_
  rw [record]
  simp [TunerRec.lost, TunerRec.lostNotice, Marks.none]

/-- The state in which a tuner is FAILED, released and told of. -/
def Sched.lost (v : Base) (k : Tuner) (r : TunerRec) (lost : Bool) (s : Sched) : Sched :=
  { s with tuners := s.tuners.set k (r.lost v), notices := s.notices ++ [r.lostNotice k lost] }

/-- The release, the notice and the budget choice of a loss. -/
theorem Ev.releases_lost {v : Base} {e : Ev} {k : Tuner} {r : TunerRec} (fitted : r.marks.fitted = false)
    (plan : e.s.plans.get k = []) (record : e.s.tuners.get k = { r.failing v with captures := [], live := none })
    (due : r.directive.mux ≠ none) (room : e.s.Room 1)
    (other : (e.s.budget = 2 ∧ (e.s.tuners.get k.other).marks.budget = false) ∨ (e.s.tuners.get k.other).state = .failed)
    (lost : Bool) {z : Ev} (z_eq : z = (e.on (Sched.release v k)).on (Sched.usableNotice k lost)) :
    z.choose v z.s.usable = e.on (Sched.lost v k r lost) := by
  let y : Sched := { e.s with tuners := e.s.tuners.set k (r.lost v) }
  have released : e.on (Sched.release v k) = e.on fun s => { s with tuners := s.tuners.set k (r.lost v) } :=
    Ev.on_congr (Sched.release_lost fitted plan record due)
  have told : z = e.on (Sched.lost v k r lost) := by
    rw [z_eq, released]
    exact Ev.on_congr (e := { e with s := y }) (g := fun s => { s with notices := s.notices ++ [r.lostNotice k lost] })
      (Sched.usableNotice_lost (s := y) (Two.get_set _ k _) room lost)
  have failed : ((e.s.lost v k r lost).tuners.get k).state = .failed :=
    congrArg TunerRec.state (Two.get_set e.s.tuners k (r.lost v))
  have same := Two.get_set_other e.s.tuners k (r.lost v)
  rw [told]
  refine Ev.choose_same (Sched.budgetMarks_failed failed ?_)
  show (_ ∧ ((e.s.tuners.set k (r.lost v)).get k.other).marks.budget = false) ∨ _
  rw [same]
  exact other.imp_right fun h => (congrArg TunerRec.state same).trans h

/-- The tuner's record takes the marks of FAILED. -/
theorem Sched.failing_get {v : Base} {s : Sched} {k : Tuner} : (s.modTuner k (TunerRec.failing v)).tuners.get k =
    (s.tuners.get k).failing v := by
  rw [Sched.modTuner_tuners, Two.get_mod]

/-- A usable tuner that holds nothing but a LIVE hold fails (R71, R75). -/
theorem Ev.fail_held {v : Base} {e : Ev} {k : Tuner} {m : Live} (usable : e.s.usable k = true) (plan : e.s.plans.get k = [])
    (live : (e.s.tuners.get k).live = some m) (captures : (e.s.tuners.get k).captures = []) (settled : e.s.Settled)
    (room : e.s.Room 1) (budget : e.s.budget = 2) (clear : (e.s.tuners.get k.other).marks.budget = false) :
    e.fail v k = e.on (Sched.lost v k (e.s.tuners.get k) true) := by
  let r := e.s.tuners.get k
  let x := e.on fun s => s.modTuner k (TunerRec.failing v)
  let y := x.on fun s => s.modTuner k fun r => { r with live := none }
  have fitted : r.marks.fitted = false := by rw [Marks.eq_of_none usable]
  have recordX : x.s.tuners.get k = r.failing v := Sched.failing_get
  have record : y.s.tuners.get k = { r.failing v with captures := [], live := none } := by
    show ((x.s.tuners.mod k fun r => { r with live := none }).get k) = _
    rw [Two.get_mod, recordX]
    simp [TunerRec.failing, r, captures]
  have needed := ((e.s.directiveStale_iff k).mp ((Sched.settled_iff _).mp settled k)).1
  have due : r.directive.mux ≠ none := by
    rw [show r.directive.mux = _ from needed, Sched.neededMux_held live]
    exact nofun
  have same : y.s.tuners.get k.other = e.s.tuners.get k.other :=
    (Sched.modTuner_get_other x.s k _).trans (Sched.modTuner_get_other e.s k _)
  have leaves := Ev.leaveUsable_unplanned (e := x) plan v .signal
  have held : (x.s.tuners.get k).live.isSome = true := by
    rw [recordX]
    exact congrArg Option.isSome live
  rw [held] at leaves
  have chosen := Ev.releases_lost (e := y) fitted plan record due room (.inl ⟨budget, by rw [same]; exact clear⟩) true leaves
  unfold Ev.fail
  dsimp only
  rw [usable, if_pos rfl]
  refine chosen.trans (Ev.on_congr (e := e) (f := fun s => Sched.lost v k r true ((s.modTuner k (TunerRec.failing v)).modTuner k _)) ?_)
  unfold Sched.lost Sched.modTuner Two.mod
  dsimp only
  rw [Two.set_set, Two.set_set]

theorem Two.set_congr {α : Type} {x y : Two α} {k : Tuner} (other : y.get k.other = x.get k.other) (a : α) :
    y.set k a = x.set k a := by
  cases k
  · exact congrArg (Two.mk _) other
  · exact congrArg (Two.mk · _) other

theorem Two.both_get {α : Type} (x : Two α) (f : α → α) (k : Tuner) : (x.both f).get k = f (x.get k) := by cases k <;> rfl

/-- A change that concerns one tuner leaves the directives settled where its own says what stands. -/
theorem Sched.Settled.split {s y : Sched} (settled : s.Settled) (k : Tuner) (here : y.directiveStale k = false)
    (other : y.tuners.get k.other = s.tuners.get k.other)
    (keys : (y.occupants k.other).map Booking.tuneKey = (s.occupants k.other).map Booking.tuneKey) : y.Settled := by
  rw [Sched.settled_iff]
  intro j
  rcases Tuner.eq_or_other k j with rfl | rfl
  · exact here
  · exact (Sched.directiveStale_congr (by rw [other]) (by rw [other]) (by rw [other]) keys).trans
      ((Sched.settled_iff s).mp settled _)

/-- A FAILED tuner that has been released says what stands. -/
theorem Sched.lost_current {v : Base} {s : Sched} {k : Tuner} {r : TunerRec} (plan : s.plans.get k = [])
    (record : s.tuners.get k = r.lost v) : s.directiveStale k = false := by
  rw [Sched.directiveStale_iff, Sched.neededMux_free plan (by rw [record]; rfl), record]
  exact ⟨rfl, rfl, rfl⟩

/-- A usable tuner that serves one local booking alone fails (R71, R75, R111). -/
theorem Ev.fail_serving {v : Base} {e : Ev} {k : Tuner} {m : Bool} {b : Booking} {kd : TrigKind} {d : Nat}
    (usable : e.s.usable k = true) (plan : e.s.plans.get k = [⟨b.handle, m⟩]) (stacked : e.s.stacked = ⟨[], []⟩)
    (unplaced : e.s.unplaced = []) (found : e.s.bk b.handle = some b) (own : b.cls ≠ .hosted) (occupies : b.occupies = true)
    (live : (e.s.tuners.get k).live = none) (unusable : e.s.usable k.other = false)
    (failed : (e.s.tuners.get k.other).state = .failed) (settled : e.s.Settled) (room : e.s.Room 1)
    (captures : ∀ y ∈ (e.s.tuners.get k).captures, y.handle = b.handle) (apart : v.station ≠ .joined)
    (depth : 1 ≤ v.cfg.depth) (armed : (b.suspended v).armed v = some (kd, d)) (ahead : v.clock < d) :
    ∃ x, e.fail v k = ({ e with s := e.s.pushed v k .signal none b kd d, exam := x } : Ev).on
      (Sched.lost v k (e.s.tuners.get k) false) := by
  let r := e.s.tuners.get k
  let x := e.on fun s => s.modTuner k (TunerRec.failing v)
  have fitted : r.marks.fitted = false := by rw [Marks.eq_of_none usable]
  have recordX : x.s.tuners.get k = r.failing v := Sched.failing_get
  have sameX : x.s.tuners.get k.other = e.s.tuners.get k.other := Sched.modTuner_get_other e.s k _
  have unusableX (j : Tuner) : x.s.usable j = false := by
    unfold Sched.usable
    rcases Tuner.eq_or_other k j with rfl | rfl
    · rw [recordX]
      simp [TunerRec.failing, Marks.none]
    · rw [sameX]
      exact unusable
  obtain ⟨w, leaves⟩ := Ev.leaveUsable_one (e := x) plan stacked unplaced found own occupies
    ((congrArg TunerRec.live recordX).trans live) unusableX apart depth armed ahead .signal
  refine ⟨w, ?_⟩
  let y : Ev := { x with s := x.s.pushed v k .signal none b kd d, exam := w }
  have gone : r.captures.filter (fun c => c.handle != b.handle) = [] := by
    rw [List.filter_eq_nil_iff]
    intro c inside
    simp [captures c inside]
  have got (j : Tuner) : y.s.tuners.get j = { x.s.tuners.get j with
      captures := (x.s.tuners.get j).captures.filter fun c => c.handle != b.handle } := Sched.leaveCapture_get x.s b.handle j
  have record : y.s.tuners.get k = { r.failing v with captures := [], live := none } := by
    rw [got, recordX]
    show ({ r.failing v with captures := r.captures.filter _ } : TunerRec) = _
    rw [gone, ← (show (r.failing v).live = none from live)]
  have planY : y.s.plans.get k = [] := by
    show (e.s.plans.both _).get k = []
    rw [Two.both_get, plan]
    simp
  have needed := ((e.s.directiveStale_iff k).mp ((Sched.settled_iff _).mp settled k)).1
  have due : r.directive.mux ≠ none := by
    have tuned : e.s.neededMux k = some b.mux := by
      unfold Sched.neededMux Sched.bookingMux
      rw [live, Sched.occupants_single plan found occupies]
      rfl
    rw [show r.directive.mux = _ from needed, tuned]
    exact nofun
  have failedY : (y.s.tuners.get k.other).state = .failed := by
    rw [got, sameX]
    exact failed
  have chosen := Ev.releases_lost (e := y) fitted planY record due room (.inr failedY) false leaves
  unfold Ev.fail
  dsimp only
  rw [usable, if_pos rfl]
  refine chosen.trans (congrArg (fun t => ({ e with s := { e.s.pushed v k .signal none b kd d with
    tuners := t, notices := e.s.notices ++ [r.lostNotice k false] }, exam := w } : Ev)) (Two.set_congr ?_ _))
  show y.s.tuners.get k.other = ((e.s.leaveCapture b.handle).tuners).get k.other
  rw [got, sameX, Sched.leaveCapture_get]

theorem Sched.still_standing {s : Sched} {k : Tuner} {r : StackRec} (stack : s.stacked.get k = [r]) (stands : r.causeEnded = false) :
    s.Still k := by
  intro q rest same
  rw [stack] at same
  cases same
  unfold Sched.pops
  rw [stands]
  rfl

end Sys2Proof.Machine
end

section
/-! The return of a tuner, and the settlement of its loss and return. -/

namespace Sys2Proof.Machine

/-! ## A tuner enters the usable set -/

/-- The record of a tuner that is back from FAILED (R72). -/
def TunerRec.back (r : TunerRec) : TunerRec := { r with state := .idle, recheck := none, marks := { r.marks with signal := false } }

/-- The one tuner that a choice without a change of marks lets in. -/
theorem Ev.choose_enters {v : Base} {e : Ev} {k : Tuner} {before : Tuner → Bool} (same : e.s.budgetMarks v = e.s)
    (was : before k = false) (usable : e.s.usable k = true) (other : before k.other = e.s.usable k.other) :
    e.choose v before = e.enterUsable v [k] := by
  have chosen : e.on (Sched.budgetMarks v) = e := Ev.on_congr (g := id) same
  have leave : ([Tuner.A, .B].filter fun t => before t && !e.s.usable t) = [] := by
    rw [List.filter_eq_nil_iff]
    intro j _
    rcases Tuner.eq_or_other k j with rfl | rfl
    · simp [was]
    · simp [other]
  have enter : ([Tuner.A, .B].filter fun t => !before t && e.s.usable t) = [k] := by
    cases k
    · simp [was, usable, show before .B = e.s.usable .B from other]
    · simp [was, usable, show before .A = e.s.usable .A from other]
  unfold Ev.choose
  dsimp only
  rw [chosen, leave, enter]
  rfl

theorem Sched.budgetMarks_returned {v : Base} {s : Sched} {k : Tuner} (clear : (s.tuners.get k).marks.budget = false)
    (other : (s.budget = 2 ∧ (s.tuners.get k.other).marks.budget = false) ∨
      (1 ≤ s.budget ∧ (s.tuners.get k.other).state = .failed)) : s.budgetMarks v = s := by
  rcases other with ⟨budget, clearOther⟩ | ⟨budget, gone⟩
  · refine Sched.budgetMarks_all (by rw [budget]; exact s.candidates_length v) fun j _ => ?_
    rcases Tuner.eq_or_other k j with rfl | rfl
    · exact clear
    · exact clearOther
  · have only {j : Tuner} (candidate : j ∈ s.candidates v) : j = k := by
      have same := Sched.candidates_failed gone candidate
      rwa [show k.other.other = k by cases k <;> rfl] at same
    have few : (s.candidates v).length ≤ 1 := by
      have distinct : (s.candidates v).Nodup := List.Pairwise.filter _ (by unfold Base.fittedTuners; split <;> decide)
      apply Classical.byContradiction
      intro many
      obtain ⟨i, j, rest, list⟩ : ∃ i j rest, s.candidates v = i :: j :: rest := by
        match list : s.candidates v with
        | [] => rw [list] at many; simp at many
        | [i] => rw [list] at many; simp at many
        | i :: j :: rest => exact ⟨i, j, rest, rfl⟩
      rw [list] at distinct
      have hi := only (j := i) (by rw [list]; simp)
      have hj := only (j := j) (by rw [list]; simp)
      simp [hi, hj] at distinct
    exact Sched.budgetMarks_all (Nat.le_trans few budget) fun j candidate => by rw [only candidate]; exact clear

/-- The state in which a tuner is IDLE again and told of. -/
def Sched.returned (k : Tuner) (s : Sched) : Sched :=
  { s with
    tuners := s.tuners.set k (s.tuners.get k).back
    notices := s.notices ++ [.usable k true ⟨false, false, false⟩ .idle false] }

/-- What the return of a tuner with the SIGNAL mark alone comes to before its examination (R76). -/
theorem Ev.recheck_enters {v : Base} {s : Sched} {k : Tuner} (marks : (s.tuners.get k).marks = ⟨false, true, false⟩)
    (other : (s.budget = 2 ∧ (s.tuners.get k.other).marks.budget = false) ∨
      (1 ≤ s.budget ∧ (s.tuners.get k.other).state = .failed)) :
    (Ev.of s).recheck v k = (Ev.of { s with tuners := s.tuners.set k (s.tuners.get k).back }).enterUsable v [k] := by
  let x : Sched := { s with tuners := s.tuners.set k (s.tuners.get k).back }
  have here : x.tuners.get k = (s.tuners.get k).back := Two.get_set _ k _
  have same : x.tuners.get k.other = s.tuners.get k.other := Two.get_set_other _ k _
  have unmarked : (x.tuners.get k).marks = ⟨false, false, false⟩ := by
    rw [here, TunerRec.back, marks]
  have chosen : x.budgetMarks v = x := Sched.budgetMarks_returned (by rw [unmarked]) (by rw [same]; exact other)
  refine Ev.choose_enters (e := Ev.of x) (before := s.usable) chosen ?_ ?_ ?_
  · unfold Sched.usable
    rw [marks]
    rfl
  · show (x.tuners.get k).marks.none = true
    rw [unmarked]
    rfl
  · show (s.tuners.get k.other).marks.none = (x.tuners.get k.other).marks.none
    rw [same]

theorem Sched.usableNotice_back {s : Sched} {k : Tuner} {r : TunerRec} (marks : r.marks = ⟨false, true, false⟩)
    (record : s.tuners.get k = r.back) (room : s.Room 1) : s.usableNotice k false =
      { s with notices := s.notices ++ [.usable k true ⟨false, false, false⟩ .idle false] } := by
  have few := room.1
  refine (Sched.notice_room _ (by omega) room.2).trans ?_
  rw [record, TunerRec.back, marks]
  rfl

/-- A tuner returns where nothing waits for it (R72, R76). -/
theorem Ev.recheck_bare {v : Base} {s : Sched} {k : Tuner} (marks : (s.tuners.get k).marks = ⟨false, true, false⟩)
    (other : (s.budget = 2 ∧ (s.tuners.get k.other).marks.budget = false) ∨
      (1 ≤ s.budget ∧ (s.tuners.get k.other).state = .failed)) (bare : s.Bare) (room : s.Room 1) :
    (Ev.of s).recheck v k = Ev.of (s.returned k) := by
  obtain ⟨plans, stacked, unplaced⟩ := bare
  let x : Sched := { s with tuners := s.tuners.set k (s.tuners.get k).back }
  let e := ((Ev.of x).endLimits k).askRetry false
  have empty : e.s = x := congrArg (fun l => ({ x with stacked := l } : Sched)) (Two.mod_self (by
    show List.map _ (s.stacked.get k) = s.stacked.get k
    rw [stacked]
    cases k <;> rfl))
  have rests : e.Rests v := by
    refine ⟨fun _ => ?_, fun _ => ?_, fun keep _ => ?_, nofun⟩
    · rw [empty]
      exact Sched.still_of_empty (congrArg Two.a stacked)
    · rw [empty]
      exact Sched.still_of_empty (congrArg Two.b stacked)
    · rw [empty]
      exact Sched.noRetry_of_empty keep unplaced
  have done : e.asked = Ev.of x := congrArg Ev.of empty
  rw [Ev.recheck_enters marks other]
  show (e.finish v).on (Sched.usableNotice k false) = _
  rw [Ev.finish_rests rests, done]
  exact congrArg Ev.of (Sched.usableNotice_back marks (Two.get_set _ k _) room)

/-- A tuner returns and pops the one record of its stack, of one booking (R76, R114, R115). -/
theorem Ev.recheck_pops {v : Base} {s : Sched} {k : Tuner} {b : Booking} {kd : TrigKind} {d u : Nat}
    (marks : (s.tuners.get k).marks = ⟨false, true, false⟩) (budget : 1 ≤ s.budget)
    (other : (s.tuners.get k.other).state = .failed) (room : s.Room 1) (plans : s.plans = ⟨[], []⟩)
    (stack : s.stacked.get k = [⟨[b.handle], b.mux, u, .signal, none, false⟩]) (otherStack : s.stacked.get k.other = [])
    (unplaced : s.unplaced = [b.handle]) (found : s.bk b.handle = some b) (alive : b.state ≠ .ended)
    (live : (s.tuners.get k).live = none) (more : v.clock < b.closeTime v)
    (armed : (b.resumed k s.prepCtr).armed v = some (kd, d)) (ahead : v.clock < d) :
    (Ev.of s).recheck v k = Ev.of (({ s.reseated k b.handle kd d with stacked := ⟨[], []⟩ } : Sched).returned k) := by
  let x : Sched := { s with tuners := s.tuners.set k (s.tuners.get k).back }
  let r : StackRec := ⟨[b.handle], b.mux, u, .signal, none, true⟩
  let y : Sched := { x with stacked := s.stacked.set k [r] }
  have here : x.tuners.get k = (s.tuners.get k).back := Two.get_set _ k _
  have limits : (Ev.of x).endLimits k = { Ev.of y with exam := (⟨false, false⟩ : Two Bool).set k true } := by
    have stacked : s.stacked.mod k (List.map fun r =>
        if (r.reason == .limit || r.reason == .signal || r.reason == .live) then { r with causeEnded := true } else r) =
        s.stacked.set k [r] := by
      rw [Two.mod, stack]
      rfl
    exact congrArg (fun l => ({ Ev.of { x with stacked := l } with exam := (⟨false, false⟩ : Two Bool).set k true } : Ev)) stacked
  let e := ((Ev.of x).endLimits k).askRetry false
  have e_eq : e = { Ev.of y with exam := (⟨false, false⟩ : Two Bool).set k true, retry := some false } :=
    congrArg (fun e : Ev => e.askRetry false) limits
  let z : Sched := { y.reseated k b.handle kd d with stacked := y.stacked.set k [] }
  have pops : examine 4 v k { e with exam := ⟨false, false⟩ } = { Ev.of z with retry := some false } := by
    rw [e_eq]
    refine examine_pops (e := { Ev.of y with retry := some false }) (r := r) found alive ?_ unplaced (Two.get_set _ k _) rfl rfl ?_
      ?_ more ?_ armed ahead 3
    · show s.plans.get k = []
      rw [plans]
      cases k <;> rfl
    · show (x.tuners.get k).marks.none = true
      rw [here, TunerRec.back, marks]
      rfl
    · show (x.tuners.get k).live = none
      rw [here]
      exact live
    · rw [Bool.eq_false_iff, Ne, Sched.lockedOn_iff]
      rintro ⟨locked, -⟩
      have idle : (x.tuners.get k).state = .idle := congrArg TunerRec.state here
      exact absurd (idle.symm.trans locked) nofun
  have rests : ({ Ev.of z with retry := some false } : Ev).Rests v :=
    Ev.rests_unexamined rfl (fun keep _ => Sched.noRetry_of_empty keep rfl) nofun
  have finishes : e.finish v = Ev.of z := by
    rw [Ev.finish_examines (k := k) (by rw [e_eq]) (by rw [pops]; exact rests), pops]
    rfl
  have cleared : z.stacked = ⟨[], []⟩ := by
    show (s.stacked.set k [r]).set k [] = _
    rw [Two.set_set]
    cases k
    · exact congrArg (Two.mk _) otherStack
    · exact congrArg (Two.mk · _) otherStack
  have z_eq : z = { s.reseated k b.handle kd d with stacked := ⟨[], []⟩, tuners := s.tuners.set k (s.tuners.get k).back } :=
    congrArg (fun l => ({ s.reseated k b.handle kd d with stacked := l, tuners := s.tuners.set k (s.tuners.get k).back } : Sched))
      cleared
  rw [Ev.recheck_enters marks (.inr ⟨budget, other⟩)]
  show (e.finish v).on (Sched.usableNotice k false) = _
  rw [finishes, z_eq]
  exact congrArg Ev.of (Sched.usableNotice_back marks (Two.get_set _ k _) room)

/-! ## A tuner is sent to a multiplex -/

/-- The record of a tuner that a directive of another multiplex sends tuning (R66). -/
def TunerRec.tuned (v : Base) (mux : Nat) (r : TunerRec) : TunerRec :=
  { r.directed (some mux) with
    state := .tuning, tuneTimer := some (v.now + v.cfg.tuneTimeout * unit, (r.directive.serial + 1) % 65536) }

theorem Sched.reviseAll_tunes {v : Base} {s y : Sched} {k : Tuner} {mux : Nat} (settled : s.Settled)
    (alive : (y.tuners.get k).state ≠ .failed) (needed : y.neededMux k = some mux)
    (moves : (y.tuners.get k).directive.mux ≠ some mux) (other : y.tuners.get k.other = s.tuners.get k.other)
    (keys : (y.occupants k.other).map Booking.tuneKey = (s.occupants k.other).map Booking.tuneKey) :
    y.reviseAll v = { y with tuners := s.tuners.set k ((y.tuners.get k).tuned v mux) } := by
  have due : y.directiveStale k = true := by
    rw [← Bool.not_eq_false, Sched.directiveStale_iff, needed]
    rintro ⟨same, -⟩
    exact moves same
  have current : y.directiveStale k.other = false :=
    (Sched.directiveStale_congr (by rw [other]) (by rw [other]) (by rw [other]) keys).trans ((Sched.settled_iff s).mp settled _)
  rw [Sched.reviseAll_one due current, needed]
  unfold Sched.modTuner
  rw [Two.mod_eq_set other, TunerRec.issue_tunes alive moves]
  rfl

theorem Sched.neededMux_single {s : Sched} {k : Tuner} {p : PlanEntry} {b : Booking} (plan : s.plans.get k = [p])
    (found : s.bk p.handle = some b) (occupies : b.occupies = true) (live : (s.tuners.get k).live = none) :
    s.neededMux k = some b.mux := by
  unfold Sched.neededMux Sched.bookingMux
  rw [live, Sched.occupants_single plan found occupies]
  rfl

end Sys2Proof.Machine
end

section
/-! The loss and return of a tuner, settled. -/

namespace Sys2Proof.Machine

theorem Ev.report_fails {v : Base} {k : Tuner} {e : Ev} (state : (e.s.tuners.get k).state = .tuning ∨
    (e.s.tuners.get k).state = .unknown ∨ (e.s.tuners.get k).state = .locked) : e.report v k 1 = e.fail v k := by
  unfold Ev.report
  rcases state with h | h | h <;> rw [h] <;> rfl

theorem Two.get_of_empty {α : Type} {x : Two (List α)} (empty : x = ⟨[], []⟩) (k : Tuner) : x.get k = [] := by
  rw [empty]
  cases k <;> rfl

/-- The bytes of a report that finds its tuner lost. -/
theorem Sched.lost_answer {s : Sched} (v : Base) (k : Tuner) (r : TunerRec) (lost : Bool) :
    yesNo false ++ byte ((s.lost v k r lost).tuners.get k).state.code = [0, 3] := by
  have state : ((s.lost v k r lost).tuners.get k).state = .failed := congrArg TunerRec.state (Two.get_set _ k (r.lost v))
  rw [state]
  decide

/-- The tune timer that is due is that of the tuner's present directive (R70). -/
theorem State.tuneDue_of {n due : Nat} {s : State} (range : n ≤ 1)
    (state : (s.sch.tuners.get (Tuner.ofIndex n)).state = .tuning ∨ (s.sch.tuners.get (Tuner.ofIndex n)).state = .unknown)
    (timer : (s.sch.tuners.get (Tuner.ofIndex n)).tuneTimer =
      some (due, (s.sch.tuners.get (Tuner.ofIndex n)).directive.serial)) : State.tuneDue n s = some due := by
  unfold State.tuneDue
  dsimp only
  rw [if_neg (Nat.not_lt.mpr range), if_pos state, timer]
  exact if_pos rfl

/-- A tuner that serves live viewing is lost (R71, R75). -/
theorem tunerLost_viewing (n : Nat) (m : Live) (s : State) (bare : s.sch.Bare) (settled : s.sch.Settled) (room : s.sch.Room 1)
    (budget : s.sch.budget = 2) (usable : s.sch.usable (Tuner.ofIndex n) = true)
    (live : (s.sch.tuners.get (Tuner.ofIndex n)).live = some m) (captures : (s.sch.tuners.get (Tuner.ofIndex n)).captures = [])
    (clear : (s.sch.tuners.get (Tuner.ofIndex n).other).marks.budget = false) (v : Base) :
    let x := s.sch.lost v (Tuner.ofIndex n) (s.sch.tuners.get (Tuner.ofIndex n)) true
    (Ev.of s.sch).fail v (Tuner.ofIndex n) = Ev.of x ∧ x.Settled := by
  intro x
  have plan (j : Tuner) : s.sch.plans.get j = [] := Two.get_of_empty bare.1 j
  exact ⟨Ev.fail_held (e := Ev.of s.sch) usable (plan _) live captures settled room budget clear,
    settled.split (y := x) (Tuner.ofIndex n) (Sched.lost_current (plan _) (Two.get_set _ _ _)) (Two.get_set_other _ _ _) rfl⟩

/-- Plans that hold one booking alone, without it. -/
theorem Sched.plans_cleared {s : Sched} {k : Tuner} {h : Nat} {m : Bool} (plan : s.plans.get k = [⟨h, m⟩])
    (otherPlan : s.plans.get k.other = []) : s.plans.both (List.filter fun p => p.handle != h) = ⟨[], []⟩ := by
  have gone (j : Tuner) : (s.plans.both (List.filter fun p => p.handle != h)).get j = [] := by
    rw [Two.both_get]
    rcases Tuner.eq_or_other k j with rfl | rfl
    · rw [plan]
      simp
    · rw [otherPlan]
      rfl
  show (⟨(s.plans.both _).get .A, (s.plans.both _).get .B⟩ : Two (List PlanEntry)) = _
  rw [gone, gone]

/-- A tuner that serves one local booking is lost: nothing more follows, and the directives say what stands. -/
theorem tunerLost_serving {v : Base} {s : Sched} {k : Tuner} {b : Booking} {kd : TrigKind} {d : Nat} {m : Bool} (settled : s.Settled)
    (plan : s.plans.get k = [⟨b.handle, m⟩]) (otherPlan : s.plans.get k.other = []) (stacked : s.stacked = ⟨[], []⟩)
    (elsewhere : ∀ y ∈ (s.tuners.get k.other).captures, y.handle ≠ b.handle) (x : Two Bool) :
    let y := (s.pushed v k .signal none b kd d).lost v k (s.tuners.get k) false
    ({ Ev.of y with exam := x } : Ev).Rests v ∧ y.Settled ∧
      y = { s with
        bookings := y.bookings
        triggers := armedWith b.handle kd d s.triggers
        plans := ⟨[], []⟩
        unplaced := [b.handle]
        stacked := s.stacked.set k [⟨[b.handle], b.mux, v.clock, .signal, none, false⟩]
        tuners := s.tuners.set k ((s.tuners.get k).lost v)
        notices := s.notices ++ [(s.tuners.get k).lostNotice k false] } := by
  intro y
  have plans : y.plans = ⟨[], []⟩ := Sched.plans_cleared plan otherPlan
  have stack : y.stacked.get k = [⟨[b.handle], b.mux, v.clock, .signal, none, false⟩] := Two.get_set _ k _
  have otherStack : y.stacked.get k.other = [] := (Two.get_set_other _ k _).trans (Two.get_of_empty stacked _)
  have still (j : Tuner) : y.Still j := by
    rcases Tuner.eq_or_other k j with rfl | rfl
    · exact Sched.still_standing stack rfl
    · exact Sched.still_of_empty otherStack
  have kept : (s.leaveCapture b.handle).tuners.get k.other = s.tuners.get k.other := by
    rw [Sched.leaveCapture_get, List.filter_eq_self.mpr fun c hc => by simpa using elsewhere c hc]
  have other : y.tuners.get k.other = s.tuners.get k.other := (Two.get_set_other _ k _).trans kept
  refine ⟨⟨fun _ => still .A, fun _ => still .B, nofun, nofun⟩, ?_, ?_⟩
  · refine settled.split (y := y) k (Sched.lost_current (Two.get_of_empty plans k) (Two.get_set _ k _)) other ?_
    rw [Sched.occupants_none (Two.get_of_empty plans _), Sched.occupants_none otherPlan]
  · have tuners : y.tuners = s.tuners.set k ((s.tuners.get k).lost v) := Two.set_congr kept _
    exact congrArg (fun p : Two (List PlanEntry) × Two TunerRec => ({ y with plans := p.1, tuners := p.2 } : Sched))
      (Prod.ext (x := (y.plans, y.tuners)) (y := (⟨[], []⟩, _)) plans tuners)

/-- Settles O30: the loss of a tuner that serves live viewing, its return, the loss of one that serves a booking, and the
return that lets the booking resume. -/
theorem lossAndReturnOfATuner : Obligations.LossAndReturnOfATuner := by
  refine ⟨?_, ?_, ?_, ?_⟩
  · intro n m due s k r failed after range fitted _ bare settled room budget usable live captures _ clear
    have lost := tunerLost_viewing n m s bare settled room budget usable live captures clear
    refine ⟨fun takes state => ?_, fun high state timer => ?_⟩
    · obtain ⟨fails, settledX⟩ := lost s.base
      have effect := (Ev.report_fails (v := s.base) (k := Tuner.ofIndex n) (e := Ev.of s.sch) state).trans fails
      obtain ⟨t, answered, base, sch⟩ := takes.answersSettled rfl (exec_tunerReport n r.directive.serial 1 s)
        (State.tunerReport_current range (Nat.le_refl 1) fitted rfl) (effect ▸ Ev.rests_quiet rfl rfl rfl) (effect ▸ rfl)
        (effect ▸ settledX)
      rw [effect] at answered sch
      exact ⟨t, (Sched.lost_answer s.base (Tuner.ofIndex n) r true) ▸ answered, base, sch⟩
    · obtain ⟨t, happened, base, sch⟩ := State.happened_event (f := fun s e => e.fail s.base (Tuner.ofIndex n))
        (exec_tuneTimerExpiry n s) high (State.tuneDue_of range state timer)
      obtain ⟨fails, settledX⟩ := lost (s.countTo due).base
      refine ⟨t, happened, base, sch.trans ?_⟩
      rw [base, Sched.event, fails]
      refine (Ev.settle_settled (Ev.rests_quiet rfl rfl rfl) rfl settledX).trans ?_
      unfold Sched.lost TunerRec.lost
      rw [State.countTo_cfg]
      rfl
  · intro n due s high k r
    refine ⟨fun range fitted _ bare settled room budget state recheck live marks clear => ?_, fun none => ?_⟩
    · have dueNow : State.recheckDue n s = some due := by
        unfold State.recheckDue
        dsimp only
        rw [if_neg (Nat.not_lt.mpr range)]
        exact (if_pos state).trans recheck
      obtain ⟨t, happened, base, sch⟩ := State.happened_event (f := fun s e => e.recheck s.base (Tuner.ofIndex n))
        (exec_recheckTimerExpiry n s) high dueNow
      have effect := Ev.recheck_bare (v := (s.countTo due).base) (s := s.sch) (k := Tuner.ofIndex n) marks (.inl ⟨budget, clear⟩)
        bare room
      have settledX : (s.sch.returned (Tuner.ofIndex n)).Settled :=
        (settled.modTuner k TunerRec.back rfl rfl rfl).of_bookings rfl rfl rfl
      refine ⟨t, happened, base, sch.trans ?_⟩
      rw [Sched.event, effect]
      refine (Ev.settle_settled (Ev.rests_quiet rfl rfl rfl) rfl settledX).trans ?_
      have back : r.back = { r with state := .idle, recheck := none, marks := ⟨false, false, false⟩ } := by
        unfold TunerRec.back
        rw [marks]
      exact congrArg (fun x => ({ s.sch with
        tuners := s.sch.tuners.set k x
        notices := s.sch.notices ++ [.usable k true ⟨false, false, false⟩ .idle false] } : Sched)) back
    · refine (exec_recheckTimerExpiry n s).trans (s.atInstant_stopped _ _ ?_)
      unfold State.recheckDue
      dsimp only
      split
      · rfl
      · split
        · rename_i low failed
          exact (none.resolve_left low).resolve_left (Classical.not_not.mpr failed)
        · rfl
  · intro n h d m kd b s takes k r c range fitted _ settled room apart depth usable live state unusable failed plan otherPlan
      stacked unplaced found own busy captures elsewhere armed ahead
    obtain ⟨rfl, -⟩ := s.sch.bk_handle found
    have occupies : b.occupies = true := by
      unfold Booking.occupies
      rcases busy with e | e | e <;> rw [e] <;> rfl
    have alive : b.state ≠ .ended := by rcases busy with e | e | e <;> rw [e] <;> exact nofun
    obtain ⟨x, fails⟩ := Ev.fail_serving (e := Ev.of s.sch) usable plan stacked unplaced found own occupies live unusable failed
      settled room captures apart depth armed ahead
    obtain ⟨rests, settledY, shape⟩ := tunerLost_serving (v := s.base) (kd := kd) (d := d) settled plan otherPlan stacked elsewhere x
    let y := (s.sch.pushed s.base k .signal none b kd d).lost s.base k r false
    have effect : (Ev.of s.sch).report s.base (Tuner.ofIndex n) 1 = { Ev.of y with exam := x } :=
      (Ev.report_fails (v := s.base) (k := Tuner.ofIndex n) (e := Ev.of s.sch) (by
        rcases state with e | e | e
        exact .inl e; exact .inr (.inl e); exact .inr (.inr e))).trans fails
    obtain ⟨t, answered, base, sch⟩ := takes.answersSettled rfl (exec_tunerReport n r.directive.serial 1 s)
      (State.tunerReport_current range (Nat.le_refl 1) fitted rfl) (effect ▸ rests) (effect ▸ rfl) (effect ▸ settledY)
    rw [effect] at answered sch
    refine ⟨t, (Sched.lost_answer s.base (Tuner.ofIndex n) r false) ▸ answered, base, ?_, fun g other => ?_, ?_⟩
    · rw [sch]
      exact Sched.unseated_bk (kd := kd) (d := d) found alive
    · rw [sch]
      exact Sched.unseated_bk_other (v := s.base) (b := b) (kd := kd) (d := d) other
    · rw [sch]
      exact shape
  · intro n due h d u kd b s high k r v serial c range fitted _ settled room budget state recheck live marks unusable failed plans stack
      otherStack unplaced found suspended more armed ahead
    obtain ⟨rfl, -⟩ := s.sch.bk_handle found
    have alive : b.state ≠ .ended := by rw [suspended]; exact nofun
    have dueNow : State.recheckDue n s = some due := by
      unfold State.recheckDue
      dsimp only
      rw [if_neg (Nat.not_lt.mpr range)]
      exact (if_pos state).trans recheck
    obtain ⟨t, happened, base, sch⟩ := State.happened_event (f := fun s e => e.recheck s.base (Tuner.ofIndex n))
      (exec_recheckTimerExpiry n s) high dueNow
    have effect := Ev.recheck_pops (v := v) marks budget failed room plans stack otherStack unplaced found alive live more armed ahead
    let y : Sched := ({ s.sch.reseated k b.handle kd d with stacked := ⟨[], []⟩ } : Sched).returned k
    have here : y.bk b.handle = some c := Sched.reseated_bk (kd := kd) (d := d) found alive
    have record : y.tuners.get k = r.back := Two.get_set _ k _
    have plan : y.plans.get k = [⟨b.handle, false⟩] := Two.get_set _ k _
    have noPlan (j : Tuner) : s.sch.plans.get j = [] := Two.get_of_empty plans j
    have free : r.directive.mux ≠ some b.mux := by
      rw [show r.directive.mux = _ from ((s.sch.directiveStale_iff k).mp ((Sched.settled_iff _).mp settled k)).1,
        Sched.neededMux_free (noPlan k) live]
      exact nofun
    have revised : y.reviseAll v = { y with tuners := s.sch.tuners.set k ((y.tuners.get k).tuned v b.mux) } :=
      Sched.reviseAll_tunes (s := s.sch) (y := y) settled (by rw [record]; exact nofun)
        (Sched.neededMux_single (b := c) plan here rfl (by rw [record]; exact live)) (by rw [record]; exact free) (Two.get_set_other _ k _)
        (by rw [Sched.occupants_none (noPlan _), Sched.occupants_none ((Two.get_set_other _ k _).trans (noPlan _))])
    have settles : s.sch.event v (fun e => e.recheck v k) = y.reviseAll v := by
      rw [Sched.event, effect]
      exact Ev.settle_rests (Ev.rests_quiet rfl rfl rfl) rfl
    have left : t.sch = { y with tuners := s.sch.tuners.set k ((y.tuners.get k).tuned v b.mux) } := sch.trans (settles.trans revised)
    have tuned : r.back.tuned v b.mux =
        { state := .tuning, captures := r.captures, live := none, directive := ⟨serial, some b.mux, none, r.captures⟩,
          unread := true, tuneTimer := some (v.now + v.cfg.tuneTimeout * unit, serial), recheck := none,
          marks := ⟨false, false, false⟩ } := by
      unfold TunerRec.tuned TunerRec.directed TunerRec.back
      dsimp only
      rw [marks, live]
      rfl
    rw [record, tuned] at left
    refine ⟨t, happened, base, ?_, fun g other => ?_, ?_⟩
    · rw [left]
      exact here
    · rw [left]
      exact Sched.reseated_bk_other (k := k) (kd := kd) (d := d) other
    · rw [left]
      rfl

end Sys2Proof.Machine
end

section
/-! HOLD-LIVE and RELEASE-LIVE. -/

namespace Sys2Proof.Machine

theorem exec_holdLive (m service force : Nat) (s : State) :
    exec (.holdLive m service force) s = s.request 16 (State.holdLive m service force) := rfl

theorem exec_releaseLive (s : State) : exec .releaseLive s = s.request 17 State.releaseLive := rfl

/-! ## The answer of an event that ends with its directives -/

theorem State.Takes.answersRevised {i : Instr} {c : Nat} {F : State → Answer} {s : State} {g : Ev → Ev}
    {r : Sched → List Byte} (takes : s.Takes) (code : i.code = some c) (run : exec i s = s.request c F)
    (answer : F s = s.answerEvent g r) {y : Sched} {x : Two Bool} (effect : g (Ev.of s.sch) = { Ev.of y with exam := x })
    (rests : ({ Ev.of y with exam := x } : Ev).Rests s.base) {z : Sched} (revised : y.reviseAll s.base = z) :
    ∃ t, Answered i s t .ok (r z) ∧ t.base = s.base ∧ t.sch = z := by
  obtain ⟨t, answered, base, sch⟩ := takes.answersEvent code run answer
  have closed : ((g (Ev.of s.sch)).close s.base).s = z := by
    rw [effect, Ev.close_rests rests]
    exact revised
  rw [closed] at answered
  refine ⟨t, answered, base, sch.trans ?_⟩
  rw [Sched.event, effect, Ev.settle_rests rests rfl]
  exact revised

/-! ## Numbers in order -/

theorem insertAscending_last {n : Nat} : ∀ {l : List Nat}, (∀ x ∈ l, x < n) → insertAscending n l = l ++ [n]
  | [], _ => rfl
  | x :: rest, below => by
    rw [insertAscending, if_neg (Nat.not_lt.mpr (Nat.le_of_lt (below x List.mem_cons_self))),
      insertAscending_last fun y hy => below y (List.mem_cons_of_mem _ hy)]
    rfl

theorem ascending_sorted {l : List Nat} (sorted : l.Pairwise (· < ·)) : ascending l = l := by
  have from' : ∀ rest acc : List Nat, (acc ++ rest).Pairwise (· < ·) →
      rest.foldl (fun acc n => insertAscending n acc) acc = acc ++ rest := by
    intro rest
    induction rest with
    | nil => exact fun acc _ => (List.append_nil acc).symm
    | cons n rest ih =>
      intro acc sorted
      obtain ⟨-, -, below⟩ := List.pairwise_append.mp sorted
      rw [List.foldl_cons, insertAscending_last fun x hx => below x hx n List.mem_cons_self, ih, List.append_assoc]
      · rfl
      · rwa [List.append_assoc]
  exact from' l [] sorted

/-! ## The tuner that a hold takes -/

theorem Sched.usableTuners_one {s : Sched} {k : Tuner} (usable : s.usable k = true) (other : s.usable k.other = false) :
    s.usableTuners = [k] := by
  unfold Sched.usableTuners
  cases k
  · simp [usable, show s.usable .B = false from other]
  · simp [usable, show s.usable .A = false from other]

theorem Sched.shareTuner_none {s : Sched} {mux : Nat} (apart : ∀ k ∈ s.usableTuners, s.bookingMux k ≠ some mux) :
    s.shareTuner mux = none := by
  have fit : s.usableTuners.filter (fun t => s.bookingMux t == some mux) = [] := by
    rw [List.filter_eq_nil_iff]
    intro k inside same
    exact apart k inside (beq_iff_eq.mp same)
  unfold Sched.shareTuner
  dsimp only
  rw [fit]
  rfl

/-- Where no usable tuner needs the multiplex, the first free one is taken (R78). -/
theorem Sched.liveChoice_free {s : Sched} {mux : Nat} {k : Tuner} (nobody : ∀ j, s.occupants j = [])
    (usable : s.usable k = true) (first : k = .B → s.usable .A = false) : s.liveChoice mux = some k := by
  have share : s.shareTuner mux = none := Sched.shareTuner_none fun j _ => by
    unfold Sched.bookingMux
    rw [nobody j]
    exact nofun
  have free : s.freeTuner = some k := by
    unfold Sched.freeTuner Sched.usableTuners
    cases k
    · simp [usable, nobody]
    · simp [first rfl, usable, nobody]
  unfold Sched.liveChoice
  rw [share, free]
  rfl

/-- The one usable tuner, whose occupants are all on other multiplexes, is taken (R78). -/
theorem Sched.liveChoice_displaces {s : Sched} {mux : Nat} {k : Tuner} (usable : s.usable k = true)
    (other : s.usable k.other = false) (serves : s.occupants k ≠ []) (apart : ∀ b ∈ s.occupants k, b.mux ≠ mux) :
    s.liveChoice mux = some k := by
  have only := Sched.usableTuners_one usable other
  have share : s.shareTuner mux = none := Sched.shareTuner_none fun j inside => by
    rw [only, List.mem_singleton] at inside
    subst inside
    unfold Sched.bookingMux
    intro needs
    obtain ⟨b, first, same⟩ := Option.map_eq_some_iff.mp needs
    exact apart b (earliestPrep_mem _ b first) same
  have free : s.freeTuner = none := by
    unfold Sched.freeTuner
    rw [only]
    simpa using serves
  unfold Sched.liveChoice Sched.worstTuner
  rw [share, free, only]
  rfl

theorem Sched.liveChoice_none {s : Sched} {mux : Nat} (unusable : ∀ k, s.usable k = false) : s.liveChoice mux = none := by
  have nobody : s.usableTuners = [] := by
    unfold Sched.usableTuners
    simp [unusable]
  unfold Sched.liveChoice Sched.worstTuner Sched.freeTuner
  rw [Sched.shareTuner_none (by rw [nobody]; exact nofun), nobody]
  rfl

theorem Sched.liveDisplaces_all {s : Sched} {k : Tuner} {mux : Nat} (apart : ∀ b ∈ s.occupants k, b.mux ≠ mux) :
    s.liveDisplaces k mux = s.occupants k := List.filter_eq_self.mpr fun b inside => by simpa using apart b inside

theorem Sched.liveHandles_unheld {s : Sched} {k : Tuner} (live : (s.tuners.get k).live = none) (mux : Nat) :
    s.liveHandles k mux = ascending ((s.liveDisplaces k mux).map (·.handle)) := by
  unfold Sched.liveHandles
  rw [live]
  rfl

theorem Sched.liveTuner_none {s : Sched} (a : s.tuners.a.live = none) (b : s.tuners.b.live = none) : s.liveTuner = none := by
  simp [Sched.liveTuner, a, b]

theorem Sched.liveTuner_one {s : Sched} {k : Tuner} {l : Live} (live : (s.tuners.get k).live = some l)
    (other : (s.tuners.get k.other).live = none) : s.liveTuner = some k := by
  unfold Sched.liveTuner
  cases k
  · have here : s.tuners.a.live = some l := live
    simp [here]
  · have here : s.tuners.b.live = some l := live
    have there : s.tuners.a.live = none := other
    simp [here, there]

/-! ## The hold -/

/-- A hold on a tuner with nothing planned (R80). -/
theorem Ev.takeHold_unplanned {v : Base} {e : Ev} {k : Tuner} (plan : e.s.plans.get k = []) (mux service : Nat) :
    e.takeHold v k mux service = e.on fun s => s.modTuner k fun r => { r with live := some ⟨mux, service⟩ } := by
  let x := e.on fun s => s.modTuner k fun r => { r with live := some ⟨mux, service⟩ }
  have nobody : e.s.liveDisplaces k mux = [] := by
    unfold Sched.liveDisplaces
    rw [Sched.occupants_none plan]
    rfl
  have none : x.s.planBookings k = [] := Sched.planBookings_none (s := x.s) plan
  unfold Ev.takeHold
  dsimp only
  rw [nobody, List.filter_nil]
  show (((x.s.planBookings k).filter fun b => !b.occupies && b.mux != mux).map (·.handle) |>.foldl
    (fun e h => e.leavePlan h) x).placeEach v Open.all
    (((x.s.planBookings k).filter fun b => !b.occupies && b.mux != mux).map (·.handle)) = x
  rw [none]
  rfl

/-- What a want is made of (R87). -/
theorem Booking.want_parts {v : Base} {b : Booking} {w : Want} (want : b.want v = some w) :
    w.lo = max v.clock (b.prepareTime v) ∧ w.hi = b.closeTime v ∧ w.mux = b.mux ∧ w.rank = b.unstartedRank ∧ w.lo < w.hi := by
  obtain ⟨p, tuned, rfl⟩ := Option.map_eq_some_iff.mp want
  unfold Booking.tuned at tuned
  dsimp only at tuned
  split at tuned
  · cases tuned
    exact ⟨rfl, rfl, rfl, rfl, ‹_›⟩
  · cases tuned

/-- A hold blocks its tuner for a booking on another multiplex. -/
theorem Sched.choose_held {v : Base} {s : Sched} {k : Tuner} {l : Live} (live : (s.tuners.get k).live = some l)
    (other : s.usable k.other = false) (auto : Bool) (avoid : Option Tuner) {b : Booking} (apart : b.mux ≠ l.mux) :
    s.choose v auto none avoid b = none := by
  refine Sched.choose_blocked (k := k) other auto avoid fun w want => ?_
  obtain ⟨lo, -, mux, -, some'⟩ := Booking.want_parts want
  have open' : v.clock < w.hi := by omega
  have inside : (⟨v.clock, none, l.mux, 0, .live⟩ : Occ) ∈ s.occs v k := by
    unfold Sched.occs
    rw [live]
    simp
  exact ⟨_, inside, Bool.and_eq_true_iff.mpr ⟨decide_eq_true open', rfl⟩, fun same => apart (mux.symm.trans same.symm), fun c who => by cases who⟩

/-- A hold on the one usable tuner, which serves one local booking on another multiplex, displaces it (R80, R111). -/
theorem Ev.takeHold_serving {v : Base} {e : Ev} {k : Tuner} {m : Bool} {b : Booking} {kd : TrigKind} {d mux service : Nat}
    (plan : e.s.plans.get k = [⟨b.handle, m⟩]) (stacked : e.s.stacked = ⟨[], []⟩)
    (unplaced : e.s.unplaced = []) (found : e.s.bk b.handle = some b) (own : b.cls ≠ .hosted) (occupies : b.occupies = true)
    (other : e.s.usable k.other = false) (elsewhere : b.mux ≠ mux) (apart : v.station ≠ .joined)
    (depth : 1 ≤ v.cfg.depth) (armed : (b.suspended v).armed v = some (kd, d)) (ahead : v.clock < d) :
    ∃ x, e.takeHold v k mux service = ({ e with s := e.s.pushed v k .live none b kd d, exam := x } : Ev).on fun s =>
      s.modTuner k fun r => { r with live := some ⟨mux, service⟩ } := by
  have alive : b.state ≠ .ended := by
    intro ended
    rw [Booking.occupies, ended] at occupies
    cases occupies
  obtain ⟨x, pushes⟩ := Ev.push_one stacked unplaced found alive armed ahead depth k .live none
  refine ⟨x, ?_⟩
  let y : Ev := ({ e with s := e.s.pushed v k .live none b kd d, exam := x } : Ev).on fun s =>
    s.modTuner k fun r => { r with live := some ⟨mux, service⟩ }
  have served : e.s.liveDisplaces k mux = [b] := by
    unfold Sched.liveDisplaces
    rw [Sched.occupants_single plan found occupies]
    simp [elsewhere]
  have locals : [b].filter (fun b => !b.hosted) = [b] := by simp [Booking.not_hosted own]
  have hosted : [b].filter Booking.hosted = [] := by simp [Booking.not_hosted own]
  have emptied : y.s.planBookings k = [] := by
    refine Sched.planBookings_none (s := y.s) ?_
    show (e.s.plans.both _).get k = []
    rw [Two.both_get, plan]
    simp
  have live : (y.s.tuners.get k).live = some ⟨mux, service⟩ := congrArg TunerRec.live (Two.get_mod _ k _)
  have unusable : y.s.usable k.other = false := by
    unfold Sched.usable
    rw [show y.s.tuners.get k.other = _ from Sched.modTuner_get_other _ k _]
    show ((e.s.leaveCapture b.handle).tuners.get k.other).marks.none = false
    rw [Sched.leaveCapture_get]
    exact other
  have stays : y.placePushed v [b] = y :=
    Ev.placePushed_stays (e := y) (c := b.suspended v) (Sched.unseated_bk (kd := kd) (d := d) found alive) (Booking.not_hosted own)
      apart (Sched.choose_held live unusable false none elsewhere)
  unfold Ev.takeHold
  dsimp only
  rw [served, locals, hosted, pushes, List.foldl_nil]
  show (((y.placePushed v [b]).s.planBookings k).filter (fun b => !b.occupies && b.mux != mux) |>.map (·.handle) |>.foldl
    (fun e h => e.leavePlan h) (y.placePushed v [b])).placeEach v Open.all
    (((y.placePushed v [b]).s.planBookings k).filter (fun b => !b.occupies && b.mux != mux) |>.map (·.handle)) = y
  rw [stays, emptied]
  rfl

/-- The station's first hold (R80). -/
theorem Ev.holdLive_first {v : Base} {e : Ev} (free : e.s.liveTuner = none) (k : Tuner) (mux service : Nat) :
    e.holdLive v k mux service = e.takeHold v k mux service := by
  unfold Ev.holdLive
  rw [free]

end Sys2Proof.Machine
end

section
/-! Live viewing, settled. -/

namespace Sys2Proof.Machine

theorem yesNoOf_low {n : Nat} (low : n ≤ 1) : yesNoOf n = some (n == 1) := by
  obtain rfl | rfl : n = 0 ∨ n = 1 := by omega
  all_goals rfl

theorem yesNoOf_high {n : Nat} (high : 1 < n) : yesNoOf n = none := by
  unfold yesNoOf
  split
  · omega
  · omega
  · rfl

theorem listField_bytes (l : List Nat) : listField byte l = BitVec.ofNat 8 l.length :: l.map (BitVec.ofNat 8) := by
  have each : l.flatMap byte = l.map (BitVec.ofNat 8) := by
    induction l with
    | nil => rfl
    | cons n l ih =>
      rw [List.flatMap_cons, ih, byte_eq_field1]
      rfl
  rw [listField, each, byte_eq_field1]
  rfl

/-- HOLD-LIVE with a flag that is in range and a tuner to take (R78, R79). -/
theorem State.holdLive_takes {m service force : Nat} {s : State} {k : Tuner} (low : force ≤ 1)
    (choice : s.sch.liveChoice m = some k) (allowed : (s.base.cfg.liveRefer && !(force == 1) && !(s.sch.liveHandles k m).isEmpty) = false) :
    s.holdLive m service force = s.answerEvent (Ev.holdLive s.base k m service) fun x =>
      tunerField k ++ bytesOf 2 (x.tuners.get k).directive.serial ++ listField byte (s.sch.liveHandles k m) := by
  unfold State.holdLive
  rw [yesNoOf_low low, choice]
  dsimp only
  rw [allowed]
  rfl

/-- The state in which a tuner holds and is sent to the hold's multiplex. -/
def Sched.heldAt (v : Base) (k : Tuner) (l : Live) (r : TunerRec) (y : Sched) : Sched :=
  { y with tuners := y.tuners.set k ({ r with live := some l }.tuned v l.mux) }

theorem Sched.heldAt_answer (v : Base) (k : Tuner) (l : Live) (r : TunerRec) (y : Sched) (hs : List Nat) :
    tunerField k ++ bytesOf 2 ((y.heldAt v k l r).tuners.get k).directive.serial ++ listField byte hs =
      field1 k.index ++ field2 ((r.directive.serial + 1) % 65536) ++ listField byte hs := by
  have serial : ((y.heldAt v k l r).tuners.get k).directive.serial = (r.directive.serial + 1) % 65536 :=
    congrArg (fun r : TunerRec => r.directive.serial) (Two.get_set _ k _)
  rw [serial, bytesOf_two_eq_field2, tunerField, byte_eq_field1]

/-- HOLD-LIVE on a free IDLE tuner (R80). -/
theorem holdLive_free (m service force : Nat) (s : State) (takes : s.Takes) (low : force ≤ 1) (bare : s.sch.Bare)
    (settled : s.sch.Settled) (liveA : s.sch.tuners.a.live = none) (liveB : s.sch.tuners.b.live = none) (k : Tuner)
    (usable : s.sch.usable k = true) (first : k = .B → s.sch.usable .A = false) (idle : (s.sch.tuners.get k).state = .idle) :
    ∃ t, Answered (.holdLive m service force) s t .ok
        (field1 k.index ++ field2 (((s.sch.tuners.get k).directive.serial + 1) % 65536) ++ [0]) ∧
      t.base = s.base ∧ t.sch = s.sch.heldAt s.base k ⟨m, service⟩ (s.sch.tuners.get k) := by
  let y : Sched := s.sch.modTuner k fun r => { r with live := some ⟨m, service⟩ }
  have plan (j : Tuner) : s.sch.plans.get j = [] := Two.get_of_empty bare.1 j
  have nobody (j : Tuner) : s.sch.occupants j = [] := Sched.occupants_none (plan j)
  have live : (s.sch.tuners.get k).live = none := by
    cases k
    · exact liveA
    · exact liveB
  have handles : s.sch.liveHandles k m = [] := by
    rw [Sched.liveHandles_unheld live, Sched.liveDisplaces, nobody]
    rfl
  have effect : Ev.holdLive s.base k m service (Ev.of s.sch) = Ev.of y :=
    (Ev.holdLive_first (e := Ev.of s.sch) (Sched.liveTuner_none liveA liveB) k m service).trans
      (Ev.takeHold_unplanned (e := Ev.of s.sch) (plan k) m service)
  have record : y.tuners.get k = { s.sch.tuners.get k with live := some ⟨m, service⟩ } := Two.get_mod _ k _
  have free : (s.sch.tuners.get k).directive.mux = none := by
    rw [((s.sch.directiveStale_iff k).mp ((Sched.settled_iff _).mp settled k)).1, Sched.neededMux_free (plan k) live]
  have revised : y.reviseAll s.base = s.sch.heldAt s.base k ⟨m, service⟩ (s.sch.tuners.get k) := by
    rw [Sched.reviseAll_tunes (mux := m) (s := s.sch) (y := y) (k := k) settled (by rw [record, idle]; exact nofun)
      (Sched.neededMux_held (by rw [record])) (by rw [record, free]; exact nofun) (Sched.modTuner_get_other _ k _) rfl, record]
    rfl
  obtain ⟨t, answered, base, sch⟩ := takes.answersRevised rfl (exec_holdLive m service force s)
    (State.holdLive_takes low (Sched.liveChoice_free nobody usable first) (by rw [handles]; simp))
    (y := y) (x := ⟨false, false⟩) effect (Ev.rests_quiet rfl rfl rfl) revised
  rw [Sched.heldAt_answer, handles] at answered
  exact ⟨t, answered, base, sch⟩

/-- HOLD-LIVE that would displace bookings under the policy REFER (R79). -/
theorem holdLive_refers (m service : Nat) (s : State) (takes : s.Takes) (refer : s.base.cfg.liveRefer = true) (k : Tuner)
    (usable : s.sch.usable k = true) (other : s.sch.usable k.other = false) (live : (s.sch.tuners.get k).live = none)
    (serves : s.sch.occupants k ≠ []) (apart : ∀ b ∈ s.sch.occupants k, b.mux ≠ m)
    (sorted : ((s.sch.occupants k).map Booking.handle).Pairwise (· < ·)) :
    ∃ t, Answered (.holdLive m service 0) s t .conflict
        (tunerField k ++ listField byte ((s.sch.occupants k).map Booking.handle)) ∧ t.base = s.base ∧ t.sch = s.sch := by
  have handles : s.sch.liveHandles k m = (s.sch.occupants k).map Booking.handle := by
    rw [Sched.liveHandles_unheld live, Sched.liveDisplaces_all apart, ascending_sorted sorted]
  have conflicts : s.holdLive m service 0 =
      ⟨s, .conflict, tunerField k ++ listField byte ((s.sch.occupants k).map Booking.handle)⟩ := by
    unfold State.holdLive
    rw [Sched.liveChoice_displaces usable other serves apart, show yesNoOf 0 = some false from rfl]
    dsimp only
    rw [handles, refer]
    cases list : s.sch.occupants k with
    | nil => exact absurd list serves
    | cons b rest => rfl
  have answered := takes.answered (i := .holdLive m service 0) rfl (exec_holdLive m service 0 s)
  rw [conflicts] at answered
  exact ⟨_, answered rfl rfl rfl rfl, rfl, rfl⟩

/-- HOLD-LIVE that displaces the one booking of the one usable tuner (R80, R111). -/
theorem holdLive_displaces (h d m service : Nat) (mark : Bool) (kd : TrigKind) (k : Tuner) (b : Booking) (s : State)
    (takes : s.Takes) (settled : s.sch.Settled) (usable : s.sch.usable k = true)
    (otherLive : (s.sch.tuners.get k.other).live = none) (working : (s.sch.tuners.get k).state ≠ .failed)
    (found : s.sch.bk h = some b) (otherPlan : s.sch.plans.get k.other = []) (otherStack : s.sch.stacked.get k.other = [])
    (ahead : s.base.clock < d) (other : s.sch.usable k.other = false) (live : (s.sch.tuners.get k).live = none)
    (apart : s.base.station ≠ .joined) (depth : 1 ≤ s.base.cfg.depth) (plan : s.sch.plans.get k = [⟨h, mark⟩])
    (stack : s.sch.stacked.get k = []) (unplaced : s.sch.unplaced = []) (own : b.cls ≠ .hosted)
    (busy : b.state = .preparing ∨ b.state = .recording ∨ b.state = .paused) (elsewhere : b.mux ≠ m)
    (captures : ∀ y ∈ (s.sch.tuners.get k).captures, y.handle = h)
    (otherCaptures : ∀ y ∈ (s.sch.tuners.get k.other).captures, y.handle ≠ h)
    (armed : (b.suspended s.base).armed s.base = some (kd, d)) :
    ∃ t, Answered (.holdLive m service 1) s t .ok
        (field1 k.index ++ field2 (((s.sch.tuners.get k).directive.serial + 1) % 65536) ++ listField byte [h]) ∧ t.base = s.base ∧
      t.sch.bk h = some (b.suspended s.base) ∧ (∀ g, g ≠ h → t.sch.bk g = s.sch.bk g) ∧
      t.sch =
        { s.sch with
          bookings := t.sch.bookings, triggers := armedWith h kd d s.sch.triggers, plans := ⟨[], []⟩, unplaced := [h]
          stacked := s.sch.stacked.set k [⟨[h], b.mux, s.base.clock, .live, none, false⟩]
          tuners := s.sch.tuners.set k
            ({ s.sch.tuners.get k with captures := [], live := some ⟨m, service⟩ }.tuned s.base m) } := by
  obtain ⟨rfl, -⟩ := s.sch.bk_handle found
  let r : TunerRec := { s.sch.tuners.get k with captures := [], live := some ⟨m, service⟩ }
  have stacked : s.sch.stacked = ⟨[], []⟩ := by
    cases k
    · exact congr (congrArg Two.mk stack) otherStack
    · exact congr (congrArg Two.mk otherStack) stack
  have occupies : b.occupies = true := by
    unfold Booking.occupies
    rcases busy with e | e | e <;> rw [e] <;> rfl
  have alive : b.state ≠ .ended := by rcases busy with e | e | e <;> rw [e] <;> exact nofun
  have one : s.sch.occupants k = [b] := Sched.occupants_single plan found occupies
  have unheld : s.sch.liveTuner = none := by
    cases k
    · exact Sched.liveTuner_none live otherLive
    · exact Sched.liveTuner_none otherLive live
  have elsewhere' : ∀ c ∈ s.sch.occupants k, c.mux ≠ m := by
    rw [one]
    exact fun c inside => List.mem_singleton.mp inside ▸ elsewhere
  have handles : s.sch.liveHandles k m = [b.handle] := by
    rw [Sched.liveHandles_unheld live, Sched.liveDisplaces_all elsewhere', one]
    rfl
  obtain ⟨x, displaces⟩ := Ev.takeHold_serving (v := s.base) (e := Ev.of s.sch) (mux := m) (service := service) plan stacked
    unplaced found own occupies other elsewhere apart depth armed ahead
  let p : Sched := s.sch.pushed s.base k .live none b kd d
  let y : Sched := p.modTuner k fun r => { r with live := some ⟨m, service⟩ }
  have effect : Ev.holdLive s.base k m service (Ev.of s.sch) = { Ev.of y with exam := x } :=
    (Ev.holdLive_first (e := Ev.of s.sch) unheld k m service).trans displaces
  have gone : (s.sch.tuners.get k).captures.filter (fun c => c.handle != b.handle) = [] := by
    rw [List.filter_eq_nil_iff]
    intro c inside
    simp [captures c inside]
  have record : y.tuners.get k = r := by
    refine (Two.get_mod _ k _).trans ?_
    rw [show p.tuners.get k = _ from Sched.leaveCapture_get s.sch b.handle k, gone]
  have kept : y.tuners.get k.other = s.sch.tuners.get k.other := by
    refine (Sched.modTuner_get_other p k _).trans ?_
    rw [show p.tuners.get k.other = _ from Sched.leaveCapture_get s.sch b.handle k.other,
      List.filter_eq_self.mpr fun c hc => by simpa using otherCaptures c hc]
  have plans : y.plans = ⟨[], []⟩ := Sched.plans_cleared plan otherPlan
  have mux : (s.sch.tuners.get k).directive.mux = some b.mux := by
    rw [((s.sch.directiveStale_iff k).mp ((Sched.settled_iff _).mp settled k)).1]
    exact Sched.neededMux_single plan found occupies live
  have revised : y.reviseAll s.base = { y with tuners := s.sch.tuners.set k ((y.tuners.get k).tuned s.base m) } :=
    Sched.reviseAll_tunes settled (by rw [record]; exact working) (Sched.neededMux_held (l := ⟨m, service⟩) (by rw [record]))
      (by rw [record]; dsimp only [r]; rw [mux]; exact fun same => elsewhere (Option.some.inj same)) kept
      (by rw [Sched.occupants_none (Two.get_of_empty plans _), Sched.occupants_none otherPlan])
  rw [record] at revised
  have rests : ({ Ev.of y with exam := x } : Ev).Rests s.base := by
    have stack' : y.stacked.get k = [⟨[b.handle], b.mux, s.base.clock, .live, none, false⟩] := Two.get_set _ k _
    have otherStack' : y.stacked.get k.other = [] := (Two.get_set_other _ k _).trans otherStack
    have still (j : Tuner) : y.Still j := by
      rcases Tuner.eq_or_other k j with rfl | rfl
      · exact Sched.still_standing stack' rfl
      · exact Sched.still_of_empty otherStack'
    exact ⟨fun _ => still .A, fun _ => still .B, nofun, nofun⟩
  obtain ⟨t, answered, base, sch⟩ := takes.answersRevised rfl (exec_holdLive m service 1 s)
    (State.holdLive_takes (Nat.le_refl 1)
      (Sched.liveChoice_displaces usable other (by rw [one]; exact nofun) elsewhere') (by simp))
    effect rests revised
  refine ⟨t, ?_, base, ?_, fun g apart => ?_, ?_⟩
  · have serial : (({ y with tuners := s.sch.tuners.set k (r.tuned s.base m) } : Sched).tuners.get
        k).directive.serial = ((s.sch.tuners.get k).directive.serial + 1) % 65536 :=
      congrArg (fun r : TunerRec => r.directive.serial) (Two.get_set _ k _)
    rw [serial, bytesOf_two_eq_field2, tunerField, byte_eq_field1, handles] at answered
    exact answered
  · rw [sch]
    exact Sched.unseated_bk (kd := kd) (d := d) found alive
  · rw [sch]
    exact Sched.unseated_bk_other (v := s.base) (b := b) (kd := kd) (d := d) apart
  · rw [sch]
    exact congrArg (fun l => ({ y with
      plans := l
      tuners := s.sch.tuners.set k (r.tuned s.base m) } : Sched)) plans

/-! ## RELEASE-LIVE -/

theorem State.releaseLive_one {s : State} {k : Tuner} {l : Live} (live : (s.sch.tuners.get k).live = some l)
    (other : (s.sch.tuners.get k.other).live = none) : s.releaseLive = (s.event (Ev.releaseHold k)).done (field1 k.index) := by
  unfold State.releaseLive
  rw [Sched.liveTuner_one live other]
  dsimp only
  rw [tunerField, byte_eq_field1]

theorem Ev.settle_finish {v : Base} {e : Ev} {z : Sched} (done : e.finish v = Ev.of z) : e.settle v = z.reviseAll v := by
  have closed : e.close v = Ev.of (z.reviseAll v) := by
    rw [Ev.close, done]
    rfl
  rw [Ev.settle, closed]
  exact settleIn_nil v _ _

/-- The hold goes where nothing waits for the tuner (R82). -/
theorem releaseLive_bare (s : State) (takes : s.Takes) (k : Tuner) (l : Live) (live : (s.sch.tuners.get k).live = some l)
    (otherLive : (s.sch.tuners.get k.other).live = none) (bare : s.sch.Bare) (settled : s.sch.Settled)
    (working : (s.sch.tuners.get k).state ≠ .failed) :
    ∃ t, Answered .releaseLive s t .ok (field1 k.index) ∧ t.base = s.base ∧
      t.sch = { s.sch with
        tuners := s.sch.tuners.set k
          { ({ s.sch.tuners.get k with live := none } : TunerRec).directed none with state := .idle, tuneTimer := none } } := by
  obtain ⟨plans, stacked, unplaced⟩ := bare
  let r : TunerRec := { s.sch.tuners.get k with live := none }
  let y : Sched := s.sch.modTuner k fun r => { r with live := none }
  let e : Ev := (Ev.of s.sch).releaseHold k
  have same : e.s = y := congrArg (fun l => ({ y with stacked := l } : Sched)) (Two.mod_self (by
    show List.map _ (s.sch.stacked.get k) = s.sch.stacked.get k
    rw [Two.get_of_empty stacked]
    rfl))
  have rests : e.Rests s.base := by
    refine ⟨fun _ => ?_, fun _ => ?_, fun keep _ => ?_, nofun⟩
    · rw [same]
      exact Sched.still_of_empty (congrArg Two.a stacked)
    · rw [same]
      exact Sched.still_of_empty (congrArg Two.b stacked)
    · rw [same]
      exact Sched.noRetry_of_empty keep unplaced
  have record : y.tuners.get k = r := Two.get_mod _ k _
  have kept : y.tuners.get k.other = s.sch.tuners.get k.other := Sched.modTuner_get_other _ k _
  have needed : y.neededMux k = none := Sched.neededMux_free (Two.get_of_empty plans k) (by rw [record])
  have mux : (s.sch.tuners.get k).directive.mux = some l.mux := by
    rw [((s.sch.directiveStale_iff k).mp ((Sched.settled_iff _).mp settled k)).1, Sched.neededMux_held live]
  have due : y.directiveStale k = true := by
    rw [← Bool.not_eq_false, Sched.directiveStale_iff, needed, record]
    rintro ⟨gone, -⟩
    exact nomatch mux.symm.trans gone
  have current : y.directiveStale k.other = false :=
    (s.sch.directiveStale_modTuner_other k _).trans ((Sched.settled_iff _).mp settled _)
  have revised : y.reviseAll s.base = { s.sch with
      tuners := s.sch.tuners.set k { r.directed none with state := .idle, tuneTimer := none } } := by
    rw [Sched.reviseAll_one due current, needed]
    unfold Sched.modTuner
    rw [Two.mod_eq_set kept, record, TunerRec.issue_none (r := r) working]
    rfl
  obtain ⟨t, answered, base, sch⟩ := takes.answers rfl (exec_releaseLive s) (State.releaseLive_one live otherLive)
    (s.beside_event _)
  refine ⟨t, answered, base, sch.trans ?_⟩
  show e.settle s.base = _
  rw [Ev.settle_rests rests rfl, same]
  exact revised

/-- The hold goes, and the one booking that it displaced resumes (R82, R110, R114, R115). -/
theorem releaseLive_pops (h d u : Nat) (kd : TrigKind) (k : Tuner) (b : Booking) (l : Live) (s : State) (takes : s.Takes)
    (settled : s.sch.Settled) (usable : s.sch.usable k = true) (otherLive : (s.sch.tuners.get k.other).live = none)
    (working : (s.sch.tuners.get k).state ≠ .failed) (found : s.sch.bk h = some b) (otherPlan : s.sch.plans.get k.other = [])
    (otherStack : s.sch.stacked.get k.other = []) (ahead : s.base.clock < d) (live : (s.sch.tuners.get k).live = some l)
    (elsewhere : l.mux ≠ b.mux) (plan : s.sch.plans.get k = [])
    (stack : s.sch.stacked.get k = [⟨[h], b.mux, u, .live, none, false⟩]) (unplaced : s.sch.unplaced = [h])
    (suspended : b.state = .suspended) (more : s.base.clock < b.closeTime s.base)
    (armed : (b.resumed k s.sch.prepCtr).armed s.base = some (kd, d)) :
    ∃ t, Answered .releaseLive s t .ok (field1 k.index) ∧ t.base = s.base ∧ t.sch.bk h = some (b.resumed k s.sch.prepCtr) ∧
      (∀ g, g ≠ h → t.sch.bk g = s.sch.bk g) ∧
      t.sch =
        { s.sch with
          bookings := t.sch.bookings, prepCtr := s.sch.prepCtr + 1, triggers := armedWith h kd d s.sch.triggers
          plans := s.sch.plans.set k [⟨h, false⟩], unplaced := [], stacked := ⟨[], []⟩
          tuners := s.sch.tuners.set k (({ s.sch.tuners.get k with live := none } : TunerRec).tuned s.base b.mux) } := by
  obtain ⟨rfl, -⟩ := s.sch.bk_handle found
  have alive : b.state ≠ .ended := by rw [suspended]; exact nofun
  let r : TunerRec := { s.sch.tuners.get k with live := none }
  let c : StackRec := ⟨[b.handle], b.mux, u, .live, none, true⟩
  let y : Sched := { s.sch.modTuner k fun r => { r with live := none } with stacked := s.sch.stacked.set k [c] }
  have record : y.tuners.get k = r := Two.get_mod _ k _
  have kept : y.tuners.get k.other = s.sch.tuners.get k.other := Sched.modTuner_get_other _ k _
  have releases : (Ev.of s.sch).releaseHold k =
      { Ev.of y with exam := (⟨false, false⟩ : Two Bool).set k true, retry := some false } := by
    have stacked : s.sch.stacked.mod k (List.map fun r => if (r.reason == .live) then { r with causeEnded := true } else r) =
        s.sch.stacked.set k [c] := by
      rw [Two.mod, stack]
      rfl
    exact congrArg (fun l => ({ Ev.of { y with stacked := l } with
      exam := (⟨false, false⟩ : Two Bool).set k true, retry := some false } : Ev)) stacked
  have mux : (s.sch.tuners.get k).directive.mux = some l.mux := by
    rw [((s.sch.directiveStale_iff k).mp ((Sched.settled_iff _).mp settled k)).1, Sched.neededMux_held live]
  have moves : r.directive.mux ≠ some b.mux := fun same => elsewhere (Option.some.inj (mux.symm.trans same))
  let z : Sched := { y.reseated k b.handle kd d with stacked := y.stacked.set k [] }
  have pops : examine 4 s.base k { Ev.of y with retry := some false } = { Ev.of z with retry := some false } := by
    refine examine_pops (e := { Ev.of y with retry := some false }) (r := c) found alive plan unplaced (Two.get_set _ k _) rfl rfl
      ?_ ?_ more ?_ armed ahead 3
    · show (y.tuners.get k).marks.none = true
      rw [record]
      exact usable
    · exact congrArg TunerRec.live record
    · rw [Bool.eq_false_iff, Ne, Sched.lockedOn_iff]
      rintro ⟨-, same⟩
      exact moves ((congrArg (fun r : TunerRec => r.directive.mux) record).symm.trans same)
  have rests : ({ Ev.of z with retry := some false } : Ev).Rests s.base :=
    Ev.rests_unexamined rfl (fun keep _ => Sched.noRetry_of_empty keep rfl) nofun
  have finishes : ((Ev.of s.sch).releaseHold k).finish s.base = Ev.of z := by
    have pops' : examine 4 s.base k { (Ev.of s.sch).releaseHold k with exam := ⟨false, false⟩ } =
        { Ev.of z with retry := some false } := by
      rw [releases]
      exact pops
    rw [Ev.finish_examines (k := k) (by rw [releases]) (by rw [pops']; exact rests), pops']
    rfl
  have cleared : z.stacked = ⟨[], []⟩ := by
    show (s.sch.stacked.set k [c]).set k [] = _
    rw [Two.set_set]
    cases k
    · exact congrArg (Two.mk _) otherStack
    · exact congrArg (Two.mk · _) otherStack
  have here : z.bk b.handle = some (b.resumed k s.sch.prepCtr) := Sched.reseated_bk (s := y) (kd := kd) (d := d) found alive
  have planned : z.plans.get k = [⟨b.handle, false⟩] := Two.get_set _ k _
  have revised : z.reviseAll s.base = { z with tuners := s.sch.tuners.set k (r.tuned s.base b.mux) } := by
    have recordZ : z.tuners.get k = r := record
    rw [Sched.reviseAll_tunes (s := s.sch) (y := z) (mux := b.mux) (k := k) settled (by rw [recordZ]; exact working)
      (Sched.neededMux_single (b := b.resumed k s.sch.prepCtr) planned here rfl (by rw [recordZ])) (by rw [recordZ]; exact moves)
      kept (by rw [Sched.occupants_none otherPlan, Sched.occupants_none ((Two.get_set_other _ k _).trans otherPlan)]), recordZ]
  obtain ⟨t, answered, base, sch⟩ := takes.answers rfl (exec_releaseLive s) (State.releaseLive_one live otherLive)
    (s.beside_event _)
  have left : t.sch = { z with tuners := s.sch.tuners.set k (r.tuned s.base b.mux) } :=
    sch.trans ((Ev.settle_finish finishes).trans revised)
  refine ⟨t, answered, base, ?_, fun g other => ?_, ?_⟩
  · rw [left]
    exact here
  · rw [left]
    exact Sched.reseated_bk_other (s := y) (k := k) (kd := kd) (d := d) other
  · rw [left]
    exact congrArg (fun l => ({ z with stacked := l, tuners := s.sch.tuners.set k (r.tuned s.base b.mux) } : Sched)) cleared

/-- Settles O32: the checks, the hold on a free tuner, the conflict, the displacement, and the two releases. -/
theorem liveViewing : Obligations.LiveViewing := by
  refine ⟨fun m v force s takes => ⟨fun high => ?_, fun low noA noB => ?_, ?_⟩, ?_, fun s takes => ⟨fun a b => ?_, ?_⟩, ?_⟩
  · refine takes.refused rfl (exec_holdLive m v force s) ?_
    unfold State.holdLive
    rw [yesNoOf_high high]
  · refine takes.refused rfl (exec_holdLive m v force s) ?_
    unfold State.holdLive
    rw [yesNoOf_low low, Sched.liveChoice_none (Sched.usable_none noA noB)]
  · intro low bare settled liveA liveB k usable first r idle serial
    exact holdLive_free m v force s takes low bare settled liveA liveB k usable first idle
  · intro m v s takes refer k usable other live serves apart sorted
    obtain ⟨t, answered, base, sch⟩ := holdLive_refers m v s takes refer k usable other live serves apart sorted
    refine ⟨t, ?_, base, sch⟩
    rw [tunerField, byte_eq_field1, listField_bytes, List.length_map, List.map_map] at answered
    exact answered
  · exact takes.refused rfl (exec_releaseLive s) (by rw [State.releaseLive, Sched.liveTuner_none a b])
  · intro k l live otherLive bare settled working r
    exact releaseLive_bare s takes k l live otherLive bare settled working
  · intro h d kd k b s takes settled usable otherLive working found otherPlan otherStack ahead v r serial tuned armed
    refine ⟨?_, ?_⟩
    · intro m service mark other live apart depth plan stack unplaced own busy elsewhere captures otherCaptures c rearmed
      have one : listField byte [h] = 1 :: field1 h := listField_bytes [h]
      rw [← one]
      exact holdLive_displaces h d m service mark kd k b s takes settled usable otherLive working found otherPlan otherStack ahead
        other live apart depth plan stack unplaced own busy elsewhere captures otherCaptures rearmed
    · intro l u live elsewhere plan stack unplaced suspended more c rearmed
      exact releaseLive_pops h d u kd k b l s takes settled usable otherLive working found otherPlan otherStack ahead live elsewhere
        plan stack unplaced suspended more rearmed

end Sys2Proof.Machine
end

section
/-! PREPARE: a booking enters PREPARING. -/

namespace Sys2Proof.Machine

/-! ## The queue after a message -/

/-- The queue after a message that is not a ROLL, where the station state admits it (R132). -/
def queueAfter (v : Base) (rank : Nat) (m : Msg) (l : List QMsg) : List QMsg :=
  if l.length < 12 then l ++ [compose v rank m none] else l

theorem Sched.offer_admitted {v : Base} {m : Msg} {s : Sched} (plain : m.isRoll = false) (admits : v.station.admits m = true)
    (rank : Nat) : s.offer v rank m none = { s with txq := queueAfter v rank m s.txq } := by
  rw [Sched.offer_plain plain]
  unfold queueAfter
  by_cases room : s.txq.length < 12
  · rw [if_pos ⟨admits, room⟩, if_pos room]
  · rw [if_neg fun h => room h.2, if_neg room]

/-- The queue after the MARK of a booking (R177). -/
def Sched.markQueue (v : Base) (b : Booking) (s : Sched) : List QMsg :=
  match b.cls, b.episode, s.seriesOf b with
  | .episode, some ep, some se => if v.station = .joined then queueAfter v b.rank (b.ownMark v se ep) s.txq else s.txq
  | _, _, _ => s.txq

theorem Sched.offerMark_queue {v : Base} {s : Sched} {b : Booking} (found : s.bk b.handle = some b) :
    s.offerMark v b.handle = { s with txq := s.markQueue v b } := by
  unfold Sched.offerMark Sched.markQueue
  rw [found]
  dsimp only
  cases b.cls with
  | manual => rfl
  | event => rfl
  | hosted => rfl
  | episode =>
    cases b.episode with
    | none => rfl
    | some ep =>
      cases s.seriesOf b with
      | none => rfl
      | some se =>
        dsimp only
        by_cases joined : v.station = .joined
        · rw [if_pos joined, if_pos joined]
          exact Sched.offer_admitted (m := b.ownMark v se ep) rfl (by rw [joined]; rfl) _
        · rw [if_neg joined, if_neg joined]

theorem Sched.markQueue_apart {v : Base} (apart : v.station ≠ .joined) (b : Booking) (s : Sched) : s.markQueue v b = s.txq := by
  unfold Sched.markQueue
  split
  · exact if_neg apart
  · rfl

/-! ## Entry into PREPARING -/

/-- A booking that enters PREPARING (R33). -/
def Booking.prepared (n : Nat) (b : Booking) : Booking := { b with state := .preparing, prepSeq := n }

/-- The state in which a planned booking is PREPARING with START armed, its MARK offered. -/
def Sched.prepares (v : Base) (b : Booking) (plans : Two (List PlanEntry)) (s : Sched) : Sched :=
  { s.modB b.handle (Booking.prepared s.prepCtr) with
    prepCtr := s.prepCtr + 1
    plans := plans
    triggers := armedWith b.handle .start b.startTime s.triggers
    txq := s.markQueue v (b.prepared s.prepCtr) }

theorem Sched.prepares_bk {v : Base} {b : Booking} {s : Sched} (found : s.bk b.handle = some b) (alive : b.state ≠ .ended)
    (plans : Two (List PlanEntry)) : (s.prepares v b plans).bk b.handle = some (b.prepared s.prepCtr) :=
  Sched.bk_modB_self _ (fun _ => rfl) found alive

theorem Sched.prepares_bk_other {v : Base} {b : Booking} {s : Sched} {g : Nat} (other : g ≠ b.handle)
    (plans : Two (List PlanEntry)) : (s.prepares v b plans).bk g = s.bk g :=
  Sched.bk_modB_other s (Booking.prepared s.prepCtr) (fun _ => rfl) other

/-- The steps of a passed check that concern the booking alone, before its START (R33, R99). -/
theorem Ev.prepares_alone {v : Base} {e : Ev} {b : Booking} {k : Tuner} (found : e.s.bk b.handle = some b)
    (alive : b.state ≠ .ended) (plan : b.plan = .tuner k) (ahead : v.clock < b.startTime) :
    ((((e.on (Sched.clearPreempts b.handle)).enterPreparing v b.handle).on (Sched.offerMark v b.handle)).captureRule v b.handle) =
      e.on fun s => s.prepares v b (s.clearPreempts b.handle).plans := by
  let x : Sched := { e.s.modB b.handle (Booking.prepared e.s.prepCtr) with
    prepCtr := e.s.prepCtr + 1, plans := (e.s.clearPreempts b.handle).plans }
  let y : Sched := { x with triggers := armedWith b.handle .start b.startTime e.s.triggers }
  let z : Sched := e.s.prepares v b (e.s.clearPreempts b.handle).plans
  have here : y.bk b.handle = some (b.prepared e.s.prepCtr) := Sched.prepares_bk (v := v) found alive (e.s.clearPreempts b.handle).plans
  have arms : (b.prepared e.s.prepCtr).armed v = some (.start, b.startTime) := if_pos ahead
  have entered : (e.on (Sched.clearPreempts b.handle)).enterPreparing v b.handle = { e with s := y } :=
    Ev.arm_ahead (e := { e with s := x }) here arms ahead
  have marked : ({ e with s := y } : Ev).on (Sched.offerMark v b.handle) = { e with s := z } :=
    congrArg (fun s => ({ e with s := s } : Ev)) (Sched.offerMark_queue (s := y) (b := b.prepared e.s.prepCtr) here)
  rw [entered, marked]
  exact Ev.captureRule_waits (e := { e with s := z }) (b := b.prepared e.s.prepCtr) here rfl plan (.inr ahead)

/-! ## The check -/

/-- The check of a booking whose tuner is not held and serves nothing on its multiplex (R98). -/
theorem Sched.checkPasses_of {v : Base} {s : Sched} {b : Booking} {k : Tuner} (usable : s.usable k = true)
    (live : (s.tuners.get k).live = none) (apart : ∀ c ∈ s.occupants k, c.mux ≠ b.mux)
    (yields : ∀ c ∈ s.occupants k, b.rank < c.rank ∧ (v.auto c.cls b.cls = true ∨ s.preempts b.handle = true)) :
    s.checkPasses v b k = true := by
  have shares : (s.occupants k).filter (fun c => c.mux == b.mux) = [] := by
    rw [List.filter_eq_nil_iff]
    intro c inside
    simpa using apart c inside
  have all : (s.conflicting v b k).all (fun c => b.rank < c.rank && (v.auto c.cls b.cls || s.preempts b.handle)) = true := by
    rw [List.all_eq_true]
    intro c inside
    obtain ⟨rank, allowed⟩ := yields c (List.mem_filter.mp inside).1
    rw [Bool.and_eq_true, Bool.or_eq_true]
    exact ⟨decide_eq_true rank, allowed⟩
  unfold Sched.checkPasses countOf
  rw [usable, live, all, shares]
  rfl

theorem Ev.firePrepare_passes {v : Base} {e : Ev} {h : Nat} {b : Booking} {k : Tuner} (found : e.s.bk h = some b)
    (planned : b.state = .planned) (plan : b.plan = .tuner k) (passes : e.s.checkPasses v b k = true) :
    e.firePrepare v h = e.preparePassed v b k := by
  unfold Ev.firePrepare
  rw [found]
  dsimp only
  rw [planned, plan]
  exact if_pos passes

theorem Ev.firePrepare_fails {v : Base} {e : Ev} {h : Nat} {b : Booking} {k : Tuner} (found : e.s.bk h = some b)
    (planned : b.state = .planned) (plan : b.plan = .tuner k) (unusable : e.s.usable k = false) :
    e.firePrepare v h = (e.leavePlan h).place v (Open.failed k) h := by
  have fails : ¬ e.s.checkPasses v b k = true := by
    unfold Sched.checkPasses
    rw [unusable]
    exact nofun
  unfold Ev.firePrepare
  rw [found]
  dsimp only
  rw [planned, plan]
  exact if_neg fails

/-- A check that passes with nobody to displace (R99). -/
theorem Ev.preparePassed_free {v : Base} {e : Ev} {b : Booking} {k : Tuner} (nobody : e.s.conflicting v b k = []) :
    e.preparePassed v b k =
      (((e.on (Sched.clearPreempts b.handle)).enterPreparing v b.handle).on (Sched.offerMark v b.handle)).captureRule v b.handle := by
  unfold Ev.preparePassed
  dsimp only
  rw [nobody]
  rfl

/-- An event of PREPARE. -/
theorem State.prepare_happened {h d : Nat} {s : State} (high : s.resetLow = false) (armed : s.sch.trigger h = some ⟨h, .prepare, d⟩)
    {x : Sched} (effect : ((Ev.of s.sch).firePrepare (s.countTo (d * unit)).base h).settle (s.countTo (d * unit)).base = x) :
    ∃ t, Happened (.prepare h) s t ∧ t.base = (s.countTo (d * unit)).base ∧ t.sch = x := by
  have due : State.armedAt h .prepare s = some (d * unit) := by simp [State.armedAt, armed]
  obtain ⟨t, happened, base, sch⟩ := State.happened_event (exec_trigger h .prepare s) high due
  exact ⟨t, happened, base, sch.trans effect⟩

/-- A plan that holds one booking on one tuner, its mark cleared. -/
theorem Sched.clearPreempts_plans {s : Sched} {h : Nat} {m : Bool} {k : Tuner} (plan : s.plans.get k = [⟨h, m⟩])
    (otherPlan : s.plans.get k.other = []) : (s.clearPreempts h).plans = s.plans.set k [⟨h, false⟩] := by
  let f : List PlanEntry → List PlanEntry := List.map fun p => if p.handle = h then { p with preempts := false } else p
  have here : (s.plans.both f).get k = [⟨h, false⟩] := by
    rw [Two.both_get, plan]
    simp [f]
  have there : (s.plans.both f).get k.other = s.plans.get k.other := by
    rw [Two.both_get, otherPlan]
    rfl
  show s.plans.both f = _
  rw [← here, ← Two.set_congr (x := s.plans) there, Two.set_get]

/-- PREPARE on a booking that is alone on a free, idle tuner (R33, R65, R66). -/
theorem prepare_free (h d : Nat) (m : Bool) (k : Tuner) (b : Booking) (s : State) (high : s.resetLow = false)
    (trigger : s.sch.trigger h = some ⟨h, .prepare, d⟩) (found : s.sch.bk h = some b) (planned : b.state = .planned)
    (plan : b.plan = .tuner k) (otherPlan : s.sch.plans.get k.other = []) (settled : s.sch.Settled)
    (usable : s.sch.usable k = true) (live : (s.sch.tuners.get k).live = none) (idle : (s.sch.tuners.get k).state = .idle)
    (entry : s.sch.plans.get k = [⟨h, m⟩]) (ahead : (s.countTo (d * unit)).base.clock < b.startTime) :
    let v := (s.countTo (d * unit)).base
    ∃ t, Happened (.prepare h) s t ∧ t.base = v ∧ t.sch.bk h = some (b.prepared s.sch.prepCtr) ∧
      (∀ g, g ≠ h → t.sch.bk g = s.sch.bk g) ∧
      t.sch =
        { s.sch with
          bookings := t.sch.bookings
          prepCtr := s.sch.prepCtr + 1
          plans := s.sch.plans.set k [⟨h, false⟩]
          triggers := armedWith h .start b.startTime s.sch.triggers
          txq := s.sch.markQueue v (b.prepared s.sch.prepCtr)
          tuners := s.sch.tuners.set k ((s.sch.tuners.get k).tuned v b.mux) } := by
  intro v
  obtain ⟨rfl, -⟩ := s.sch.bk_handle found
  have alive : b.state ≠ .ended := by rw [planned]; exact nofun
  have nobody : s.sch.occupants k = [] := by
    have waits : b.occupies = false := by
      unfold Booking.occupies
      rw [planned]
      rfl
    simp [Sched.occupants, Sched.planBookings, entry, found, waits]
  have noConflict : s.sch.conflicting v b k = [] := by
    unfold Sched.conflicting
    rw [nobody]
    rfl
  have passes : s.sch.checkPasses v b k = true :=
    Sched.checkPasses_of usable live (by simp [nobody]) (by simp [nobody])
  let y : Sched := s.sch.prepares v b (s.sch.plans.set k [⟨b.handle, false⟩])
  have effect : (Ev.of s.sch).firePrepare v b.handle = Ev.of y := by
    rw [Ev.firePrepare_passes (e := Ev.of s.sch) found planned plan passes,
      Ev.preparePassed_free (e := Ev.of s.sch) noConflict, Ev.prepares_alone (e := Ev.of s.sch) found alive plan ahead]
    exact congrArg (fun p => Ev.of (s.sch.prepares v b p)) (Sched.clearPreempts_plans entry otherPlan)
  have here : y.bk b.handle = some (b.prepared s.sch.prepCtr) := Sched.prepares_bk found alive _
  have entry' : y.plans.get k = [⟨b.handle, false⟩] := Two.get_set _ k _
  have free : (s.sch.tuners.get k).directive.mux = none := by
    rw [((s.sch.directiveStale_iff k).mp ((Sched.settled_iff _).mp settled k)).1]
    unfold Sched.neededMux Sched.bookingMux
    rw [live, nobody]
    rfl
  have revised : y.reviseAll v = { y with tuners := s.sch.tuners.set k ((s.sch.tuners.get k).tuned v b.mux) } :=
    Sched.reviseAll_tunes (s := s.sch) (y := y) settled (fun failed => nomatch idle.symm.trans failed)
      (Sched.neededMux_single (b := b.prepared s.sch.prepCtr) entry' here rfl live)
      (fun same => nomatch free.symm.trans same) rfl
      (by rw [Sched.occupants_none otherPlan, Sched.occupants_none ((Two.get_set_other _ k _).trans otherPlan)])
  obtain ⟨t, happened, base, sch⟩ := State.prepare_happened high trigger
    ((congrArg (Ev.settle v) effect).trans ((Ev.settle_rests (Ev.rests_quiet rfl rfl rfl) rfl).trans revised))
  refine ⟨t, happened, base, ?_, fun g other => ?_, ?_⟩
  · rw [sch]
    exact here
  · rw [sch]
    exact Sched.prepares_bk_other (v := v) other (s.sch.plans.set k [⟨b.handle, false⟩])
  · rw [sch]
    rfl

end Sys2Proof.Machine
end

section
/-! PREPARE over an occupant that it displaces, and PREPARE whose check fails. -/

namespace Sys2Proof.Machine

/-- A check that passes over one local occupant (R99, R111). -/
theorem Ev.preparePassed_over {v : Base} {e : Ev} {b c : Booking} {k : Tuner} (one : e.s.conflicting v b k = [c])
    (own : c.cls ≠ .hosted) {y z : Ev} (pushes : e.push v k .rank (some (b.handle, b.id)) [c] = y)
    (prepares : (((y.on (Sched.clearPreempts b.handle)).enterPreparing v b.handle).on (Sched.offerMark v b.handle)).captureRule v
      b.handle = z) : e.preparePassed v b k = z.placePushed v [c] := by
  have locals : [c].filter (fun c => !c.hosted) = [c] := by simp [Booking.not_hosted own]
  have hosted : [c].filter Booking.hosted = [] := by simp [Booking.not_hosted own]
  unfold Ev.preparePassed
  dsimp only
  rw [one, locals, hosted, pushes, List.foldl_nil, prepares]

/-- The tuner of a booking under way blocks one of no better rank on another multiplex, whose interval meets its own. -/
theorem Sched.choose_beside {v : Base} {s : Sched} {k : Tuner} (other : s.usable k.other = false) {b c : Booking}
    (planned : b ∈ s.planBookings k) (started : b.prepareTime v ≤ v.clock) (more : v.clock < b.closeTime v)
    (startedC : c.prepareTime v ≤ v.clock) (apart : b.mux ≠ c.mux) (worse : b.rank ≤ c.unstartedRank) :
    s.choose v false none none c = none := by
  refine Sched.choose_blocked (k := k) other false none fun w want => ?_
  obtain ⟨lo, -, mux, rank, some'⟩ := Booking.want_parts want
  have occ : b.occ v = some ⟨max v.clock (b.prepareTime v), some (b.closeTime v), b.mux, b.rank, .booking b⟩ := by
    unfold Booking.occ Booking.tuned
    dsimp only
    rw [if_pos (Nat.max_lt.mpr ⟨more, Nat.lt_of_le_of_lt started more⟩)]
    rfl
  have inside : (⟨max v.clock (b.prepareTime v), some (b.closeTime v), b.mux, b.rank, .booking b⟩ : Occ) ∈ s.occs v k :=
    List.mem_append_left _ (List.mem_append_left _ (List.mem_filterMap.mpr ⟨b, planned, occ⟩))
  refine ⟨_, inside, Bool.and_eq_true_iff.mpr ⟨decide_eq_true ?_, decide_eq_true ?_⟩, fun same => apart (same.trans mux), fun _ _ => ?_⟩
  · show max v.clock (b.prepareTime v) < w.hi
    omega
  · show w.lo < b.closeTime v
    omega
  · show ¬ w.rank < b.rank
    omega

/-- A planned booking b of a tuner's plan may displace the tuner's one occupant c, which is local, of a worse rank, on another
multiplex, and stays unplaced. -/
structure Displaces (v : Base) (k : Tuner) (b c : Booking) (m m' : Bool) (kc : TrigKind) (dc : Nat) (s : Sched) : Prop where
  found : s.bk b.handle = some b
  foundC : s.bk c.handle = some c
  apart : c.handle ≠ b.handle
  planned : b.state = .planned
  plan : b.plan = .tuner k
  entries : s.plans.get k = [⟨c.handle, m'⟩, ⟨b.handle, m⟩] ∨ s.plans.get k = [⟨b.handle, m⟩, ⟨c.handle, m'⟩]
  otherPlan : s.plans.get k.other = []
  stacked : s.stacked = ⟨[], []⟩
  unplaced : s.unplaced = []
  settled : s.Settled
  usable : s.usable k = true
  live : (s.tuners.get k).live = none
  working : (s.tuners.get k).state ≠ .failed
  other : s.usable k.other = false
  alone : v.station ≠ .joined
  depth : 1 ≤ v.cfg.depth
  started : b.prepareTime v ≤ v.clock
  ahead : v.clock < b.startTime
  more : v.clock < b.closeTime v
  own : c.cls ≠ .hosted
  busy : c.state = .preparing ∨ c.state = .recording ∨ c.state = .paused
  elsewhere : c.mux ≠ b.mux
  startedC : c.prepareTime v ≤ v.clock
  moreC : v.clock < c.closeTime v
  better : b.rank < c.rank
  allowed : v.auto c.cls b.cls = true ∨ m = true
  captures : ∀ y ∈ (s.tuners.get k).captures, y.handle = c.handle
  otherCaptures : ∀ y ∈ (s.tuners.get k.other).captures, y.handle ≠ c.handle
  armed : (c.suspended v).armed v = some (kc, dc)
  aheadC : v.clock < dc

namespace Displaces

variable {v : Base} {k : Tuner} {b c : Booking} {m m' : Bool} {kc : TrigKind} {dc : Nat} {s : Sched}

theorem alive (D : Displaces v k b c m m' kc dc s) : b.state ≠ .ended := by rw [D.planned]; exact nofun

theorem aliveC (D : Displaces v k b c m m' kc dc s) : c.state ≠ .ended := by
  rcases D.busy with e | e | e <;> rw [e] <;> exact nofun

theorem occupants (D : Displaces v k b c m m' kc dc s) : s.occupants k = [c] := by
  have waits : b.occupies = false := by
    unfold Booking.occupies
    rw [D.planned]
    rfl
  have occupies : c.occupies = true := by
    unfold Booking.occupies
    rcases D.busy with e | e | e <;> rw [e] <;> rfl
  rcases D.entries with e | e <;> simp [Sched.occupants, Sched.planBookings, e, D.found, D.foundC, waits, occupies]

theorem passes (D : Displaces v k b c m m' kc dc s) : s.checkPasses v b k = true := by
  have preempts : m = true → s.preempts b.handle = true := by
    rintro rfl
    have inK : (⟨b.handle, true⟩ : PlanEntry) ∈ s.plans.get k := by rcases D.entries with e | e <;> rw [e] <;> simp
    have inside : (⟨b.handle, true⟩ : PlanEntry) ∈ s.plans.a ++ s.plans.b := by
      cases k
      · exact List.mem_append_left _ inK
      · exact List.mem_append_right _ inK
    exact List.any_eq_true.mpr ⟨_, inside, by simp⟩
  refine Sched.checkPasses_of D.usable D.live ?_ ?_ <;> rw [D.occupants] <;> intro x inside <;>
    obtain rfl := List.mem_singleton.mp inside
  · exact D.elsewhere
  · exact ⟨D.better, D.allowed.imp_right preempts⟩

theorem conflicting (D : Displaces v k b c m m' kc dc s) : s.conflicting v b k = [c] := by
  unfold Sched.conflicting
  rw [D.occupants]
  simp [D.elsewhere, D.moreC]

/-- The state before its directives: the occupant is pushed and the booking PREPARING. -/
def after (v : Base) (k : Tuner) (b c : Booking) (kc : TrigKind) (dc : Nat) (s : Sched) : Sched :=
  (s.pushed v k .rank (some (b.handle, b.id)) c kc dc).prepares v b (s.plans.set k [⟨b.handle, false⟩])

theorem after_found (D : Displaces v k b c m m' kc dc s) : (after v k b c kc dc s).bk b.handle = some (b.prepared s.prepCtr) :=
  Sched.prepares_bk (s := s.pushed v k .rank (some (b.handle, b.id)) c kc dc)
    ((Sched.unseated_bk_other (v := v) (b := c) (kd := kc) (d := dc) D.apart.symm).trans D.found) D.alive _

theorem after_pushed (D : Displaces v k b c m m' kc dc s) : (after v k b c kc dc s).bk c.handle = some (c.suspended v) :=
  (Sched.prepares_bk_other (v := v) (s := s.pushed v k .rank (some (b.handle, b.id)) c kc dc) D.apart _).trans
    (Sched.unseated_bk (kd := kc) (d := dc) D.foundC D.aliveC)

theorem after_others {g : Nat} (notB : g ≠ b.handle) (notC : g ≠ c.handle) : (after v k b c kc dc s).bk g = s.bk g :=
  (Sched.prepares_bk_other (v := v) (s := s.pushed v k .rank (some (b.handle, b.id)) c kc dc) notB _).trans
    (Sched.unseated_bk_other (v := v) (b := c) (kd := kc) (d := dc) notC)

theorem after_get (D : Displaces v k b c m m' kc dc s) :
    (after v k b c kc dc s).tuners.get k = { s.tuners.get k with captures := [] } ∧
      (after v k b c kc dc s).tuners.get k.other = s.tuners.get k.other := by
  have gone : (s.tuners.get k).captures.filter (fun y => y.handle != c.handle) = [] := by
    rw [List.filter_eq_nil_iff]
    intro y inside
    simp [D.captures y inside]
  have kept : (s.tuners.get k.other).captures.filter (fun y => y.handle != c.handle) = (s.tuners.get k.other).captures :=
    List.filter_eq_self.mpr fun y inside => by simpa using D.otherCaptures y inside
  constructor
  · refine (Sched.leaveCapture_get s c.handle k).trans ?_
    rw [gone]
  · refine (Sched.leaveCapture_get s c.handle k.other).trans ?_
    rw [kept]

/-- The effects of PREPARE (R98, R99). -/
theorem fires (D : Displaces v k b c m m' kc dc s) :
    ∃ x, (Ev.of s).firePrepare v b.handle = { Ev.of (after v k b c kc dc s) with exam := x } := by
  obtain ⟨x, pushes⟩ := Ev.push_one (v := v) (e := Ev.of s) D.stacked D.unplaced D.foundC D.aliveC D.armed D.aheadC D.depth k .rank
    (some (b.handle, b.id))
  let p : Sched := s.pushed v k .rank (some (b.handle, b.id)) c kc dc
  let e : Ev := { Ev.of p with exam := x }
  let z : Sched := after v k b c kc dc s
  have foundP : p.bk b.handle = some b :=
    (Sched.unseated_bk_other (v := v) (b := c) (kd := kc) (d := dc) D.apart.symm).trans D.found
  have left : p.plans.get k = [⟨b.handle, m⟩] := by
    refine (Two.both_get _ _ k).trans ?_
    rcases D.entries with e | e <;> rw [e] <;> simp [D.apart.symm]
  have leftOther : p.plans.get k.other = [] := by
    refine (Two.both_get _ _ k.other).trans ?_
    rw [D.otherPlan]
    rfl
  have plans : (p.clearPreempts b.handle).plans = s.plans.set k [⟨b.handle, false⟩] :=
    (Sched.clearPreempts_plans left leftOther).trans (Two.set_congr (leftOther.trans D.otherPlan.symm) _)
  have prepares : (((e.on (Sched.clearPreempts b.handle)).enterPreparing v b.handle).on (Sched.offerMark v b.handle)).captureRule v
      b.handle = { Ev.of z with exam := x } := by
    rw [Ev.prepares_alone (e := e) foundP D.alive D.plan D.ahead]
    exact congrArg (fun l => ({ Ev.of (p.prepares v b l) with exam := x } : Ev)) plans
  have inPlan : b.prepared s.prepCtr ∈ z.planBookings k := by
    unfold Sched.planBookings
    rw [show z.plans.get k = [⟨b.handle, false⟩] from Two.get_set _ k _]
    exact List.mem_filterMap.mpr ⟨_, List.mem_singleton_self _, D.after_found⟩
  have ranks : (b.prepared s.prepCtr).rank ≤ (c.suspended v).unstartedRank := by
    have better := D.better
    rw [Booking.rank_eq, Booking.rank_eq, D.planned, if_neg (by simp), if_pos D.busy] at better
    rw [Booking.rank_eq, if_pos (.inl rfl)]
    show 1 + 2 * b.priority ≤ 2 + 2 * c.priority
    omega
  have unusable : z.usable k.other = false := by
    unfold Sched.usable
    rw [D.after_get.2]
    exact D.other
  have stays : ({ Ev.of z with exam := x } : Ev).placePushed v [c] = { Ev.of z with exam := x } :=
    Ev.placePushed_stays (e := { Ev.of z with exam := x }) D.after_pushed (Booking.not_hosted D.own) D.alone
      (Sched.choose_beside unusable inPlan D.started D.more D.startedC D.elsewhere.symm ranks)
  refine ⟨x, ?_⟩
  rw [Ev.firePrepare_passes (e := Ev.of s) D.found D.planned D.plan D.passes]
  exact (Ev.preparePassed_over (e := Ev.of s) D.conflicting D.own pushes prepares).trans stays

/-- Its directive: the tuner is sent to the booking's multiplex (R65, R66). -/
theorem revised (D : Displaces v k b c m m' kc dc s) : (after v k b c kc dc s).reviseAll v =
    { after v k b c kc dc s with
      tuners := s.tuners.set k (({ s.tuners.get k with captures := [] } : TunerRec).tuned v b.mux) } := by
  obtain ⟨record, kept⟩ := D.after_get
  have mux : (s.tuners.get k).directive.mux = some c.mux := by
    rw [((s.directiveStale_iff k).mp ((Sched.settled_iff s).mp D.settled k)).1]
    unfold Sched.neededMux Sched.bookingMux
    rw [D.live, D.occupants]
    rfl
  have entry : (after v k b c kc dc s).plans.get k = [⟨b.handle, false⟩] := Two.get_set _ k _
  rw [Sched.reviseAll_tunes (s := s) (mux := b.mux) (k := k) D.settled (by rw [record]; exact D.working)
    (Sched.neededMux_single (b := b.prepared s.prepCtr) entry D.after_found rfl (by rw [record]; exact D.live))
    (by rw [record]; exact fun same => D.elsewhere (Option.some.inj (mux.symm.trans same))) kept
    (by rw [Sched.occupants_none D.otherPlan, Sched.occupants_none ((Two.get_set_other _ k _).trans D.otherPlan)]), record]

/-- Nothing more follows. -/
theorem rests (D : Displaces v k b c m m' kc dc s) (x : Two Bool) :
    ({ Ev.of (after v k b c kc dc s) with exam := x } : Ev).Rests v := by
  have stack : (after v k b c kc dc s).stacked.get k = [⟨[c.handle], c.mux, v.clock, .rank, some (b.handle, b.id), false⟩] :=
    Two.get_set _ k _
  have otherStack : (after v k b c kc dc s).stacked.get k.other = [] :=
    (Two.get_set_other _ k _).trans (Two.get_of_empty D.stacked _)
  have still (j : Tuner) : (after v k b c kc dc s).Still j := by
    rcases Tuner.eq_or_other k j with rfl | rfl
    · exact Sched.still_standing stack rfl
    · exact Sched.still_of_empty otherStack
  exact ⟨fun _ => still .A, fun _ => still .B, nofun, nofun⟩

end Displaces

/-- PREPARE over one local occupant of a worse rank on another multiplex (R98, R99, R109 to R111). -/
theorem prepare_displaces (d dc : Nat) (m m' : Bool) (k : Tuner) (b c : Booking) (kc : TrigKind) (s : State)
    (high : s.resetLow = false) (trigger : s.sch.trigger b.handle = some ⟨b.handle, .prepare, d⟩)
    (D : Displaces (s.countTo (d * unit)).base k b c m m' kc dc s.sch) :
    let v := (s.countTo (d * unit)).base
    ∃ t, Happened (.prepare b.handle) s t ∧ t.base = v ∧ t.sch.bk b.handle = some (b.prepared s.sch.prepCtr) ∧
      t.sch.bk c.handle = some (c.suspended v) ∧ (∀ j, j ≠ b.handle → j ≠ c.handle → t.sch.bk j = s.sch.bk j) ∧
      t.sch =
        { s.sch with
          bookings := t.sch.bookings
          prepCtr := s.sch.prepCtr + 1
          plans := s.sch.plans.set k [⟨b.handle, false⟩]
          unplaced := [c.handle]
          stacked := s.sch.stacked.set k [⟨[c.handle], c.mux, v.clock, .rank, some (b.handle, b.id), false⟩]
          triggers := armedWith b.handle .start b.startTime (armedWith c.handle kc dc s.sch.triggers)
          tuners := s.sch.tuners.set k (({ s.sch.tuners.get k with captures := [] } : TunerRec).tuned v b.mux) } := by
  intro v
  obtain ⟨x, fires⟩ := D.fires
  obtain ⟨t, happened, base, sch⟩ := State.prepare_happened high trigger
    ((congrArg (Ev.settle v) fires).trans ((Ev.settle_rests (D.rests x) rfl).trans D.revised))
  refine ⟨t, happened, base, ?_, ?_, fun j notB notC => ?_, ?_⟩
  · rw [sch]
    exact D.after_found
  · rw [sch]
    exact D.after_pushed
  · rw [sch]
    exact Displaces.after_others notB notC
  · rw [sch]
    have queue : (Displaces.after v k b c kc dc s.sch).txq = s.sch.txq := Sched.markQueue_apart D.alone _ _
    exact congrArg (fun l => ({ Displaces.after v k b c kc dc s.sch with
      txq := l
      tuners := s.sch.tuners.set k (({ s.sch.tuners.get k with captures := [] } : TunerRec).tuned v b.mux) } : Sched)) queue

end Sys2Proof.Machine
end

section
/-! PREPARE whose check fails at a hosted booking, which is returned; PREPARE, settled. -/

namespace Sys2Proof.Machine

theorem Sched.free_modB (s : Sched) (h : Nat) (f : Booking → Booking) (handle : ∀ b, (f b).handle = b.handle) :
    (s.modB h f).bookings.filter (fun b => b.handle != h) = s.bookings.filter fun b => b.handle != h := by
  unfold Sched.modB
  dsimp only
  induction s.bookings with
  | nil => rfl
  | cons b rest ih =>
    rw [List.map_cons, List.filter_cons, List.filter_cons, ih]
    by_cases here : b.handle = h
    · have gone : ((if (b.handle == h && b.state != .ended) = true then f b else b).handle != h) = false := by
        split
        · rw [handle]
          simpa using here
        · simpa using here
      rw [gone, if_neg nofun, if_neg (by simpa using here)]
    · have same : (if (b.handle == h && b.state != .ended) = true then f b else b) = b := by
        rw [if_neg]
        simp [here]
      rw [same]

/-- The state without a booking, its RETURN offered (R171). -/
def Sched.handedBack (v : Base) (b : Booking) (r : ReturnReason) (s : Sched) : Sched :=
  { s with
    bookings := s.bookings.filter fun y => y.handle != b.handle
    plans := ⟨[], []⟩
    triggers := s.triggers.filter fun y => y.handle != b.handle
    txq := if v.station = .joined ∨ v.station = .leaving then
        queueAfter v b.rank (Booking.returnMsg v { b with segs := closeOpen v.clock b.segs } r) s.txq
      else s.txq }

/-- A RETURN is offered where the station is JOINED or LEAVING (R132, R171). -/
theorem Sched.offer_return (v : Base) (b : Booking) (r : ReturnReason) (rank : Nat) (s : Sched) :
    s.offer v rank (b.returnMsg v r) none = { s with
      txq := if v.station = .joined ∨ v.station = .leaving then queueAfter v rank (b.returnMsg v r) s.txq else s.txq } := by
  by_cases goes : v.station = .joined ∨ v.station = .leaving
  · rw [if_pos goes]
    exact Sched.offer_admitted rfl (by rcases goes with e | e <;> rw [e] <;> rfl) rank
  · rw [if_neg goes, Sched.offer_plain rfl, if_neg]
    rintro ⟨admits, -⟩
    rw [not_or] at goes
    cases state : v.station with
    | joined => exact goes.1 state
    | leaving => exact goes.2 state
    | _ =>
      rw [state] at admits
      cases admits

/-- A booking with two segments at most that stands on no list is handed back (R171). -/
theorem Ev.giveBack_plain {v : Base} {e : Ev} {b : Booking} (rest : e.s.AtRest) (plans : e.s.plans = ⟨[], []⟩)
    (found : e.s.bk b.handle = some b) (alive : b.state ≠ .ended) (few : b.segs.length ≤ 2)
    (referrals : ∀ x ∈ e.s.referrals, x.handle ≠ b.handle)
    (captures : ∀ u, ∀ y ∈ (e.s.tuners.get u).captures, y.handle ≠ b.handle) (r : ReturnReason) :
    ∃ x, e.giveBack v b.handle r = { e with s := e.s.handedBack v b r, exam := x } := by
  obtain ⟨x, left⟩ := Ev.closeSeg_leaveAll_atRest rest v b.handle v.clock
  obtain ⟨unplaced, -, seekQueue, -⟩ := rest
  let c : Sched := e.s.closeSeg b.handle v.clock
  have lists : (c.leaveLists b.handle).leaveSeek b.handle = c := by
    have none : c.leaveCapture b.handle = c := Sched.leaveCapture_none captures
    have refs : c.referrals.filter (fun x => x.handle != b.handle) = c.referrals :=
      List.filter_eq_self.mpr fun x inside => by simpa using referrals x inside
    unfold Sched.leaveLists Sched.leaveSeek
    rw [none, refs, show c.unplaced = [] from unplaced, show c.seekQueue = [] from seekQueue, show c.plans = _ from plans]
    show ({ c with plans := ⟨[], []⟩, unplaced := [], seekQueue := [] } : Sched) = c
    exact congrArg (fun p : Two (List PlanEntry) × List Nat × List SeekEntry =>
      ({ c with plans := p.1, unplaced := p.2.1, seekQueue := p.2.2 } : Sched))
      (Prod.ext (x := (⟨[], []⟩, [], [])) (y := (c.plans, c.unplaced, c.seekQueue)) plans.symm
        (Prod.ext unplaced.symm seekQueue.symm))
  refine ⟨x, ?_⟩
  unfold Ev.giveBack
  rw [found]
  dsimp only
  rw [if_neg alive, if_pos few, left, lists]
  dsimp only [Ev.on]
  rw [Sched.offer_return]
  have gone : (c.bookings.filter fun y => y.handle != b.handle) = e.s.bookings.filter fun y => y.handle != b.handle :=
    e.s.free_modB b.handle _ fun _ => rfl
  exact congrArg (fun p : List Booking × Two (List PlanEntry) =>
    ({ e with s := { e.s.handedBack v b r with bookings := p.1, plans := p.2 }, exam := x } : Ev))
    (Prod.ext (x := (c.bookings.filter fun y => y.handle != b.handle, c.plans)) (y := (_, ⟨[], []⟩)) gone plans)

/-- PREPARE on a hosted booking that no tuner can serve (R100, R171). -/
theorem prepare_returns (d : Nat) (m : Bool) (k : Tuner) (b : Booking) (s : State)
    (high : s.resetLow = false) (trigger : s.sch.trigger b.handle = some ⟨b.handle, .prepare, d⟩)
    (found : s.sch.bk b.handle = some b) (planned : b.state = .planned) (plan : b.plan = .tuner k)
    (otherPlan : s.sch.plans.get k.other = []) (settled : s.sch.Settled) (hosted : b.cls = .hosted) (few : b.segs.length ≤ 2)
    (unusable : ∀ j, s.sch.usable j = false) (entry : s.sch.plans.get k = [⟨b.handle, m⟩]) (rest : s.sch.AtRest)
    (referrals : ∀ x ∈ s.sch.referrals, x.handle ≠ b.handle)
    (captures : ∀ u, ∀ y ∈ (s.sch.tuners.get u).captures, y.handle ≠ b.handle) :
    ∃ t, Happened (.prepare b.handle) s t ∧ t.base = (s.countTo (d * unit)).base ∧
      t.sch = s.sch.handedBack (s.countTo (d * unit)).base b .capacity := by
  let v := (s.countTo (d * unit)).base
  have alive : b.state ≠ .ended := by rw [planned]; exact nofun
  have waits : b.occupies = false := by
    unfold Booking.occupies
    rw [planned]
    rfl
  obtain ⟨x, left⟩ := Ev.leavePlan_plain (e := Ev.of s.sch) rest.2.1 b.handle
  let y : Sched := { s.sch with plans := ⟨[], []⟩ }
  have leaves : (Ev.of s.sch).leavePlan b.handle = { Ev.of y with exam := x } :=
    left.trans (congrArg (fun l => ({ Ev.of { s.sch with plans := l } with exam := x } : Ev)) (Sched.plans_cleared entry otherPlan))
  have placed : ({ Ev.of y with exam := x } : Ev).place v (Open.failed k) b.handle =
      ({ Ev.of y with exam := x } : Ev).giveBack v b.handle .capacity := by
    rw [Ev.place_afterThree (e := { Ev.of y with exam := x }) found (Sched.choose_unusable (s := y) unusable v _ _ _ _)]
    unfold Ev.afterThree
    rw [b.hosted_iff.mpr hosted]
    rfl
  obtain ⟨w, back⟩ := Ev.giveBack_plain (v := v) (e := { Ev.of y with exam := x }) rest rfl found alive few referrals captures .capacity
  let z : Sched := s.sch.handedBack v b .capacity
  have fires : (Ev.of s.sch).firePrepare v b.handle = { Ev.of z with exam := w } := by
    rw [Ev.firePrepare_fails (e := Ev.of s.sch) found planned plan (unusable k), leaves, placed, back]
    rfl
  have nobody (j : Tuner) : s.sch.occupants j = [] := by
    rcases Tuner.eq_or_other k j with rfl | rfl
    · simp [Sched.occupants, Sched.planBookings, entry, found, waits]
    · exact Sched.occupants_none otherPlan
  have settledZ : z.Settled := settled.of_vacant rfl nobody (Sched.occupants_unplanned rfl)
  have rests : ({ Ev.of z with exam := w } : Ev).Rests v :=
    ⟨fun _ => Sched.still_of_empty (congrArg Two.a rest.2.1), fun _ => Sched.still_of_empty (congrArg Two.b rest.2.1), nofun, nofun⟩
  exact State.prepare_happened high trigger ((congrArg (Ev.settle v) fires).trans (Ev.settle_settled rests rfl settledZ))

theorem TunerRec.tuned_free {r : TunerRec} (live : r.live = none) (v : Base) (mux : Nat) : r.tuned v mux = { r with
    state := .tuning, captures := r.captures, unread := true
    directive := ⟨(r.directive.serial + 1) % 65536, some mux, none, r.captures⟩
    tuneTimer := some (v.now + v.cfg.tuneTimeout * unit, (r.directive.serial + 1) % 65536) } := by
  unfold TunerRec.tuned TunerRec.directed
  rw [live]
  rfl

/-- Settles O37: no trigger armed, a free tuner, an occupant displaced, and a check that fails. -/
theorem prepareStartsTuning : Obligations.PrepareStartsTuning := by
  intro h d m k b s high
  refine ⟨fun unarmed => ?_, fun trigger found planned plan otherPlan stacked unplaced settled => ?_⟩
  · refine (exec_trigger h .prepare s).trans (s.atInstant_stopped _ _ ?_)
    unfold State.armedAt
    cases armed : s.sch.trigger h with
    | none => rfl
    | some x => exact if_neg (unarmed x armed)
  · intro v r serial day short send now tuned
    obtain ⟨rfl, -⟩ := s.sch.bk_handle found
    refine ⟨?_, ?_, ?_⟩
    · intro usable live idle entry ahead series
      obtain ⟨t, happened, base, here, others, sch⟩ := prepare_free b.handle d m k b s high trigger found planned plan otherPlan
        settled usable live idle entry ahead
      refine ⟨t, happened, base, here, others, sch.trans ?_⟩
      have tunes : r.tuned v b.mux = { r with
          state := .tuning, captures := r.captures, unread := true, directive := ⟨serial, some b.mux, none, r.captures⟩
          tuneTimer := some (v.now + v.cfg.tuneTimeout * 4096000, serial) } := TunerRec.tuned_free live v b.mux
      exact congrArg (fun x => ({ s.sch with
        bookings := t.sch.bookings
        prepCtr := s.sch.prepCtr + 1
        plans := s.sch.plans.set k [⟨b.handle, false⟩]
        triggers := armedWith b.handle .start b.startTime s.sch.triggers
        txq := s.sch.markQueue v now
        tuners := s.sch.tuners.set k x } : Sched)) tunes
    · intro g dc m' kc c foundC apart entries usable live working other alone depth started ahead more own busy elsewhere startedC
        moreC better allowed captures otherCaptures c' armed aheadC
      obtain ⟨rfl, -⟩ := s.sch.bk_handle foundC
      obtain ⟨t, happened, base, here, pushed, others, sch⟩ := prepare_displaces d dc m m' k b c kc s high trigger
        ⟨found, foundC, apart, planned, plan, entries, otherPlan, stacked, unplaced, settled, usable, live, working, other, alone,
          depth, started, ahead, more, own, busy, elsewhere, startedC, moreC, better, allowed, captures, otherCaptures, armed, aheadC⟩
      refine ⟨t, happened, base, here, pushed, others, sch.trans ?_⟩
      have tunes : ({ r with captures := [] } : TunerRec).tuned v b.mux = { r with
          state := .tuning, captures := [], unread := true, directive := ⟨serial, some b.mux, none, []⟩
          tuneTimer := some (v.now + v.cfg.tuneTimeout * 4096000, serial) } :=
        TunerRec.tuned_free (r := { r with captures := [] }) live v b.mux
      exact congrArg (fun x => ({ s.sch with
        bookings := t.sch.bookings
        prepCtr := s.sch.prepCtr + 1
        plans := s.sch.plans.set k [⟨b.handle, false⟩]
        unplaced := [c.handle]
        stacked := s.sch.stacked.set k [⟨[c.handle], c.mux, v.clock, .rank, some (b.handle, b.id), false⟩]
        triggers := armedWith b.handle .start b.startTime (armedWith c.handle kc dc s.sch.triggers)
        tuners := s.sch.tuners.set k x } : Sched)) tunes
    · intro hosted few noA noB entry rest referrals captures back
      obtain ⟨t, happened, base, sch⟩ := prepare_returns d m k b s high trigger found planned plan otherPlan settled hosted few
        (Sched.usable_none noA noB) entry rest referrals captures
      have rank : b.rank = 2 + 2 * b.priority := by rw [Booking.rank_eq, planned, if_neg (by simp)]
      refine ⟨t, happened, base, sch.trans ?_⟩
      unfold Sched.handedBack
      rw [rank]
      rfl

end Sys2Proof.Machine
end

section
/-! RESTART: the base after it, and what it does to every scheduling state. -/

namespace Sys2Proof.Machine

theorem exec_restart (s : State) : exec .restart s = s.request 4 State.restart := rfl

/-! ## The base -/

theorem nextIncarnation_eq (n : Nat) : nextIncarnation n = if n < 255 then n + 1 else 1 := by
  unfold nextIncarnation
  split
  · rw [if_neg (by omega)]
  · rw [if_pos (by omega)]

/-- The base after a restart: a station that was JOINED or JOINING joins again, the others are DETACHED (R196). -/
theorem Base.restart_eq (v : Base) :
    v.restart =
      { v with
        station := if v.station = .joined ∨ v.station = .joining then .joining else .detached
        incarnation := if v.incarnation < 255 then v.incarnation + 1 else 1
        joinTimer := if v.station = .joined ∨ v.station = .joining then some (v.now + 3 * v.cfg.rollPeriod * 4096000) else none
        leaveTimer := none
        rollTimer := if v.station = .joined ∨ v.station = .joining then some (v.now + v.cfg.rollPeriod * 4096000) else none
        leavingSent := false
        peers := Peer.emptyTable v.cfg.station } := by
  rw [← nextIncarnation_eq]
  cases station : v.station <;> simp [Base.restart, station, StationState.restarted] <;> rfl

theorem Base.restart_station (v : Base) :
    v.restart.station = if v.station = .joined ∨ v.station = .joining then .joining else .detached := by
  rw [v.restart_eq]

theorem State.restart_result (s : State) :
    byte s.base.restart.station.code ++ byte s.base.restart.incarnation =
      [if s.base.station = .joined ∨ s.base.station = .joining then 1 else 0,
        BitVec.ofNat 8 (if s.base.incarnation < 255 then s.base.incarnation + 1 else 1)] := by
  rw [s.base.restart_eq, byte_eq_field1, byte_eq_field1]
  split
  · rfl
  · rfl

/-! ## What it does to every state -/

/-- The state that the parts after the first find (R135, R181). -/
def Sched.restarting (s : Sched) : Sched := s.emptyQueue.brokerRestart

theorem State.Takes.restarts {s : State} (takes : s.Takes) :
    ∃ t, Answered .restart s t .ok
        [if s.base.station = .joined ∨ s.base.station = .joining then 1 else 0,
          BitVec.ofNat 8 (if s.base.incarnation < 255 then s.base.incarnation + 1 else 1)] ∧
      t.base = s.base.restart ∧ t.sch = s.sch.restarting.event s.base.restart (Ev.restartAll s.base) := by
  obtain ⟨t, answered, base, sch⟩ := takes.answers
    (t := { s with base := s.base.restart, sch := s.sch.restarting }.event (Ev.restartAll s.base))
    rfl (exec_restart s) rfl ((s.beside_of _ _).trans (State.beside_event _ _))
  rw [s.restart_result] at answered
  exact ⟨t, answered, base.trans rfl, sch.trans (State.event_sch _ _)⟩

/-- Entry into DETACHED is within the relation where no MARK is kept. -/
theorem Ev.evolves_enterDetached {d : Nat} (v : Base) {e : Ev} (marks : e.s.marks = []) :
    e.s.EvolvesIn d (e.enterDetached v).s := by
  let x : Ev := (e.on Sched.emptyQueue).endSeeking v
  have before : e.s.EvolvesIn d x.s := e.s.evolves_emptyQueue.trans (Ev.evolves_endSeeking v (e.on Sched.emptyQueue))
  have kept : { x.s.dropHolds with marks := [] } = x.s.dropHolds :=
    congrArg (fun l => { x.s.dropHolds with marks := l }) (before.marks.trans marks).symm
  have dropped : (x.on fun s => { s.dropHolds with marks := [] }) = x.on Sched.dropHolds := Ev.on_congr kept
  unfold Ev.enterDetached Ev.brokerDetached
  dsimp only
  rw [show (e.on Sched.emptyQueue).endSeeking v = x from rfl, dropped]
  refine before.trans ?_
  refine x.s.evolves_dropHolds.trans ?_
  exact (x.s.dropHolds.evolves_orphan .detached fun _ => true).trans
    (Ev.evolves_lostBookings v _ ((x.on Sched.dropHolds).on fun s => s.orphan .detached fun _ => true))

theorem Ev.evolves_restartStation {d : Nat} (v : Base) (was : StationState) {e : Ev} (marks : e.s.marks = []) :
    e.s.EvolvesIn d (e.restartStation v was).s := by
  have joins : e.s.EvolvesIn d ((e.on Sched.emptyQueue).on (Sched.offerRoll v)).s :=
    e.s.evolves_emptyQueue.trans (Sched.evolves_offerRoll v _)
  have leaves : e.s.EvolvesIn d ((e.enterDetached v).finish v).s :=
    (Ev.evolves_enterDetached v marks).trans (Ev.evolves_finish v _)
  cases was with
  | joined => exact joins
  | joining => exact joins
  | leaving => exact leaves
  | isolated => exact leaves
  | detached => exact .refl _

theorem Ev.evolves_restartAll (v : Base) {e : Ev} (marks : e.s.marks = []) :
    e.s.EvolvesIn v.cfg.depth (e.restartAll v).s := by
  have parts : e.s.EvolvesIn v.cfg.depth (e.restart v.restarting).s := Ev.evolves_restart v.restarting e
  have stationed := parts.trans (Ev.evolves_restartStation v.restart v.station (parts.marks.trans marks))
  unfold Ev.restartAll
  dsimp only
  split
  · exact stationed
  · exact stationed.trans (Sched.evolves_notice _ _)

theorem Sched.restarting_evolves (s : Sched) (v : Base) :
    s.restarting.Evolves (s.restarting.event v.restart (Ev.restartAll v)) := by
  refine (Sched.evolves_event v.restart _ s.restarting ?_).toEvolves
  rw [v.restart_cfg]
  exact Ev.evolves_restartAll v (e := Ev.of s.restarting) rfl

end Sys2Proof.Machine
end

section
/-! The tuners in a RESTART: their directives, the budget marks, and what the departures tell. -/

namespace Sys2Proof.Machine

/-! ## The tuner's record after the directive of a restart -/

/-- A tuner's record after a restart: UNKNOWN under a new directive of its multiplex, or IDLE under one of none (R85). -/
def TunerRec.again (v : Base) (mux : Option Nat) (r : TunerRec) : TunerRec where
  state := if mux.isSome then .unknown else .idle
  captures := []
  live := none
  directive := ⟨(r.directive.serial + 1) % 65536, mux, none, []⟩
  unread := true
  tuneTimer := mux.map fun _ => (v.now + v.cfg.tuneTimeout * unit, (r.directive.serial + 1) % 65536)
  recheck := none
  marks := { r.marks with signal := false }

theorem TunerRec.restart_eq (v : Base) (mux : Option Nat) (r : TunerRec) : r.restart v mux = r.again v mux := by
  cases mux with
  | none => rfl
  | some m =>
    unfold TunerRec.restart TunerRec.issue
    simp [TunerRec.again]

/-- The two records after a restart with both tuners fitted, from what the bookings need. -/
def Sched.redirected (v : Base) (s : Sched) : Sched :=
  { s with tuners := ⟨s.tuners.a.again v (s.bookingMux .A), s.tuners.b.again v (s.bookingMux .B)⟩ }

theorem Sched.restartTuners_both {v : Base} (fitted : v.cfg.fitted = 2) (s : Sched) :
    s.restartTuners v = s.redirected v := by
  have tuners : v.fittedTuners = [.A, .B] := by simp [Base.fittedTuners, fitted]
  let x : Sched := { s with tuners := s.tuners.both fun r => { r with live := none } }
  let y : Sched := x.modTuner .A (TunerRec.restart v (x.neededMux .A))
  have first : x.neededMux .A = s.bookingMux .A := Sched.neededMux_of_idle (s := x) (k := .A) rfl
  have second : y.neededMux .B = s.bookingMux .B := Sched.neededMux_of_idle (s := y) (k := .B) rfl
  unfold Sched.restartTuners
  rw [tuners]
  show y.modTuner .B (TunerRec.restart v (y.neededMux .B)) = _
  rw [second, show y = x.modTuner .A (TunerRec.restart v (x.neededMux .A)) from rfl, first]
  unfold Sched.redirected
  rw [← TunerRec.restart_eq, ← TunerRec.restart_eq]
  rfl

/-- Whatever is fitted, only tuner records change. -/
theorem Sched.restartTuners_eq (v : Base) (s : Sched) : ∃ t, s.restartTuners v = { s with tuners := t } := by
  have each : ∀ (l : List Tuner) (x : Sched), ∃ t,
      l.foldl (fun s k => s.modTuner k (TunerRec.restart v (s.neededMux k))) x = { x with tuners := t } := by
    intro l
    induction l with
    | nil => exact fun x => ⟨x.tuners, rfl⟩
    | cons k l ih =>
      intro x
      obtain ⟨t, rest⟩ := ih (x.modTuner k (TunerRec.restart v (x.neededMux k)))
      exact ⟨t, rest⟩
  obtain ⟨t, changed⟩ := each v.fittedTuners { s with tuners := s.tuners.both fun r => { r with live := none } }
  exact ⟨t, changed⟩

theorem Sched.budgetMarks_eq (v : Base) (s : Sched) : ∃ t, s.budgetMarks v = { s with tuners := t } := by
  have each (f : Tuner → TunerRec → TunerRec) : ∀ (l : List Tuner) (x : Sched), ∃ t,
      l.foldl (fun s k => s.modTuner k (f k)) x = { x with tuners := t } := by
    intro l
    induction l with
    | nil => exact fun x => ⟨x.tuners, rfl⟩
    | cons k l ih =>
      intro x
      obtain ⟨t, rest⟩ := ih (x.modTuner k (f k))
      exact ⟨t, rest⟩
  exact each (fun k r => { r with marks := { r.marks with budget := !(s.kept v).contains k } }) _ s

/-! ## The budget marks after the directives -/

theorem Sched.redirected_candidates {v : Base} (fitted : v.cfg.fitted = 2) (s : Sched) :
    (s.redirected v).candidates v = [.A, .B] := by
  have alive (r : TunerRec) (mux : Option Nat) : (r.again v mux).state ≠ .failed := by
    cases mux <;> exact nofun
  exact Sched.candidates_both fitted (alive _ _) (alive _ _)

/-- A record with its BUDGET mark set or cleared. -/
def TunerRec.budgeted (out : Bool) (r : TunerRec) : TunerRec := { r with marks := { r.marks with budget := out } }

/-- The records after the choice that follows the directives, with a budget of 2 or of none. -/
def Sched.rebudgeted (v : Base) (s : Sched) : Sched :=
  { s with tuners :=
    ⟨((s.redirected v).tuners.a).budgeted (s.budget == 0), ((s.redirected v).tuners.b).budgeted (s.budget == 0)⟩ }

theorem Sched.redirected_budgetMarks {v : Base} (fitted : v.cfg.fitted = 2) {s : Sched} (budget : s.budget = 2 ∨ s.budget = 0) :
    (s.redirected v).budgetMarks v = s.rebudgeted v := by
  have both := s.redirected_candidates fitted
  have kept (k : Tuner) : (!((s.redirected v).kept v).contains k) = (s.budget == 0) := by
    unfold Sched.kept
    dsimp only
    rw [both, show (s.redirected v).budget = s.budget from rfl]
    rcases budget with e | e <;> rw [e] <;> cases k <;> rfl
  unfold Sched.budgetMarks
  dsimp only
  rw [both]
  simp only [kept]
  rfl

/-! ## Departures with nothing planned -/

/-- Only tuner records and notices have changed, and the usable set has not. -/
def Ev.Hushed (e e' : Ev) : Prop :=
  (∃ t n o, e' = e.on fun s => { s with tuners := t, notices := n, overflow := o }) ∧ ∀ k, e'.s.usable k = e.s.usable k

theorem Ev.Hushed.refl (e : Ev) : e.Hushed e := ⟨⟨e.s.tuners, e.s.notices, e.s.overflow, rfl⟩, fun _ => rfl⟩

theorem Ev.Hushed.trans {e e' e'' : Ev} (h : e.Hushed e') (k : e'.Hushed e'') : e.Hushed e'' := by
  obtain ⟨⟨t, n, o, rfl⟩, same⟩ := h
  obtain ⟨⟨t', n', o', rfl⟩, same'⟩ := k
  exact ⟨⟨t', n', o', rfl⟩, fun j => (same' j).trans (same j)⟩

theorem Sched.notice_eq (n : Notice) (s : Sched) : ∃ l o, s.notice n = { s with notices := l, overflow := o } := by
  unfold Sched.notice
  split
  · exact ⟨_, s.overflow, rfl⟩
  · exact ⟨s.notices, _, rfl⟩

theorem Ev.hushed_notice (e : Ev) (n : Notice) : e.Hushed (e.on fun s => s.notice n) := by
  obtain ⟨l, o, told⟩ := e.s.notice_eq n
  have same : (e.on fun s => s.notice n) = e.on fun s => { s with notices := l, overflow := o } := Ev.on_congr told
  rw [same]
  exact ⟨⟨e.s.tuners, l, o, rfl⟩, fun _ => rfl⟩

theorem Ev.hushed_modTuner {k : Tuner} {f : TunerRec → TunerRec} (e : Ev)
    (marks : (f (e.s.tuners.get k)).marks.none = (e.s.tuners.get k).marks.none) :
    e.Hushed (e.on fun s => s.modTuner k f) := by
  refine ⟨⟨_, e.s.notices, e.s.overflow, rfl⟩, fun j => ?_⟩
  rcases Tuner.eq_or_other k j with rfl | rfl
  · exact (congrArg (fun r : TunerRec => r.marks.none) (Two.get_mod _ _ f)).trans marks
  · exact congrArg (fun r : TunerRec => r.marks.none) (Sched.modTuner_get_other e.s k f)

theorem TunerRec.issue_marks (v : Base) (mux : Option Nat) (r : TunerRec) : (r.issue v mux).marks = r.marks := by
  unfold TunerRec.issue
  dsimp only
  split <;> (try split) <;> rfl

theorem Ev.hushed_release (v : Base) (k : Tuner) (e : Ev) : e.Hushed (e.on (Sched.release v k)) := by
  by_cases fitted : (e.s.tuners.get k).marks.fitted = true
  · have gone : e.on (Sched.release v k) = e.on fun s => s.modTuner k TunerRec.unfit := Ev.on_congr (if_pos fitted)
    rw [gone]
    refine e.hushed_modTuner ?_
    simp [Marks.none, TunerRec.unfit, fitted]
  · have revised : e.on (Sched.release v k) = e.on fun s => s.revise v k := Ev.on_congr (if_neg fitted)
    rw [revised]
    by_cases stale : e.s.directiveStale k = true
    · have issued : (e.on fun s => s.revise v k) = e.on fun s => s.modTuner k (TunerRec.issue v (e.s.neededMux k)) :=
        Ev.on_congr (if_pos stale)
      rw [issued]
      exact e.hushed_modTuner (by rw [TunerRec.issue_marks])
    · have same : (e.on fun s => s.revise v k) = e := Ev.on_congr (g := id) (if_neg stale)
      rw [same]
      exact .refl e

/-- A tuner with nothing planned that leaves the usable set changes no more than that. -/
theorem Ev.hushed_leaveUsable {e : Ev} {k : Tuner} (plan : e.s.plans.get k = []) (v : Base) (cause : PushReason) :
    e.Hushed (e.leaveUsable v k cause) := by
  rw [Ev.leaveUsable_unplanned plan]
  refine Ev.Hushed.trans (e.hushed_modTuner ?_) ((Ev.hushed_release v k _).trans (Ev.hushed_notice _ _))
  rfl

theorem Ev.Hushed.plans {e e' : Ev} (h : e.Hushed e') : e'.s.plans = e.s.plans := by
  obtain ⟨⟨t, n, o, rfl⟩, -⟩ := h
  rfl

theorem Ev.hushed_departures (v : Base) (cause : PushReason) : ∀ (l : List Tuner) (e : Ev), e.s.plans = ⟨[], []⟩ →
    e.Hushed (l.foldl (fun e k => e.leaveUsable v k cause) e)
  | [], e, _ => .refl e
  | k :: l, e, plans => by
    have plan : e.s.plans.get k = [] := by rw [plans]; cases k <;> rfl
    have first := Ev.hushed_leaveUsable plan v cause
    exact first.trans (Ev.hushed_departures v cause l _ (first.plans.trans plans))

end Sys2Proof.Machine
end

section
/-! The parts of a RESTART where nothing is on a stack, and what stands through the change of the station state. -/

namespace Sys2Proof.Machine

/-! ## The causes and the re-try -/

theorem Ev.endCauses_empty {e : Ev} (stacked : e.s.stacked = ⟨[], []⟩) (k : Tuner) (p : PushReason → Bool) :
    e.endCauses k p = e.askExam k := by
  let f : StackRec → StackRec := fun r => if p r.reason then { r with causeEnded := true } else r
  have same : { e.s with stacked := e.s.stacked.mod k (List.map f) } = e.s := by
    rw [show e.s.stacked.mod k (List.map f) = e.s.stacked by rw [stacked]; exact Two.mod_empty k rfl]
  have still : (e.on fun s => { s with stacked := s.stacked.mod k (List.map f) }) = e := Ev.on_congr (g := id) same
  unfold Ev.endCauses
  rw [still]

/-- The tuners that leave the usable set between two states, and those that enter it. -/
def leavers (before after : Tuner → Bool) : List Tuner := [Tuner.A, .B].filter fun t => before t && !after t

def enterers (before after : Tuner → Bool) : List Tuner := [Tuner.A, .B].filter fun t => !before t && after t

/-- The parts of a restart after the bookings and the departures (R196), with the stacks empty and the re-try of the
rebuilt list without effect. -/
theorem Ev.restart_departed {v : Base} {e x y z : Ev} (treated : (e.s.bookings.map (·.handle)).foldl (Ev.restartBooking v) e = x)
    (marked : (x.on (Sched.restartTuners v)).on (Sched.budgetMarks v) = y)
    (departed : (leavers e.s.usable y.s.usable).foldl (fun e t => e.leaveUsable v t .limit) y = z)
    (stacked : z.s.stacked = ⟨[], []⟩) (seekQueue : z.s.seekQueue = []) (noRetry : z.s.rebuildUnplaced.NoRetry v false)
    (calm : z.retry = none) :
    e.restart v = ((enterers e.s.usable y.s.usable).foldl (fun e t => e.on (Sched.usableNotice t false))
      (z.on Sched.rebuildUnplaced).asked).armAll v := by
  have ends (w : Ev) (k : Tuner) (none : w.s.stacked = ⟨[], []⟩) : w.restartCauses k = w.askExam k :=
    Ev.endCauses_empty none k fun p => p == .live || (w.s.usable k && (p == .limit || p == .signal))
  have causes : [Tuner.A, .B].foldl Ev.restartCauses z = (z.askExam .A).askExam .B := by
    show (z.restartCauses .A).restartCauses .B = _
    rw [ends z .A stacked]
    exact ends (z.askExam .A) .B stacked
  have rests : ((((z.askExam .A).askExam .B).on Sched.rebuildUnplaced).askRetry false).Rests v := by
    refine ⟨fun _ => Sched.still_of_empty ?_, fun _ => Sched.still_of_empty ?_, fun keep asked => ?_,
      fun _ => Sched.noLook_of_empty seekQueue⟩
    · show z.s.stacked.get .A = []
      rw [stacked]
      rfl
    · show z.s.stacked.get .B = []
      rw [stacked]
      rfl
    · have keeps : some (match z.retry with | some k => k && false | none => false) = some keep := asked
      rw [calm] at keeps
      cases keeps
      exact noRetry
  unfold Ev.restart
  dsimp only
  rw [treated, marked]
  rw [show ([Tuner.A, .B].filter fun t => e.s.usable t && !y.s.usable t) = leavers e.s.usable y.s.usable from rfl, departed,
    causes, Ev.finish_rests rests]
  rfl

/-! ## The notices of the tuners that enter -/

/-- Only notices are told. -/
def Ev.Tells (e e' : Ev) : Prop := ∃ n o, e' = e.on fun s => { s with notices := n, overflow := o }

theorem Ev.tells_arrivals : ∀ (l : List Tuner) (e : Ev),
    e.Tells (l.foldl (fun e t => e.on (Sched.usableNotice t false)) e)
  | [], e => ⟨e.s.notices, e.s.overflow, rfl⟩
  | k :: l, e => by
    obtain ⟨n, o, told⟩ := e.s.notice_eq (.usable k (e.s.tuners.get k).marks.none (e.s.tuners.get k).marks
      (e.s.tuners.get k).state false)
    have first : e.on (Sched.usableNotice k false) = e.on fun s => { s with notices := n, overflow := o } := Ev.on_congr told
    obtain ⟨n', o', rest⟩ := Ev.tells_arrivals l (e.on fun s => { s with notices := n, overflow := o })
    refine ⟨n', o', ?_⟩
    rw [List.foldl_cons, first, rest]
    rfl

theorem Sched.inSpanOrder_congr {s t : Sched} (bookings : t.bookings = s.bookings) (l : List Nat) :
    t.inSpanOrder l = s.inSpanOrder l := by
  have record (g : Nat) : t.bk g = s.bk g := by unfold Sched.bk; rw [bookings]
  have insert (h : Nat) : ∀ l, t.insertHandle h l = s.insertHandle h l := by
    intro l
    induction l with
    | nil => rfl
    | cons x rest ih =>
      unfold Sched.insertHandle
      rw [record, record, ih]
  have inserts : (fun acc h => t.insertHandle h acc) = fun acc h => s.insertHandle h acc := by
    funext acc h
    exact insert h acc
  unfold Sched.inSpanOrder
  rw [inserts]

/-- With nothing planned the departures change no more than tuner records and notices. -/
theorem Ev.restart_unplanned {v : Base} {e x y : Ev}
    (treated : (e.s.bookings.map (·.handle)).foldl (Ev.restartBooking v) e = x)
    (marked : (x.on (Sched.restartTuners v)).on (Sched.budgetMarks v) = y) (bare : y.s.plans = ⟨[], []⟩)
    (stacked : y.s.stacked = ⟨[], []⟩) (seekQueue : y.s.seekQueue = [])
    (noRetry : ∀ z, y.Hushed z → z.s.rebuildUnplaced.NoRetry v false) (calm : y.retry = none) :
    ∃ t n o, e.restart v =
      ((y.on fun s => { s.rebuildUnplaced with tuners := t, notices := n, overflow := o }).asked).armAll v := by
  have hushed := Ev.hushed_departures v .limit (leavers e.s.usable y.s.usable) y bare
  have quiet := noRetry _ hushed
  obtain ⟨⟨t, n, o, departed⟩, -⟩ := hushed
  rw [departed] at quiet
  have parts := Ev.restart_departed treated marked departed stacked seekQueue quiet calm
  obtain ⟨n', o', told⟩ := Ev.tells_arrivals (enterers e.s.usable y.s.usable)
    ((y.on fun s => { s with tuners := t, notices := n, overflow := o }).on Sched.rebuildUnplaced).asked
  rw [told] at parts
  let w : Sched := { y.s with tuners := t, notices := n, overflow := o }
  have order (l : List Nat) : w.inSpanOrder l = y.s.inSpanOrder l := Sched.inSpanOrder_congr (s := y.s) (t := w) rfl l
  have rebuilt : w.rebuildUnplaced = { y.s.rebuildUnplaced with tuners := t, notices := n, overflow := o } := by
    unfold Sched.rebuildUnplaced
    rw [order]
  rw [show (y.on fun s => { s with tuners := t, notices := n, overflow := o }).on Sched.rebuildUnplaced =
    y.on fun s => { s.rebuildUnplaced with tuners := t, notices := n, overflow := o } from
      congrArg (fun s => { y with s := s }) rebuilt] at parts
  exact ⟨t, n', o', parts⟩

theorem leavers_usable {before after : Tuner → Bool} (usable : ∀ k, after k = true) : leavers before after = [] := by
  simp [leavers, usable]

/-- With every tuner usable after the marks there is no departure. -/
theorem Ev.restart_usable {v : Base} {e x y : Ev}
    (treated : (e.s.bookings.map (·.handle)).foldl (Ev.restartBooking v) e = x)
    (marked : (x.on (Sched.restartTuners v)).on (Sched.budgetMarks v) = y) (usable : ∀ k, y.s.usable k = true)
    (stacked : y.s.stacked = ⟨[], []⟩) (seekQueue : y.s.seekQueue = [])
    (noRetry : y.s.rebuildUnplaced.NoRetry v false) (calm : y.retry = none) :
    ∃ n o, e.restart v =
      ((y.on fun s => { s.rebuildUnplaced with notices := n, overflow := o }).asked).armAll v ∧
        ((∀ k, e.s.usable k = true) → n = y.s.notices ∧ o = y.s.overflow) := by
  have departed : (leavers e.s.usable y.s.usable).foldl (fun e t => e.leaveUsable v t .limit) y = y := by
    rw [leavers_usable usable]
    rfl
  have parts := Ev.restart_departed treated marked departed stacked seekQueue noRetry calm
  by_cases all : ∀ k, e.s.usable k = true
  · have nobody : enterers e.s.usable y.s.usable = [] := by simp [enterers, all]
    rw [nobody] at parts
    exact ⟨y.s.notices, y.s.overflow, parts, fun _ => ⟨rfl, rfl⟩⟩
  · obtain ⟨n, o, told⟩ := Ev.tells_arrivals (enterers e.s.usable y.s.usable) (y.on Sched.rebuildUnplaced).asked
    rw [told] at parts
    exact ⟨n, o, parts, fun h => absurd h all⟩

/-! ## What stands through the change of the station state -/

/-- The fields that the change of the station state keeps where the seek queue is empty and no station stands with a booking. -/
def Sched.standing (s : Sched) :=
  ((s.bookings, s.plans, s.stacked, s.unplaced), s.seekQueue, s.engine, s.triggers, s.tuners)

theorem Sched.standing_notice (n : Notice) (s : Sched) : (s.notice n).standing = s.standing := by
  obtain ⟨l, o, told⟩ := s.notice_eq n
  rw [told]
  rfl

theorem Sched.standing_offer (v : Base) (rank : Nat) (m : Msg) (b : Option Nat) (s : Sched) :
    (s.offer v rank m b).standing = s.standing := by
  unfold Sched.offer
  split
  · rfl
  · rfl
  · rfl
  · split <;> rfl

theorem Sched.standing_orphan (cause : OrphanCause) (p : TallyRec → Bool) (s : Sched) :
    (s.orphan cause p).standing = s.standing := by
  have each : ∀ (l : List TallyRec) (s : Sched),
      (l.foldl (fun s r => s.notice (.orphan r.id r.outcome cause)) s).standing = s.standing := by
    intro l
    induction l with
    | nil => exact fun _ => rfl
    | cons r l ih => exact fun s => (ih _).trans (s.standing_notice _)
  exact each _ _

/-- The parts that a change of the station state may undo are absent. -/
structure Sched.Stands (v : Base) (s : Sched) : Prop where
  seekQueue : s.seekQueue = []
  alone : (v.station ≠ .leaving ∧ v.station ≠ .isolated) ∨ ∀ b ∈ s.bookings, b.state ≠ .lent ∧ b.state ≠ .covered

theorem Ev.brokerDetached_standing {v : Base} {s : Sched} (seekQueue : s.seekQueue = [])
    (nobody : ∀ b ∈ s.bookings, b.state ≠ .lent ∧ b.state ≠ .covered) :
    ∃ t, (Ev.of s).enterDetached v = Ev.of t ∧ t.standing = s.standing := by
  let x : Sched := { s.emptyQueue.dropHolds with marks := [] }
  have endless : (Ev.of s.emptyQueue).endSeeking v = Ev.of s.emptyQueue := Ev.endSeeking_empty seekQueue
  have standing : (x.orphan .detached fun _ => true).standing = s.standing := x.standing_orphan _ _
  have bookings : (x.orphan .detached fun _ => true).bookings = s.bookings := congrArg (·.1.1) standing
  refine ⟨x.orphan .detached fun _ => true, ?_, standing⟩
  unfold Ev.enterDetached Ev.brokerDetached
  rw [show (Ev.of s).on Sched.emptyQueue = Ev.of s.emptyQueue from rfl, endless]
  refine Ev.lostBookings_none (e := Ev.of (x.orphan .detached fun _ => true)) fun b mem => ?_
  have inside : b ∈ s.bookings := bookings ▸ mem
  rw [Bool.eq_false_iff, Ne, b.standsWith_iff]
  rintro ⟨n, -, ⟨lent, -⟩ | ⟨covered, -⟩⟩
  · exact (nobody b inside).1 lent
  · exact (nobody b inside).2 covered

theorem Ev.restartStation_standing {v w : Base} {s : Sched} (stands : s.Stands v) :
    ∃ t, (Ev.of s).restartStation w v.station = Ev.of t ∧ t.standing = s.standing := by
  have joins : ((s.emptyQueue).offerRoll w).standing = s.standing := s.emptyQueue.standing_offer w _ _ _
  have leaves (changes : v.station = .leaving ∨ v.station = .isolated) :
      ∃ t, ((Ev.of s).enterDetached w).finish w = Ev.of t ∧ t.standing = s.standing := by
    have nobody := stands.alone.resolve_left fun ⟨l, i⟩ => changes.elim l i
    obtain ⟨t, entered, standing⟩ := Ev.brokerDetached_standing (v := w) stands.seekQueue nobody
    refine ⟨t, ?_, standing⟩
    rw [entered, Ev.finish_rests (Ev.rests_quiet rfl rfl rfl)]
    rfl
  cases station : v.station with
  | joined => exact ⟨_, rfl, joins⟩
  | joining => exact ⟨_, rfl, joins⟩
  | leaving => exact leaves (.inl station)
  | isolated => exact leaves (.inr station)
  | detached => exact ⟨s, rfl, rfl⟩

/-- A restart whose parts 4 to 8 come to rest ends with the directives still due. -/
theorem Ev.restartAll_standing {v u : Base} {e : Ev} {s : Sched} (restarted : e.restart v.restarting = Ev.of s)
    (stands : s.Stands v) : ∃ t : Sched, (e.restartAll v).settle u = t.reviseAll u ∧ t.standing = s.standing := by
  obtain ⟨t, stationed, standing⟩ := Ev.restartStation_standing (w := v.restart) stands
  have settled (t : Sched) : (Ev.of t).settle u = t.reviseAll u := Ev.settle_rests (Ev.rests_quiet rfl rfl rfl) rfl
  unfold Ev.restartAll
  dsimp only
  rw [restarted, stationed]
  split
  · exact ⟨t, settled t, standing⟩
  · exact ⟨_, settled _, (t.standing_notice _).trans standing⟩

end Sys2Proof.Machine
end

section
/-! RESTART with no booking in the table, and with one that a tuner or another station holds, or that seeks. -/

namespace Sys2Proof.Machine

/-! ## Every station -/

/-- The base and the fields that a restart keeps in every state. -/
theorem State.restart_keeps (s : State) (takes : s.Takes) :
    let joins := s.base.station = .joined ∨ s.base.station = .joining
    let n := if s.base.incarnation < 255 then s.base.incarnation + 1 else 1
    ∃ t, Answered .restart s t .ok [if joins then 1 else 0, BitVec.ofNat 8 n] ∧
      t.base =
        { s.base with
          station := if joins then .joining else .detached
          incarnation := n
          joinTimer := if joins then some (s.base.now + 3 * s.base.cfg.rollPeriod * 4096000) else none
          leaveTimer := none
          rollTimer := if joins then some (s.base.now + s.base.cfg.rollPeriod * 4096000) else none
          leavingSent := false
          peers := Peer.emptyTable s.base.cfg.station } ∧
      s.sch.notices <+: t.sch.notices ∧ s.sch.pendingOutcomes <+: t.sch.pendingOutcomes ∧
      t.sch.orderCtr = s.sch.orderCtr ∧ t.sch.serialCtr = s.sch.serialCtr ∧ t.sch.linkCtr = s.sch.linkCtr ∧
      t.sch.budget = s.sch.budget ∧ t.sch.marks = [] ∧ t.sch.links.map Link.fixed = s.sch.links.map Link.fixed ∧
      ∀ b ∈ t.sch.bookings, ∃ a ∈ s.sch.bookings, b.fixed = a.fixed := by
  obtain ⟨t, answered, base, sch⟩ := takes.restarts
  have kept := s.sch.restarting_evolves s.base
  rw [← sch] at kept
  exact ⟨t, answered, base.trans s.base.restart_eq, kept.notices, kept.pendingOutcomes, kept.orderCtr, kept.serialCtr,
    kept.linkCtr, kept.budget, kept.marks, kept.links, kept.bookings⟩

/-! ## No booking -/

theorem Ev.armAll_none {v : Base} {e : Ev} (none : e.s.bookings = []) : e.armAll v = e := by
  unfold Ev.armAll
  rw [none]
  rfl

theorem Sched.rebuildUnplaced_none {s : Sched} (none : s.bookings = []) (unplaced : s.unplaced = []) :
    s.rebuildUnplaced = s := by
  let waits (b : Booking) : Bool := b.state == .waiting || b.state == .suspended
  have list : s.inSpanOrder ((s.bookings.filter waits).map (·.handle)) = s.unplaced := by
    rw [none, unplaced]
    rfl
  exact congrArg (fun l => { s with unplaced := l }) list

theorem Sched.bookingMux_none {s : Sched} (plans : s.plans = ⟨[], []⟩) (k : Tuner) : s.bookingMux k = none := by
  have plan : s.plans.get k = [] := by rw [plans]; cases k <;> rfl
  unfold Sched.bookingMux
  rw [Sched.occupants_none plan]
  rfl

/-- The records are those of the directives where the budget is 2 and no BUDGET mark stands. -/
theorem Sched.rebudgeted_clear {v : Base} {s : Sched} (budget : s.budget = 2)
    (a : s.tuners.a.marks.budget = false) (b : s.tuners.b.marks.budget = false) : s.rebudgeted v = s.redirected v := by
  have same (r : TunerRec) (clear : r.marks.budget = false) : r.budgeted (s.budget == 0) = r := by
    rw [budget]
    cases r
    rename_i marks
    cases marks
    exact congrArg (fun o => TunerRec.mk _ _ _ _ _ _ _ ⟨_, _, o⟩) clear.symm
  exact congrArg (fun t => { s with tuners := t })
    (congr (congrArg Two.mk (same (s.redirected v).tuners.a a)) (same (s.redirected v).tuners.b b))

/-- With the directives issued none is due. -/
theorem Sched.redirected_settled (v : Base) (s : Sched) : (s.redirected v).Settled := by
  have needs (k : Tuner) (free : ((s.redirected v).tuners.get k).live = none) :
      (s.redirected v).neededMux k = s.bookingMux k := Sched.neededMux_of_idle free
  constructor
  · exact ((s.redirected v).directiveStale_iff .A).mpr ⟨(needs .A rfl).symm, rfl, rfl⟩
  · exact ((s.redirected v).directiveStale_iff .B).mpr ⟨(needs .B rfl).symm, rfl, rfl⟩

/-- A tuner's record without a mark under a new directive of no multiplex. -/
def TunerRec.idled (r : TunerRec) : TunerRec where
  state := .idle
  captures := []
  live := none
  directive := ⟨(r.directive.serial + 1) % 65536, none, none, []⟩
  unread := true
  tuneTimer := none
  recheck := none
  marks := ⟨false, false, false⟩

theorem TunerRec.again_idled {r : TunerRec} (marks : r.marks = ⟨false, false, false⟩) (v : Base) :
    r.again v none = r.idled := by
  unfold TunerRec.again
  rw [marks]
  rfl

theorem Sched.redirected_idled {v : Base} {s : Sched} (plans : s.plans = ⟨[], []⟩)
    (a : s.tuners.a.marks = ⟨false, false, false⟩) (b : s.tuners.b.marks = ⟨false, false, false⟩) :
    s.redirected v = { s with tuners := ⟨s.tuners.a.idled, s.tuners.b.idled⟩ } := by
  unfold Sched.redirected
  rw [Sched.bookingMux_none plans, Sched.bookingMux_none plans, TunerRec.again_idled a, TunerRec.again_idled b]

theorem Sched.usable_clear {s : Sched} (a : s.tuners.a.marks = ⟨false, false, false⟩)
    (b : s.tuners.b.marks = ⟨false, false, false⟩) (k : Tuner) : s.usable k = true := by
  cases k
  · exact congrArg Marks.none a
  · exact congrArg Marks.none b

theorem Sched.redirected_usable {v : Base} {s : Sched} (a : s.tuners.a.marks = ⟨false, false, false⟩)
    (b : s.tuners.b.marks = ⟨false, false, false⟩) (k : Tuner) : (s.redirected v).usable k = true := by
  have clear (r : TunerRec) (mux : Option Nat) (marks : r.marks = ⟨false, false, false⟩) :
      (r.again v mux).marks = ⟨false, false, false⟩ := by
    show ({ r.marks with signal := false } : Marks) = _
    rw [marks]
  exact Sched.usable_clear (clear s.tuners.a _ a) (clear s.tuners.b _ b) k

/-- With no booking, nothing on a stack and both tuners usable a restart issues its directives alone. -/
theorem Ev.restart_clear {v : Base} {s : Sched} (fitted : v.cfg.fitted = 2) (bookings : s.bookings = [])
    (stacked : s.stacked = ⟨[], []⟩) (unplaced : s.unplaced = []) (seekQueue : s.seekQueue = []) (budget : s.budget = 2)
    (a : s.tuners.a.marks = ⟨false, false, false⟩) (b : s.tuners.b.marks = ⟨false, false, false⟩) :
    (Ev.of s).restart v = Ev.of (s.redirected v) := by
  let y := s.redirected v
  have nobody : (Ev.of s).s.bookings.map (·.handle) = [] := congrArg (List.map _) bookings
  have treated : ((Ev.of s).s.bookings.map (·.handle)).foldl (Ev.restartBooking v) (Ev.of s) = Ev.of s := by
    rw [nobody]
    rfl
  have marked : ((Ev.of s).on (Sched.restartTuners v)).on (Sched.budgetMarks v) = Ev.of y := by
    have chosen : (s.restartTuners v).budgetMarks v = y := by
      rw [Sched.restartTuners_both fitted, Sched.redirected_budgetMarks fitted (.inl budget)]
      exact Sched.rebudgeted_clear budget (congrArg Marks.budget a) (congrArg Marks.budget b)
    exact congrArg Ev.of chosen
  have still : y.rebuildUnplaced = y := Sched.rebuildUnplaced_none (s := y) bookings unplaced
  have noRetry : y.rebuildUnplaced.NoRetry v false :=
    Sched.noRetry_of_empty false ((congrArg Sched.unplaced still).trans unplaced)
  obtain ⟨n, o, parts, same⟩ := Ev.restart_usable (e := Ev.of s) (x := Ev.of s) (y := Ev.of y) treated marked
    (Sched.redirected_usable a b) stacked seekQueue noRetry rfl
  obtain ⟨rfl, rfl⟩ := same (Sched.usable_clear a b)
  exact parts.trans ((congrArg (fun z => (Ev.of z).armAll v) still).trans (Ev.armAll_none (e := Ev.of y) bookings))

/-- A DETACHED station with no booking in the table. -/
theorem restart_empty (s : State) (takes : s.Takes) (detached : s.base.station = .detached) (fitted : s.base.cfg.fitted = 2)
    (bookings : s.sch.bookings = []) (bare : s.sch.Bare) (budget : s.sch.budget = 2)
    (a : s.sch.tuners.a.marks = ⟨false, false, false⟩) (b : s.sch.tuners.b.marks = ⟨false, false, false⟩) :
    ∃ t, Answered .restart s t .ok
        [0, BitVec.ofNat 8 (if s.base.incarnation < 255 then s.base.incarnation + 1 else 1)] ∧
      t.sch =
        { s.sch with
          tuners := ⟨s.sch.tuners.a.idled, s.sch.tuners.b.idled⟩
          txq := [], waitingRoll := none, attempt := none, seekQueue := [], engine := .idle, holds := [], lapsed := []
          marks := [], tallies := s.sch.tallies.map fun r => { r with offered := false } } := by
  let v := s.base.restarting
  let x := s.sch.restarting
  obtain ⟨plans, stacked, unplaced⟩ := bare
  have restarted : (Ev.of x).restart v = Ev.of (x.redirected v) :=
    Ev.restart_clear (v := v) (s := x) fitted bookings stacked unplaced rfl budget a b
  have all : (Ev.of x).restartAll s.base = Ev.of (x.redirected v) := by
    have station : s.base.restart.station = s.base.station := by rw [s.base.restart_station, detached]; rfl
    unfold Ev.restartAll
    dsimp only
    rw [restarted, if_pos station, detached]
    rfl
  obtain ⟨t, answered, -, sch⟩ := takes.restarts
  have joins : ¬ (s.base.station = .joined ∨ s.base.station = .joining) := by rw [detached]; rintro (h | h) <;> cases h
  rw [if_neg joins] at answered
  have ended : ((Ev.of x).restartAll s.base).settle s.base.restart = x.redirected v := by
    rw [all]
    exact Ev.settle_settled (e := Ev.of (x.redirected v)) (Ev.rests_quiet rfl rfl rfl) rfl (x.redirected_settled v)
  exact ⟨t, answered, (sch.trans ended).trans (Sched.redirected_idled (v := v) (s := x) plans a b)⟩

end Sys2Proof.Machine
end

section
/-! RESTART with one booking in the table that no tuner holds: the re-try of the rebuilt list. -/

namespace Sys2Proof.Machine

/-! ## A booking given back where nothing is planned -/

/-- Nothing is planned and nothing seeks. -/
def Sched.vacancy (s : Sched) := (s.plans, s.seekQueue)

theorem Sched.vacancy_notice (n : Notice) (s : Sched) : (s.notice n).vacancy = s.vacancy := by
  obtain ⟨l, o, told⟩ := s.notice_eq n
  rw [told]
  rfl

theorem Sched.vacancy_offer (v : Base) (rank : Nat) (m : Msg) (b : Option Nat) (s : Sched) :
    (s.offer v rank m b).vacancy = s.vacancy := by
  have standing := s.standing_offer v rank m b
  have plans : (s.offer v rank m b).plans = s.plans := congrArg (·.1.2.1) standing
  have seekQueue : (s.offer v rank m b).seekQueue = s.seekQueue := congrArg (·.2.1) standing
  exact Prod.ext plans seekQueue

theorem Sched.vacancy_tallyRoom (s : Sched) : s.tallyRoom.vacancy = s.vacancy := by
  unfold Sched.tallyRoom
  split
  · rfl
  · split
    · exact Sched.vacancy_notice _ _
    · rfl

theorem Sched.vacancy_addTally (v : Base) (b : Booking) (o : BOutcome × Reason) (s : Sched) :
    (s.addTally v b o).vacancy = s.vacancy := by
  refine Eq.trans ?_ s.vacancy_tallyRoom
  unfold Sched.addTally
  dsimp only
  unfold offerTally
  split
  · exact Sched.vacancy_offer v _ _ _ _
  · rfl

/-- Nothing is planned, on a stack or seeking, and the engine is IDLE. -/
structure Sched.Unheld (s : Sched) : Prop where
  plans : s.plans = ⟨[], []⟩
  stacked : s.stacked = ⟨[], []⟩
  seekQueue : s.seekQueue = []
  idle : s.engine = .idle

theorem Ev.leaveAll_unheld {e : Ev} (none : e.s.Unheld) (v : Base) (h : Nat) :
    ∃ t x, e.leaveAll v h = { e with s := t, exam := x } ∧ t.vacancy = (⟨[], []⟩, []) := by
  obtain ⟨x, left⟩ := Ev.leaveAll_idle none.stacked none.idle v h
  refine ⟨_, x, left, ?_⟩
  show (e.s.plans.both _, e.s.seekQueue.filter _) = _
  rw [none.plans, none.seekQueue]
  rfl

theorem Ev.endNow_vacancy {v : Base} {e : Ev} {h : Nat} {b : Booking} (none : e.s.Unheld) (found : e.s.bk h = some b)
    (alive : b.state ≠ .ended) (o : Booking → BOutcome × Reason) : (e.endNow v h o).s.vacancy = (⟨[], []⟩, []) := by
  obtain ⟨t, x, left, vacancy⟩ := Ev.leaveAll_unheld (e := e.on fun s => s.closeSeg h v.clock)
    ⟨none.plans, none.stacked, none.seekQueue, none.idle⟩ v h
  have recorded (o : BOutcome × Reason) : (e.recorded v h v.clock true o b).s.vacancy = (⟨[], []⟩, []) := by
    unfold Ev.recorded
    rw [left]
    obtain ⟨l, links⟩ := Sched.episodeOutcome_eq b o ((t.modB h (Booking.ended o)).disarm h)
    have outcome : (Sched.episodeOutcome b o ((t.modB h (Booking.ended o)).disarm h)).vacancy = (⟨[], []⟩, []) := by
      rw [links]
      exact vacancy
    dsimp only
    split
    · exact (Sched.vacancy_addTally v _ _ _).trans outcome
    · exact outcome
  unfold Ev.endNow
  rw [Ev.endAt_eq v v.clock true o found alive]
  obtain ⟨n, p, l, offered⟩ := Sched.offerOutcome_eq h (e.recorded v h v.clock true (o (b.closedAt v.clock)) b).s
  exact (congrArg Sched.vacancy offered).trans (recorded (o (b.closedAt v.clock)))

theorem Ev.giveBack_vacancy {v : Base} {e : Ev} {h : Nat} (none : e.s.Unheld) (r : ReturnReason) :
    (e.giveBack v h r).s.vacancy = (⟨[], []⟩, []) := by
  have empty : e.s.vacancy = (⟨[], []⟩, []) := Prod.ext none.plans none.seekQueue
  unfold Ev.giveBack
  split
  · exact empty
  · rename_i b found
    dsimp only
    split
    · exact empty
    · rename_i alive
      split
      · obtain ⟨t, x, left, vacancy⟩ := Ev.leaveAll_unheld (e := e.on fun s => s.closeSeg h v.clock)
          ⟨none.plans, none.stacked, none.seekQueue, none.idle⟩ v h
        rw [left]
        exact (Sched.vacancy_offer v _ _ _ (t.disarm h)).trans vacancy
      · exact Ev.endNow_vacancy none found alive _

/-! ## The re-try of a booking that no step places -/

theorem Base.maySeek_nobody {v : Base} {own : Nat} (peers : v.peers = Peer.emptyTable own) (b : Booking) :
    v.maySeek b = false := by
  have nobody : v.peers.filter Peer.eligible = [] := by
    rw [peers, List.filter_eq_nil_iff]
    intro p mem
    obtain ⟨n, -, rfl⟩ := List.mem_map.mp mem
    exact nofun
  unfold Base.maySeek
  rw [nobody]
  simp

/-- A re-try changes nothing where no tuner is usable and no peer is known. -/
theorem Sched.noRetry_unusable {v : Base} {own : Nat} {s : Sched} (none : s.Unheld) (unusable : ∀ k, s.usable k = false)
    (peers : v.peers = Peer.emptyTable own) {h : Nat} (unplaced : s.unplaced = [h]) : s.NoRetry v false := by
  rintro e rfl
  let x := e.on fun s => s.modB h fun b => { b with attempts := 0 }
  have placed : (x.place v Open.retry h).s.vacancy = (⟨[], []⟩, []) := by
    have empty : x.s.vacancy = (⟨[], []⟩, []) := Prod.ext none.plans none.seekQueue
    cases found : x.s.bk h with
    | none =>
      unfold Ev.place placeIn
      rw [found]
      exact empty
    | some b =>
      have choose : x.s.choose v Open.retry.auto Open.retry.prefer Open.retry.avoid b = Option.none :=
        Sched.choose_unusable (s := x.s) unusable v _ _ _ b
      rw [Ev.place_afterThree found choose]
      unfold Ev.afterThree
      rw [Base.maySeek_nobody peers]
      split
      · exact Ev.giveBack_vacancy (e := x) ⟨none.plans, none.stacked, none.seekQueue, none.idle⟩ _
      · exact empty
  have plans : (x.place v Open.retry h).s.plans = e.s.plans := (congrArg Prod.fst placed).trans none.plans.symm
  have seekQueue : (x.place v Open.retry h).s.seekQueue = e.s.seekQueue := (congrArg Prod.snd placed).trans none.seekQueue.symm
  have one : e.s.unplaced.foldl (Ev.retryOne v false) e = x.place v Open.retry h := by
    rw [unplaced]
    show e.retryOne v false h = _
    unfold Ev.retryOne
    rw [unplaced]
    simp [x]
  unfold Ev.retryAll
  dsimp only
  rw [one, if_pos ⟨plans, seekQueue⟩]

end Sys2Proof.Machine
end

section
/-! RESTART: from its parts to its end, and a booking LENT or COVERED. -/

namespace Sys2Proof.Machine

/-! ## From the parts of a restart to its end -/

theorem Ev.armAll_one {v : Base} {s : Sched} {b : Booking} {k : TrigKind} {d : Nat} (one : s.bookings = [b])
    (armed : b.armed v = some (k, d)) (ahead : v.clock < d) :
    (Ev.of s).armAll v = Ev.of { s with triggers := armedWith b.handle k d s.triggers } := by
  have arms : (Ev.of s).arm v b.handle = _ := Ev.arm_ahead (e := Ev.of s) (Sched.bk_alone one) armed ahead
  unfold Ev.armAll
  rw [show (Ev.of s).s.bookings = [b] from one]
  exact arms

theorem State.Takes.restarts_standing {s : State} {w : Sched} (takes : s.Takes)
    (restarted : (Ev.of s.sch.restarting).restart s.base.restarting = Ev.of w) (stands : w.Stands s.base) :
    ∃ t l y, Answered .restart s t .ok l ∧ t.sch = Sched.reviseAll s.base.restart y ∧ y.standing = w.standing := by
  obtain ⟨t, answered, -, sch⟩ := takes.restarts
  obtain ⟨y, ends, standing⟩ := Ev.restartAll_standing (u := s.base.restart) restarted stands
  exact ⟨t, _, y, answered, sch.trans ends, standing⟩

/-- What a restart leaves of all but the tuner records. -/
theorem State.Takes.restarts_left {s : State} {w : Sched} (takes : s.Takes)
    (restarted : (Ev.of s.sch.restarting).restart s.base.restarting = Ev.of w) (stands : w.Stands s.base) :
    ∃ t l, Answered .restart s t .ok l ∧ t.sch.bookings = w.bookings ∧ t.sch.triggers = w.triggers ∧
      t.sch.unplaced = w.unplaced ∧ t.sch.seekQueue = w.seekQueue ∧ t.sch.engine = w.engine := by
  obtain ⟨t, l, y, answered, sch, standing⟩ := takes.restarts_standing restarted stands
  obtain ⟨r, revised⟩ := y.reviseAll_eq s.base.restart
  rw [revised] at sch
  refine ⟨t, l, answered, ?_⟩
  rw [sch]
  exact ⟨congrArg (·.1.1) standing, congrArg (·.2.2.2.1) standing, congrArg (·.1.2.2.2) standing,
    congrArg (·.2.1) standing, congrArg (·.2.2.1) standing⟩

/-! ## A booking that no tuner holds -/

/-- The state of the scheduler after its one booking has been treated. -/
def Sched.treated (s : Sched) (c : Booking) : Sched := { s.restarting with bookings := [c] }

theorem Ev.restartBookings_one {v : Base} {s t : Sched} {b : Booking} (one : s.bookings = [b])
    (treated : (Ev.of s.restarting).restartBooking v b.handle = Ev.of t) :
    ((Ev.of s.restarting).s.bookings.map (·.handle)).foldl (Ev.restartBooking v) (Ev.of s.restarting) = Ev.of t := by
  rw [show (Ev.of s.restarting).s.bookings = [b] from one]
  exact treated

theorem State.Takes.restarts_unheld {s : State} {b c : Booking} {kd : TrigKind} {d : Nat} (takes : s.Takes)
    (one : s.sch.bookings = [b]) (bare : s.sch.Bare)
    (treated : (Ev.of s.sch.restarting).restartBooking s.base.restarting b.handle = Ev.of (s.sch.treated c))
    (noRetry : ∀ z : Ev,
      (Ev.of (((s.sch.treated c).restartTuners s.base.restarting).budgetMarks s.base.restarting)).Hushed z →
        z.s.rebuildUnplaced.NoRetry s.base.restarting false)
    (armed : c.armed s.base = some (kd, d)) (ahead : s.base.clock < d)
    (alone : (s.base.station ≠ .leaving ∧ s.base.station ≠ .isolated) ∨ (c.state ≠ .lent ∧ c.state ≠ .covered)) :
    ∃ t l, Answered .restart s t .ok l ∧ t.sch.bookings = [c] ∧
      t.sch.triggers = armedWith c.handle kd d s.sch.triggers ∧ t.sch.unplaced = (s.sch.treated c).rebuildUnplaced.unplaced ∧
      t.sch.seekQueue = [] ∧ t.sch.engine = .idle := by
  let v := s.base.restarting
  let x := s.sch.treated c
  obtain ⟨r, tuned⟩ := x.restartTuners_eq v
  obtain ⟨r', marked⟩ := Sched.budgetMarks_eq v (x.restartTuners v)
  have y : (x.restartTuners v).budgetMarks v = { x with tuners := r' } := by
    rw [marked, tuned]
  obtain ⟨t, n, o, parts⟩ := Ev.restart_unplanned (v := v) (e := Ev.of s.sch.restarting) (x := Ev.of x)
    (y := Ev.of ((x.restartTuners v).budgetMarks v)) (Ev.restartBookings_one one treated) rfl
    ((congrArg Sched.plans y).trans bare.1) ((congrArg Sched.stacked y).trans bare.2.1) (congrArg Sched.seekQueue y)
    noRetry rfl
  let l := (s.sch.treated c).rebuildUnplaced.unplaced
  let w : Sched := { x with unplaced := l, tuners := t, notices := n, overflow := o }
  have rebuilt : ((Ev.of ((x.restartTuners v).budgetMarks v)).on fun s =>
      { s.rebuildUnplaced with tuners := t, notices := n, overflow := o }).asked = Ev.of w := by
    rw [y]
    let z : Sched := { x with tuners := r' }
    have order (m : List Nat) : z.inSpanOrder m = x.inSpanOrder m := Sched.inSpanOrder_congr (s := x) (t := z) rfl m
    refine congrArg (fun l => Ev.of { x with unplaced := l, tuners := t, notices := n, overflow := o }) ?_
    exact order _
  rw [rebuilt, Ev.armAll_one (s := w) (v := v) (k := kd) (d := d) rfl armed ahead] at parts
  have stands : Sched.Stands s.base { w with triggers := armedWith c.handle kd d w.triggers } :=
    ⟨rfl, alone.imp_right fun apart a mem => List.mem_singleton.mp mem ▸ apart⟩
  exact takes.restarts_left parts stands

/-- A booking LENT or COVERED keeps its place and takes a confirm deadline (R21). -/
theorem restart_standsElsewhere {b : Booking} {kd : TrigKind} {d : Nat} {s : State} (takes : s.Takes)
    (one : s.sch.bookings = [b]) (ahead : s.base.clock < d) (elsewhere : b.state = .lent ∨ b.state = .covered)
    (leaving : s.base.station ≠ .leaving) (isolated : s.base.station ≠ .isolated) (bare : s.sch.Bare)
    (armed : b.armed s.base = some (kd, d)) :
    ∃ t l, Answered .restart s t .ok l ∧ t.sch.bookings =
        [{ b with confirm := some ((s.base.clock + 4 * s.base.cfg.rollPeriod) * 4096000) }] ∧
      t.sch.triggers = insertTrigger ⟨b.handle, kd, d⟩ (s.sch.triggers.filter fun y => y.handle != b.handle) := by
  let v := s.base.restarting
  let f (b : Booking) : Booking := { b with confirm := some ((s.base.clock + 4 * s.base.cfg.rollPeriod) * 4096000) }
  have alive : b.state ≠ .ended := by rcases elsewhere with e | e <;> rw [e] <;> nofun
  have found : s.sch.restarting.bk b.handle = some b := Sched.bk_alone (s := s.sch.restarting) one
  have waits : s.sch.restarting.modB b.handle f = s.sch.treated (f b) :=
    Sched.modB_alone (s := s.sch.restarting) one alive f
  have treated : (Ev.of s.sch.restarting).restartBooking v b.handle = Ev.of (s.sch.treated (f b)) := by
    rw [← waits]
    unfold Ev.restartBooking
    rw [show (Ev.of s.sch.restarting).s.bk b.handle = some b from found]
    rcases elsewhere with e | e <;> simp only [e] <;> rfl
  have nobody : ((s.sch.treated (f b)).bookings.filter fun b => b.state == .waiting || b.state == .suspended) = [] := by
    rcases elsewhere with e | e <;> simp [Sched.treated, f, e]
  have again : (f b).armed s.base = some (kd, d) := by
    rw [← armed]
    rcases elsewhere with e | e <;> unfold Booking.armed <;> simp only [f, e] <;> rfl
  have noRetry : ∀ z : Ev, (Ev.of (((s.sch.treated (f b)).restartTuners v).budgetMarks v)).Hushed z →
      z.s.rebuildUnplaced.NoRetry v false := by
    rintro z ⟨⟨t, n, o, rfl⟩, -⟩
    obtain ⟨r, tuned⟩ := (s.sch.treated (f b)).restartTuners_eq v
    obtain ⟨r', marked⟩ := Sched.budgetMarks_eq v ((s.sch.treated (f b)).restartTuners v)
    refine Sched.noRetry_of_empty false ?_
    rw [marked, tuned]
    show Sched.inSpanOrder _ (((s.sch.treated (f b)).bookings.filter _).map _) = []
    rw [nobody]
    rfl
  obtain ⟨t, l, answered, bookings, triggers, -⟩ := takes.restarts_unheld (c := f b) one bare treated noRetry again ahead
    (.inl ⟨leaving, isolated⟩)
  exact ⟨t, l, answered, bookings, triggers⟩

end Sys2Proof.Machine
end

section
/-! RESTART with one booking in the table that seeks, or that a tuner holds. -/

namespace Sys2Proof.Machine

/-! ## A booking that seeks -/

/-- A SEEKING booking is WAITING, alone in the unplaced list, where no tuner is usable (R21, R108). -/
theorem restart_seeking {b : Booking} {kd : TrigKind} {d : Nat} {s : State} (takes : s.Takes) (one : s.sch.bookings = [b])
    (ahead : s.base.clock < d) (seeking : b.state = .seeking) (fitted : s.base.cfg.fitted = 2) (budget : s.sch.budget = 0)
    (bare : s.sch.Bare) (armed : (b.inState .waiting .absent).armed s.base = some (kd, d)) :
    ∃ t l, Answered .restart s t .ok l ∧ t.sch.bookings = [b.inState .waiting .absent] ∧ t.sch.unplaced = [b.handle] ∧
      t.sch.seekQueue = [] ∧ t.sch.engine = .idle := by
  let v := s.base.restarting
  let c := b.inState .waiting .absent
  let x := s.sch.treated c
  have alive : b.state ≠ .ended := by rw [seeking]; nofun
  have found : s.sch.restarting.bk b.handle = some b := Sched.bk_alone (s := s.sch.restarting) one
  have waits : s.sch.restarting.modB b.handle (Booking.inState .waiting .absent) = x :=
    Sched.modB_alone (s := s.sch.restarting) one alive _
  have treated : (Ev.of s.sch.restarting).restartBooking v b.handle = Ev.of x := by
    rw [← waits]
    unfold Ev.restartBooking
    rw [show (Ev.of s.sch.restarting).s.bk b.handle = some b from found]
    simp only [seeking]
    rfl
  have marked : (x.restartTuners v).budgetMarks v = x.rebudgeted v := by
    rw [Sched.restartTuners_both (v := v) fitted]
    exact Sched.redirected_budgetMarks (v := v) (s := x) fitted (.inr budget)
  have unusable (k : Tuner) : (x.rebudgeted v).usable k = false := by
    have out (r : TunerRec) : (r.budgeted (x.budget == 0)).marks.none = false := by
      rw [show x.budget = 0 from budget]
      simp [TunerRec.budgeted, Marks.none]
    cases k
    · exact out _
    · exact out _
  have noRetry : ∀ z : Ev, (Ev.of ((x.restartTuners v).budgetMarks v)).Hushed z → z.s.rebuildUnplaced.NoRetry v false := by
    rw [marked]
    rintro z ⟨⟨t, n, o, rfl⟩, same⟩
    exact Sched.noRetry_unusable ⟨bare.1, bare.2.1, rfl, rfl⟩ (fun k => (same k).trans (unusable k)) rfl (h := b.handle) rfl
  obtain ⟨t, l, answered, bookings, -, unplaced, seekQueue, engine⟩ := takes.restarts_unheld (c := c) one bare treated noRetry
    armed ahead (.inr ⟨nofun, nofun⟩)
  exact ⟨t, l, answered, bookings, unplaced, seekQueue, engine⟩

/-! ## A booking that a tuner holds -/

theorem Sched.rebudgeted_settled (v : Base) (s : Sched) : (s.rebudgeted v).Settled := by
  have needs (k : Tuner) (free : ((s.rebudgeted v).tuners.get k).live = none) :
      (s.rebudgeted v).neededMux k = s.bookingMux k := Sched.neededMux_of_idle free
  constructor
  · exact ((s.rebudgeted v).directiveStale_iff .A).mpr ⟨(needs .A rfl).symm, rfl, rfl⟩
  · exact ((s.rebudgeted v).directiveStale_iff .B).mpr ⟨(needs .B rfl).symm, rfl, rfl⟩

/-- The state of the scheduler after its one booking is PREPARING again. -/
def Sched.reprepared (s : Sched) (b c : Booking) : Sched := { s.restarting.leaveCapture b.handle with bookings := [c] }

/-- The record of a booking that is PREPARING again. -/
def Booking.reprepared (clock : Nat) (b : Booking) : Booking := { b with state := .preparing, segs := closeOpen clock b.segs }

theorem Ev.restartBooking_held {v : Base} {s : Sched} {b : Booking} (one : s.bookings = [b])
    (held : b.state = .preparing ∨ b.state = .recording ∨ b.state = .paused) (runs : v.clock < b.closeTime v) :
    (Ev.of s.restarting).restartBooking v b.handle = Ev.of (s.reprepared b (b.reprepared v.clock)) := by
  have alive : b.state ≠ .ended := by rcases held with e | e | e <;> rw [e] <;> nofun
  have found : s.restarting.bk b.handle = some b := Sched.bk_alone (s := s.restarting) one
  let x : Sched := { s.restarting with bookings := [b.closedAt v.clock] }
  have closes : s.restarting.closeSeg b.handle v.clock = x := Sched.modB_alone (s := s.restarting) one alive _
  have again : ((s.restarting.closeSeg b.handle v.clock).leaveCapture b.handle).modB b.handle
      (fun b => { b with state := .preparing }) = s.reprepared b (b.reprepared v.clock) := by
    rw [closes]
    exact Sched.modB_alone (b := b.closedAt v.clock) (s := x.leaveCapture b.handle) rfl alive _
  rw [← again]
  unfold Ev.restartBooking
  rw [show (Ev.of s.restarting).s.bk b.handle = some b from found]
  rcases held with e | e | e <;> simp only [e, if_pos runs] <;> rfl

theorem TunerRec.again_marks {r : TunerRec} (fitted : r.marks.fitted = false) (v : Base) (mux : Option Nat) {n : Nat}
    (budget : n = 2) : ((r.again v mux).budgeted (n == 0)).marks = ⟨false, false, false⟩ := by
  rw [budget]
  show (⟨r.marks.fitted, false, false⟩ : Marks) = _
  rw [fitted]

theorem Sched.rebudgeted_usable {v : Base} {s : Sched} (budget : s.budget = 2) (a : s.tuners.a.marks.fitted = false)
    (b : s.tuners.b.marks.fitted = false) (k : Tuner) : (s.rebudgeted v).usable k = true :=
  Sched.usable_clear (TunerRec.again_marks a v _ budget) (TunerRec.again_marks b v _ budget) k

/-- The parts of a restart with one booking that a tuner holds: it is armed again under the new directives. -/
theorem Ev.restart_held {v : Base} {s : Sched} {b : Booking} {kd : TrigKind} {d : Nat} (fitted : v.cfg.fitted = 2)
    (one : s.bookings = [b]) (held : b.state = .preparing ∨ b.state = .recording ∨ b.state = .paused)
    (runs : v.clock < b.closeTime v) (budget : s.budget = 2) (a : s.tuners.a.marks.fitted = false)
    (b' : s.tuners.b.marks.fitted = false) (stacked : s.stacked = ⟨[], []⟩)
    (armed : (b.reprepared v.clock).armed v = some (kd, d)) (ahead : v.clock < d) :
    ∃ n o, (Ev.of s.restarting).restart v =
      Ev.of { (s.reprepared b (b.reprepared v.clock)).rebudgeted v with
        unplaced := [], notices := n, overflow := o, triggers := armedWith b.handle kd d s.triggers } := by
  let c := b.reprepared v.clock
  let x := s.reprepared b c
  let y := x.rebudgeted v
  have treated := Ev.restartBookings_one one (Ev.restartBooking_held one held runs)
  have marked : ((Ev.of x).on (Sched.restartTuners v)).on (Sched.budgetMarks v) = Ev.of y := by
    have chosen : (x.restartTuners v).budgetMarks v = y := by
      rw [Sched.restartTuners_both fitted]
      exact Sched.redirected_budgetMarks (s := x) fitted (.inl budget)
    exact congrArg Ev.of chosen
  obtain ⟨n, o, parts, -⟩ := Ev.restart_usable (e := Ev.of s.restarting) (x := Ev.of x) (y := Ev.of y) treated marked
    (Sched.rebudgeted_usable (s := x) budget a b') stacked rfl (Sched.noRetry_of_empty false rfl) rfl
  let w : Sched := { y with unplaced := [], notices := n, overflow := o }
  have arms : (Ev.of w).armAll v = Ev.of { w with triggers := armedWith b.handle kd d w.triggers } :=
    Ev.armAll_one (b := c) rfl armed ahead
  exact ⟨n, o, parts.trans arms⟩

/-- The record of the tuner that holds the booking. -/
theorem Sched.reprepared_tuner {v : Base} {s : Sched} {b : Booking} {k : Tuner} {m : Bool} (budget : s.budget = 2)
    (fitted : (s.tuners.get k).marks.fitted = false) (plan : s.plans.get k = [⟨b.handle, m⟩]) (clock : Nat) :
    ((s.reprepared b (b.reprepared clock)).rebudgeted v).tuners.get k =
      { state := .unknown, captures := [], live := none,
        directive := ⟨((s.tuners.get k).directive.serial + 1) % 65536, some b.mux, none, []⟩, unread := true,
        tuneTimer := some (v.now + v.cfg.tuneTimeout * 4096000, ((s.tuners.get k).directive.serial + 1) % 65536),
        recheck := none, marks := ⟨false, false, false⟩ } := by
  let c := b.reprepared clock
  let x := s.reprepared b c
  have needs : x.bookingMux k = some b.mux := by
    unfold Sched.bookingMux
    rw [Sched.occupants_single (s := x) (b := c) plan (Sched.bk_alone (s := x) (b := c) rfl) rfl]
    rfl
  have record (r : TunerRec) (free : r.marks.fitted = false) : (r.again v (some b.mux)).budgeted (x.budget == 0) =
      { state := .unknown, captures := [], live := none,
        directive := ⟨(r.directive.serial + 1) % 65536, some b.mux, none, []⟩, unread := true,
        tuneTimer := some (v.now + v.cfg.tuneTimeout * 4096000, (r.directive.serial + 1) % 65536), recheck := none,
        marks := ⟨false, false, false⟩ } :=
    congrArg (TunerRec.mk .unknown [] none ⟨(r.directive.serial + 1) % 65536, some b.mux, none, []⟩ true
      (some (v.now + v.cfg.tuneTimeout * 4096000, (r.directive.serial + 1) % 65536)) none)
      (TunerRec.again_marks free v (some b.mux) budget)
  have chosen : (x.rebudgeted v).tuners.get k = ((x.tuners.get k).again v (x.bookingMux k)).budgeted (x.budget == 0) := by
    cases k <;> rfl
  have serial : (x.tuners.get k).directive = (s.tuners.get k).directive ∧ (x.tuners.get k).marks = (s.tuners.get k).marks := by
    cases k <;> exact ⟨rfl, rfl⟩
  rw [chosen, needs, record (x.tuners.get k) (by rw [serial.2]; exact fitted), serial.1]

/-- A booking that a tuner holds is PREPARING with its segments closed, its tuner UNKNOWN under a new directive (R21, R85). -/
theorem restart_held {b : Booking} {kd : TrigKind} {d : Nat} {s : State} {k : Tuner} {m : Bool} (takes : s.Takes)
    (one : s.sch.bookings = [b]) (ahead : s.base.clock < d)
    (held : b.state = .preparing ∨ b.state = .recording ∨ b.state = .paused) (runs : s.base.clock < b.closeTime s.base)
    (fitted : s.base.cfg.fitted = 2) (budget : s.sch.budget = 2) (a : s.sch.tuners.a.marks.fitted = false)
    (b' : s.sch.tuners.b.marks.fitted = false) (plan : s.sch.plans.get k = [⟨b.handle, m⟩])
    (stacked : s.sch.stacked = ⟨[], []⟩) (armed : (b.reprepared s.base.clock).armed s.base = some (kd, d)) :
    let serial := ((s.sch.tuners.get k).directive.serial + 1) % 65536
    ∃ t l, Answered .restart s t .ok l ∧ t.sch.bookings = [b.reprepared s.base.clock] ∧ t.sch.plans = s.sch.plans ∧
      t.sch.tuners.get k =
        { state := .unknown, captures := [], live := none, directive := ⟨serial, some b.mux, none, []⟩, unread := true,
          tuneTimer := some (s.base.now + s.base.cfg.tuneTimeout * 4096000, serial), recheck := none,
          marks := ⟨false, false, false⟩ } := by
  intro serial
  let v := s.base.restarting
  let c := b.reprepared s.base.clock
  let y := (s.sch.reprepared b c).rebudgeted v
  obtain ⟨n, o, restarted⟩ := Ev.restart_held (v := v) (s := s.sch) fitted one held runs budget a b' stacked armed ahead
  let w : Sched := { y with
    unplaced := [], notices := n, overflow := o, triggers := armedWith b.handle kd d s.sch.triggers }
  have stands : w.Stands s.base := ⟨rfl, .inr fun e mem => by
    rw [List.mem_singleton.mp mem]
    exact ⟨nofun, nofun⟩⟩
  obtain ⟨t, l, z, answered, sch, standing⟩ := takes.restarts_standing (w := w) restarted stands
  have tuners : z.tuners = y.tuners := congrArg (·.2.2.2.2) standing
  have plans : z.plans = s.sch.plans := congrArg (·.1.2.1) standing
  have bookings : z.bookings = [c] := congrArg (·.1.1) standing
  have settled : z.Settled := (Sched.rebudgeted_settled v _).of_bookings tuners plans bookings
  rw [Sched.reviseAll_settled _ _ settled] at sch
  have fit : (s.sch.tuners.get k).marks.fitted = false := by
    cases k
    · exact a
    · exact b'
  refine ⟨t, l, answered, sch ▸ bookings, sch ▸ plans, ?_⟩
  rw [sch, tuners]
  exact Sched.reprepared_tuner (v := v) budget fit plan s.base.clock

/-- Settles O43: every state keeps its fields, an empty table shows the tuners' records, and the one booking of a table is
treated by its state. -/
theorem restart : Obligations.Restart := by
  refine ⟨State.restart_keeps, restart_empty, fun b kd d s takes one ahead => ⟨fun elsewhere leaving isolated bare armed => ?_,
    fun seeking fitted budget bare armed => ?_, ?_⟩⟩
  · exact restart_standsElsewhere takes one ahead (elsewhere.imp And.left And.left) leaving isolated bare armed
  · exact restart_seeking takes one ahead seeking fitted budget bare armed
  · intro k m c r serial held _ runs fitted budget a b' plan _ stacked armed
    exact restart_held takes one ahead held runs fitted budget a b' plan stacked armed

end Sys2Proof.Machine
end

section
/-! SET-CLOCK: the answer, the timers it moves, and what each of its kinds does. -/

namespace Sys2Proof.Machine

theorem exec_setClock (time : Nat) (s : State) : exec (.setClock time) s = s.request 5 (State.setClock time) := rfl

/-! ## The kind of a change -/

theorem Base.clockKind_code (v : Base) (time : Nat) : (v.clockKind time).code =
    if v.timed = false then 0 else if v.clock + 2 ≤ time then 2 else if time + 2 ≤ v.clock then 3 else 1 := by
  unfold Base.clockKind
  cases v.timed
  · rfl
  · by_cases later : v.clock + 2 ≤ time
    · simp [later, ClockKind.code]
    · by_cases earlier : time + 2 ≤ v.clock <;> simp [later, earlier, ClockKind.code]

/-- The state after a clock change of a kind. -/
def State.retimed (time : Nat) (k : ClockKind) (s : State) : State :=
  match k with
  | .first => s.setTime time
  | .trim => (s.setTime time).fireDue
  | .forward => (s.setTime time).forward s.base.clock
  | .backward => (s.setTime time).backward

/-! ## What every clock change keeps -/

/-- The base stays and the scheduling state changes within the relation. -/
structure State.Onward (s t : State) : Prop where
  base : t.base = s.base
  sch : s.sch.Evolves t.sch

theorem State.Onward.refl (s : State) : s.Onward s := ⟨rfl, .refl _⟩

theorem State.Onward.trans {s t u : State} (h : s.Onward t) (k : t.Onward u) : s.Onward u :=
  ⟨k.base.trans h.base, h.sch.trans k.sch⟩

theorem State.onward_event {s : State} {f : Ev → Ev} (h : ∀ e : Ev, e.s.EvolvesIn s.base.cfg.depth (f e).s) :
    s.Onward (s.event f) := ⟨rfl, s.sch.event_evolves h⟩

theorem State.onward_foldl {f : State → Nat → State} (each : ∀ (s : State) h, s.Onward (f s h)) : ∀ (l : List Nat) (s : State),
    s.Onward (l.foldl f s)
  | [], s => .refl s
  | h :: l, s => (each s h).trans (State.onward_foldl each l (f s h))

theorem State.onward_fireDue (s : State) : s.Onward s.fireDue := ⟨rfl, (settleIn_evolves _ _ _ _).toEvolves⟩

theorem forwardOne_onward (old : Nat) (s : State) (h : Nat) : s.Onward (forwardOne old s h) := by
  unfold forwardOne
  dsimp only
  split
  · exact .refl s
  · split
    · exact State.onward_event fun e => e.evolves_endAt _ _ _ _ _
    · split
      · exact State.onward_event fun e => e.evolves_gap _ _ _
      · exact .refl s

theorem backwardOne_onward (s : State) (h : Nat) : s.Onward (backwardOne s h) := by
  unfold backwardOne
  split
  · exact .refl s
  · exact State.onward_event fun e => e.evolves_back _ _

theorem State.onward_forward (old : Nat) (s : State) : s.Onward (s.forward old) := by
  have interrupted : s.Onward (s.onSched (Sched.interrupt old)) :=
    ⟨rfl, (Sched.evolves_interrupt (d := s.base.cfg.depth) old s.sch).toEvolves⟩
  exact (interrupted.trans (State.onward_foldl (forwardOne_onward old) _ _)).trans (State.onward_fireDue _)

theorem State.onward_retimed (time : Nat) (k : ClockKind) (s : State) : (s.setTime time).Onward (s.retimed time k) := by
  cases k with
  | first => exact .refl _
  | trim => exact State.onward_fireDue _
  | forward => exact State.onward_forward _ _
  | backward => exact State.onward_foldl backwardOne_onward _ _

theorem State.beside_retimed (time : Nat) (k : ClockKind) (s : State) : s.Beside (s.retimed time k) := by
  have set : s.Beside (s.setTime time) := s.beside_of _ _
  cases k with
  | first => exact set
  | trim => exact set.trans (State.beside_fireDue _)
  | forward => exact set.trans (State.beside_forward _ _)
  | backward => exact set.trans (State.beside_backward _)

/-- A time in range is set, and the answer carries the kind of the change and the old clock (R24). -/
theorem State.Takes.setsClock {s : State} {time : Nat} (takes : s.Takes) (low : 86400 ≤ time) (high : time ≤ 4290000000) :
    ∃ t, Answered (.setClock time) s t .ok (field1 (s.base.clockKind time).code ++ field4 s.base.clock) ∧
      t.base = (s.setTime time).base ∧ t.sch = (s.retimed time (s.base.clockKind time)).sch := by
  have range : ¬ (time < 86400 ∨ 4290000000 < time) := by omega
  have answer : s.setClock time = (s.retimed time (s.base.clockKind time)).done
      (field1 (s.base.clockKind time).code ++ field4 s.base.clock) := by
    unfold State.setClock
    rw [if_neg range, ← byte_eq_field1, ← bytesOf_four_eq_field4]
    cases s.base.clockKind time <;> rfl
  obtain ⟨t, answered, base, sch⟩ := takes.answers rfl (exec_setClock time s) answer (s.beside_retimed time _)
  exact ⟨t, answered, base.trans (s.onward_retimed time _).base, sch⟩

/-! ## Where no trigger is passed -/

theorem State.fireDue_ahead {s : State} (ahead : ∀ x ∈ s.sch.triggers, s.base.clock < x.time) : s.fireDue = s := by
  have none : s.sch.due s.base = [] := by
    unfold Sched.due
    rw [List.filter_eq_nil_iff.mpr fun x mem => by simp [ahead x mem]]
    rfl
  have fired : settleIn 1024 s.base s.sch (s.sch.due s.base) = s.sch := by rw [none, settleIn_nil]
  exact congrArg (fun x => { s with sch := x }) fired

/-- With no booking in the table nothing but the timers changes. -/
theorem State.retimed_none {s : State} {time : Nat} (bookings : s.sch.bookings = [])
    (ahead : ∀ x ∈ s.sch.triggers, time < x.time) (k : ClockKind) : s.retimed time k = s.setTime time := by
  have gone : (s.setTime time).sch.bookings = [] := by
    show s.sch.bookings.map _ = []
    rw [bookings]
    rfl
  have still : (s.setTime time).fireDue = s.setTime time := State.fireDue_ahead ahead
  cases k with
  | first => rfl
  | trim => exact still
  | forward =>
    have uninterrupted : (s.setTime time).onSched (Sched.interrupt s.base.clock) = s.setTime time := by
      unfold State.onSched Sched.interrupt
      rw [gone]
      rfl
    have absent (h : Nat) : forwardOne s.base.clock (s.setTime time) h = s.setTime time := by
      unfold forwardOne
      rw [show (s.setTime time).sch.bk h = none by rw [Sched.bk, gone]; rfl]
    show State.forward s.base.clock (s.setTime time) = _
    unfold State.forward
    dsimp only
    rw [uninterrupted, foldl_still fun h _ => absent h, still]
  | backward =>
    show (s.setTime time).sch.handles.foldl backwardOne _ = _
    rw [Sched.handles, gone]
    rfl

/-! ## The timers move, and no directive falls due -/

theorem Sched.bk_map {s t : Sched} {f : Booking → Booking} (handle : ∀ b, (f b).handle = b.handle)
    (bookings : t.bookings = s.bookings.map f) (g : Nat) : t.bk g = (s.bk g).map f := by
  unfold Sched.bk
  rw [bookings, List.find?_map]
  congr 2
  funext b
  exact congrArg (· == g) (handle b)

theorem Sched.Settled.shiftTimers {s : Sched} (settled : s.Settled) (old new : Nat) : (s.shiftTimers old new).Settled := by
  rw [Sched.settled_iff] at settled ⊢
  intro k
  have keys : ((s.shiftTimers old new).occupants k).map Booking.tuneKey = (s.occupants k).map Booking.tuneKey := by
    refine Sched.occupants_congr rfl fun p _ => ?_
    rw [Sched.bk_map (s := s) (t := s.shiftTimers old new) (f := fun b => { b with confirm := b.confirm.map (shift old new) })
      (fun _ => rfl) rfl]
    cases s.bk p.handle <;> rfl
  have record : (s.shiftTimers old new).tuners.get k = _ := Two.both_get s.tuners _ k
  refine (Sched.directiveStale_congr ?_ ?_ ?_ keys).trans (settled k)
  · rw [record]
  · rw [record]
  · rw [record]

end Sys2Proof.Machine
end

section
/-! SET-CLOCK: one booking of the table in a jump forward. -/

namespace Sys2Proof.Machine

/-! ## Open segments close at the old clock -/

theorem closeOpen_closeOpen (time : Nat) (l : List Segment) : closeOpen time (closeOpen time l) = closeOpen time l := by
  unfold closeOpen
  rw [List.map_map]
  refine List.map_congr_left fun g _ => ?_
  cases til : g.til <;> simp [til]

theorem closeOpen_closed (time : Nat) (l : List Segment) : (closeOpen time l).all (fun g => g.til.isSome) = true := by
  unfold closeOpen
  rw [List.all_map, List.all_eq_true]
  intro g _
  cases til : g.til <;> simp [til]

/-- A forward jump finds the segment of a RECORDING booking closed (R26, R41). -/
theorem Sched.interrupt_recording {s : Sched} {b : Booking} (one : s.bookings = [b]) (recording : b.state = .recording)
    (old : Nat) : s.interrupt old = { s with bookings := [b.closedAt old] } := by
  have closes : s.closeSeg b.handle old = { s with bookings := [b.closedAt old] } :=
    Sched.modB_alone one (by rw [recording]; nofun) _
  unfold Sched.interrupt
  rw [one, List.filter_cons_of_pos (by simp [recording])]
  exact closes

theorem Sched.interrupt_other {s : Sched} {b : Booking} (one : s.bookings = [b]) (other : b.state ≠ .recording) (old : Nat) :
    s.interrupt old = s := by
  unfold Sched.interrupt
  rw [one, List.filter_cons_of_neg (by simp [other])]
  rfl

/-- The one booking, whatever its state, as a forward jump then finds it. -/
theorem Sched.interrupt_one {s : Sched} {b : Booking} (one : s.bookings = [b]) (old : Nat) :
    ∃ c, s.interrupt old = { s with bookings := [c] } ∧ c.closedAt old = b.closedAt old ∧
      ∀ l, ({ c with segs := l } : Booking) = { b with segs := l } := by
  by_cases recording : b.state = .recording
  · refine ⟨b.closedAt old, Sched.interrupt_recording one recording old, ?_, fun _ => rfl⟩
    exact congrArg (fun l => { b with segs := l }) (closeOpen_closeOpen old b.segs)
  · refine ⟨b, (Sched.interrupt_other one recording old).trans ?_, rfl, fun _ => rfl⟩
    exact congrArg (fun l => { s with bookings := l }) one

/-! ## Forward: a booking left behind -/

theorem forwardOne_absent {old h : Nat} {s : State} (absent : s.sch.bk h = none) : forwardOne old s h = s := by
  unfold forwardOne
  rw [absent]

/-- In whatever order the jump treats the bookings, the one left behind ends at the old clock (R26). -/
theorem forward_reported {old : Nat} {c : Booking} (own : c.hosted = false) (alive : c.state ≠ .ended) :
    ∀ (l : List Nat) (s : State), s.sch.bookings = [c] → c.leftBehind s.base = true → c.handle ∈ l →
      s.sch.Reported (l.foldl (forwardOne old) s).sch c.handle
        (c.endedNotice old ((c.closedAt old).bySegs .clock .clock))
  | [], _, _, _, mem => absurd mem List.not_mem_nil
  | h :: l, s, one, behind, mem => by
    have found : s.sch.bk c.handle = some c := Sched.bk_alone one
    by_cases here : h = c.handle
    · subst here
      have ends : forwardOne old s c.handle = s.event fun e => e.endAt s.base c.handle old true fun b => b.bySegs .clock .clock := by
        unfold forwardOne
        simp only [found, behind, if_true]
      have reported : s.sch.Reported (forwardOne old s c.handle).sch c.handle
          (c.endedNotice old ((c.closedAt old).bySegs .clock .clock)) := by
        rw [ends]
        exact Sched.event_reported (Ev.endAt_reported (e := Ev.of s.sch) s.base old true _ found alive fun hosted => by
          rw [own] at hosted
          cases hosted)
      exact reported.evolves (State.onward_foldl (forwardOne_onward old) l _).sch
    · have absent : s.sch.bk h = none := by
        unfold Sched.bk
        rw [one, List.find?_cons_of_neg (by simpa using Ne.symm here)]
        rfl
      rw [List.foldl_cons, forwardOne_absent absent]
      exact forward_reported own alive l s one behind ((List.mem_cons.mp mem).resolve_left (Ne.symm here))

theorem Sched.handle_mem_jumpOrder {s : Sched} {c : Booking} (one : s.bookings = [c]) : c.handle ∈ s.jumpOrder := by
  unfold Sched.jumpOrder Sched.handles
  rw [one]
  exact List.mem_append_right _ List.mem_cons_self

theorem State.forward_leftBehind {s : State} {b : Booking} {old : Nat} (one : s.sch.bookings = [b]) (own : b.hosted = false)
    (behind : b.leftBehind s.base = true) :
    s.sch.Reported (s.forward old).sch b.handle (b.endedNotice old ((b.closedAt old).bySegs .clock .clock)) := by
  obtain ⟨c, interrupted, closed, same⟩ := Sched.interrupt_one one old
  let u : State := { s with sch := { s.sch with bookings := [c] } }
  have begun : s.onSched (Sched.interrupt old) = u := congrArg (fun x => { s with sch := x }) interrupted
  have alive : b.state ≠ .ended := by
    intro ended
    rw [Booking.leftBehind, ended] at behind
    simp at behind
  have eq : c = { b with segs := c.segs } := same c.segs
  have fields : c.handle = b.handle ∧ c.hosted = b.hosted ∧ c.state = b.state ∧ c.leftBehind s.base = b.leftBehind s.base := by
    rw [eq]
    exact ⟨rfl, rfl, rfl, rfl⟩
  obtain ⟨handle, hosted, state, left⟩ := fields
  have notice (o : BOutcome × Reason) : c.endedNotice old o = b.endedNotice old o := by
    have segs : closeOpen old c.segs = closeOpen old b.segs := congrArg Booking.segs closed
    unfold Booking.endedNotice
    rw [segs, eq]
  have reported := forward_reported (old := old) (hosted.trans own) (state ▸ alive) u.sch.jumpOrder u rfl (left.trans behind)
    (Sched.handle_mem_jumpOrder rfl)
  rw [closed, notice, handle] at reported
  unfold State.forward
  dsimp only
  rw [begun]
  exact (reported.evolves (State.onward_fireDue _).sch).congr rfl rfl

/-! ## Forward: a booking that goes on -/

/-- A change of the one record that leaves what the tuners read lets no directive fall due. -/
theorem Sched.Settled.replace {s t : Sched} {b c : Booking} (settled : s.Settled) (one : s.bookings = [b])
    (after : t.bookings = [c]) (tuners : t.tuners = s.tuners) (plans : t.plans = s.plans) (handle : c.handle = b.handle)
    (key : c.tuneKey = b.tuneKey) : t.Settled := by
  refine settled.of_records tuners plans fun g => ?_
  unfold Sched.bk
  rw [one, after]
  by_cases here : b.handle = g <;> simp [handle, here, key]

theorem State.forward_recording {s : State} {b : Booking} {k : Tuner} {old : Nat} (one : s.sch.bookings = [b])
    (recording : b.state = .recording) (plan : b.plan = .tuner k) (before : s.base.clock < b.closeTime s.base)
    (few : b.segs.length < 4) (stacked : s.sch.stacked = ⟨[], []⟩) (settled : s.sch.Settled)
    (ahead : ∀ x ∈ s.sch.triggers, s.base.clock < x.time) :
    (s.forward old).sch =
      { s.sch with bookings := [{ b with segs := closeOpen old b.segs ++ [openSegment s.base k] }] } := by
  let c := b.closedAt old
  let u : State := { s with sch := { s.sch with bookings := [c] } }
  let d : Booking := { b with segs := closeOpen old b.segs ++ [openSegment s.base k] }
  let w : Sched := { s.sch with bookings := [d] }
  have begun : s.onSched (Sched.interrupt old) = u :=
    congrArg (fun x => { s with sch := x }) (Sched.interrupt_recording one recording old)
  have order : u.sch.jumpOrder = [b.handle] := by
    show (s.sch.stacked.a.reverse ++ s.sch.stacked.b.reverse).flatMap (·.handles) ++ [b.handle] = _
    rw [stacked]
    rfl
  have found : u.sch.bk b.handle = some c := Sched.bk_alone (b := c) (s := u.sch) rfl
  have goes : c.leftBehind u.base = false := by
    have late : ¬ c.closeTime u.base ≤ u.base.clock := Nat.not_le.mpr before
    simp [Booking.leftBehind, late]
  have interrupted : c.interrupted = true := by
    unfold Booking.interrupted
    rw [show c.state = .recording from recording]
    exact closeOpen_closed old b.segs
  have length : ¬ 4 ≤ c.segs.length := by
    show ¬ 4 ≤ (closeOpen old b.segs).length
    rw [closeOpen, List.length_map]
    omega
  have adds : c.addSegment (openSegment s.base k) = d := by
    refine congrArg (fun l => { b with segs := l }) ?_
    exact if_pos (Nat.not_le.mp length)
  have gap : (Ev.of u.sch).gap u.base old c = Ev.of w := by
    unfold Ev.gap
    rw [if_neg length, show c.plan = .tuner k from plan]
    refine congrArg Ev.of ?_
    have alive : c.state ≠ .ended := by rw [show c.state = .recording from recording]; nofun
    refine (Sched.modB_alone (s := u.sch) (b := c) rfl alive (Booking.addSegment (openSegment s.base k))).trans ?_
    exact congrArg (fun d => { s.sch with bookings := [d] }) adds
  have still : w.Settled := by
    exact settled.replace one rfl rfl rfl rfl rfl
  have event : forwardOne old u b.handle = { s with sch := w } := by
    unfold forwardOne
    simp only [found, goes, interrupted, if_true, Bool.false_eq_true, if_false]
    refine congrArg (fun x => { s with sch := x }) ?_
    show ((Ev.of u.sch).gap u.base old c).settle s.base = w
    rw [gap]
    exact Ev.settle_settled (e := Ev.of w) (Ev.rests_quiet rfl rfl rfl) rfl still
  unfold State.forward
  dsimp only
  rw [begun, order, List.foldl_cons, List.foldl_nil, event, State.fireDue_ahead (s := { s with sch := w }) ahead]

end Sys2Proof.Machine
end

section
/-! Settles the obligation on SET-CLOCK: one booking of the table in a jump backward, and all kinds together. -/

namespace Sys2Proof.Machine

/-! ## Backward -/

/-- A booking as a backward jump re-arms it: where it is RECORDING an open segment begins no later than the clock (R27). -/
def Booking.turnedBack (clock : Nat) (b : Booking) : Booking :=
  { b with
    segs := if b.state = .recording then b.segs.map fun g => if g.til = none then { g with frm := min g.frm clock } else g
      else b.segs }

theorem Booking.turnedBack_other {b : Booking} (other : b.state ≠ .recording) (clock : Nat) : b.turnedBack clock = b := by
  unfold Booking.turnedBack
  rw [if_neg other]

theorem Booking.turnedBack_recording {b : Booking} (recording : b.state = .recording) (clock : Nat) :
    b.turnedBack clock = { b with segs := b.segs.map (Segment.notAfter clock) } := by
  unfold Booking.turnedBack
  rw [if_pos recording]
  refine congrArg (fun l => { b with segs := l }) (List.map_congr_left fun g _ => ?_)
  unfold Segment.notAfter
  cases til : g.til <;> simp

/-- A booking that keeps its state is re-armed (R27). -/
theorem Ev.back_arms {v : Base} {s : Sched} {b : Booking} (one : s.bookings = [b]) (alive : b.state ≠ .ended)
    (stays : b.state ≠ .preparing ∨ b.segs ≠ [] ∨ b.prepareTime v ≤ v.clock) :
    (Ev.of s).back v b = (Ev.of { s with bookings := [b.turnedBack v.clock] }).arm v b.handle := by
  by_cases recording : b.state = .recording
  · have turned : s.modB b.handle (fun c => { c with segs := c.segs.map (Segment.notAfter v.clock) }) =
        { s with bookings := [b.turnedBack v.clock] } :=
      (Sched.modB_alone one alive _).trans (congrArg (fun c => { s with bookings := [c] })
        (Booking.turnedBack_recording recording v.clock).symm)
    unfold Ev.back
    rw [recording]
    exact congrArg (fun x => (Ev.of x).arm v b.handle) turned
  · have same : ({ s with bookings := [b.turnedBack v.clock] } : Sched) = s := by
      rw [Booking.turnedBack_other recording]
      exact congrArg (fun l => { s with bookings := l }) one.symm
    have arms : (Ev.of s).back v b = (Ev.of s).arm v b.handle := by
      unfold Ev.back
      cases state : b.state with
      | ended => exact absurd state alive
      | recording => exact absurd state recording
      | preparing =>
        cases b.plan with
        | tuner k =>
          have no : (b.segs.isEmpty && decide (v.clock < b.prepareTime v)) = false := by
            rw [Bool.and_eq_false_iff, List.isEmpty_eq_false_iff, decide_eq_false_iff_not, Nat.not_lt]
            exact stays.resolve_left (Classical.not_not.mpr state)
          dsimp only
          rw [no]
          rfl
        | absent => rfl
        | lent n => rfl
        | covered n => rfl
      | waiting => rfl
      | planned => rfl
      | seeking => rfl
      | referred => rfl
      | paused => rfl
      | suspended => rfl
      | lent => rfl
      | covered => rfl
    rw [arms, same]

theorem State.backward_one {s : State} {b : Booking} (one : s.sch.bookings = [b]) :
    s.backward.sch = ((Ev.of s.sch).back s.base b).settle s.base := by
  have found : s.sch.bk b.handle = some b := Sched.bk_alone one
  unfold State.backward Sched.handles
  rw [one]
  show (backwardOne s b.handle).sch = _
  unfold backwardOne
  rw [found]
  rfl

theorem State.backward_arms {s : State} {b : Booking} {kd : TrigKind} {d : Nat} (one : s.sch.bookings = [b])
    (armed : (b.turnedBack s.base.clock).armed s.base = some (kd, d)) (ahead : s.base.clock < d) (settled : s.sch.Settled)
    (stays : b.state ≠ .preparing ∨ b.segs ≠ [] ∨ b.prepareTime s.base ≤ s.base.clock) :
    s.backward.sch =
      { s.sch with bookings := [b.turnedBack s.base.clock], triggers := armedWith b.handle kd d s.sch.triggers } := by
  let c := b.turnedBack s.base.clock
  let x : Sched := { s.sch with bookings := [c] }
  have alive : b.state ≠ .ended := by
    intro ended
    have none : c.armed s.base = Option.none := by
      unfold Booking.armed
      rw [show c.state = .ended from ended]
    rw [none] at armed
    cases armed
  have arms : (Ev.of x).arm s.base b.handle = Ev.of { x with triggers := armedWith b.handle kd d x.triggers } :=
    Ev.arm_ahead (e := Ev.of x) (b := c) (Sched.bk_alone (s := x) (b := c) rfl) armed ahead
  rw [State.backward_one one, Ev.back_arms one alive stays, arms]
  exact Ev.settle_settled (Ev.rests_quiet rfl rfl rfl) rfl (settled.replace one rfl rfl rfl rfl rfl)

/-- A PREPARING booking without a segment whose PREPARE time lies ahead again is PLANNED (R27). -/
theorem State.backward_planned {s : State} {b : Booking} {k : Tuner} (one : s.sch.bookings = [b])
    (preparing : b.state = .preparing) (plan : b.plan = .tuner k) (empty : b.segs = []) (stacked : s.sch.stacked = ⟨[], []⟩)
    (ahead : s.base.clock < b.prepareTime s.base) :
    s.backward.sch.bookings = [{ b with state := .planned }] ∧ s.backward.sch.plans = s.sch.plans ∧
      s.backward.sch.triggers = armedWith b.handle .prepare (b.prepareTime s.base) s.sch.triggers := by
  let c : Booking := { b with state := .planned }
  let x : Sched := { s.sch with bookings := [c] }
  let w : Sched := { x with triggers := armedWith b.handle .prepare (b.prepareTime s.base) x.triggers }
  have arms : (Ev.of x).arm s.base b.handle = Ev.of w :=
    Ev.arm_ahead (e := Ev.of x) (b := c) (Sched.bk_alone (s := x) (b := c) rfl) rfl ahead
  have turned : s.sch.modB b.handle (fun c => { c with state := .planned }) = x :=
    Sched.modB_alone one (by rw [preparing]; nofun) _
  have planned : (Ev.of s.sch).back s.base b = (Ev.of w).askExam k := by
    have goes : (b.segs.isEmpty && decide (s.base.clock < b.prepareTime s.base)) = true := by
      rw [empty, decide_eq_true ahead]
      rfl
    unfold Ev.back
    rw [preparing, plan]
    dsimp only
    rw [goes, if_pos rfl, ← arms, ← turned]
    rfl
  have rests : ((Ev.of w).askExam k).Rests s.base :=
    ⟨fun _ => Sched.still_of_empty (congrArg Two.a stacked), fun _ => Sched.still_of_empty (congrArg Two.b stacked),
      nofun, nofun⟩
  obtain ⟨t, revised⟩ := w.reviseAll_eq s.base
  have left : s.backward.sch = { w with tuners := t } := by
    rw [State.backward_one one, planned, Ev.settle_rests rests rfl]
    exact revised
  rw [left]
  exact ⟨rfl, rfl, rfl⟩

/-! ## The timers that move -/

theorem Sched.shiftTimers_one {s : Sched} {b : Booking} (one : s.bookings = [b]) (old new : Nat) :
    (s.shiftTimers old new).bookings = [{ b with confirm := b.confirm.map (shift old new) }] := by
  show s.bookings.map _ = _
  rw [one]
  rfl

theorem ClockKind.of_code {k j : ClockKind} (same : k.code = j.code) : k = j := by
  cases k <;> cases j <;> simp [ClockKind.code] at same ⊢

/-- Settles O27: the kinds are taken one by one, each on the state whose timers have moved. -/
theorem setClock : Obligations.SetClock := by
  intro time s takes
  refine ⟨fun range => takes.refused rfl (exec_setClock time s) (if_pos range), fun low high => ?_⟩
  intro old move kind tuner moved
  have code : (s.base.clockKind time).code = kind := s.base.clockKind_code time
  have shifted : (s.setTime time).sch = moved := by
    have engine : s.sch.engine.shift old time = moved.engine := by
      show _ = (match s.sch.engine with | .idle => _ | .collecting _ _ _ => _ | .awaiting _ _ _ _ => _)
      cases s.sch.engine <;> rfl
    exact congrArg (fun e => { s.sch.shiftTimers old time with engine := e }) engine
  have of {j : ClockKind} (same : kind = j.code) : s.base.clockKind time = j := ClockKind.of_code (code.trans same)
  have alone {b : Booking} (one : s.sch.bookings = [b]) :
      (s.setTime time).sch.bookings = [{ b with confirm := b.confirm.map move }] := Sched.shiftTimers_one one old time
  have settles (settled : s.sch.Settled) : (s.setTime time).sch.Settled := settled.shiftTimers old time
  obtain ⟨t, answered, base, sch⟩ := takes.setsClock low high
  rw [code] at answered
  refine ⟨t, answered, base, ?_, fun first => ?_, fun trim ahead => ?_, fun none ahead => ?_,
    fun forward b one own alive lent covered left => ?_, fun forward b k one recording plan before few stacked settled ahead => ?_,
    fun backward b kd d one => ?_, fun backward b k one preparing plan empty stacked => ?_⟩
  · rw [sch]
    exact (s.onward_retimed time _).sch.notices
  · rw [sch, of (j := .first) first]
    exact shifted
  · rw [sch, of (j := .trim) trim]
    exact (congrArg State.sch (State.fireDue_ahead (s := s.setTime time) ahead)).trans shifted
  · rw [sch, State.retimed_none none ahead]
    exact shifted
  · rw [sch, of (j := .forward) forward]
    rw [base] at left
    have behind : Booking.leftBehind (s.setTime time).base { b with confirm := b.confirm.map move } = true := by
      have late : Booking.closeTime (s.setTime time).base { b with confirm := b.confirm.map move } ≤
        (s.setTime time).base.clock := left
      simp [Booking.leftBehind, alive, lent, covered, late]
    have reported := State.forward_leftBehind (old := old) (alone one) (Booking.not_hosted own) behind
    exact reported.congr rfl rfl
  · rw [sch, of (j := .forward) forward]
    rw [base] at before
    exact (State.forward_recording (old := old) (alone one) recording plan before few stacked (settles settled) ahead).trans
      (congrArg (fun x : Sched => { x with bookings := [{ b with
        confirm := b.confirm.map move
        segs := closeOpen old b.segs ++ [openSegment (s.setTime time).base k] }] }) shifted)
  · intro c armed ahead settled stays
    rw [sch, of (j := .backward) backward]
    rw [base] at armed
    exact (State.backward_arms (alone one) armed ahead (settles settled) stays).trans
      (congrArg (fun x : Sched => { x with bookings := [c], triggers := armedWith b.handle kd d s.sch.triggers }) shifted)
  · intro d ahead
    rw [sch, of (j := .backward) backward]
    exact State.backward_planned (alone one) preparing plan empty stacked ahead

end Sys2Proof.Machine
end

section
/-! What goes with a peer that is lost or restarts: the seek and bid state shared with it, and its tally records. -/

namespace Sys2Proof.Machine

/-! ## The seek and bid state shared with a peer -/

/-- The bids of the other stations. -/
def otherBids (n : Nat) (bids : List Bid) : List Bid := bids.filter fun y => y.station != n

/-- The state in which the seek and bid state shared with a peer has gone (R155, R174): an AWARD outstanding to it, with no
other bid left, ends the attempt of a booking below the seek limit. -/
def Sched.Voided (v : Base) (n : Nat) (lost : Bool) (s x : Sched) : Prop :=
  (s.engine = .idle ∧ x = s.unshare n) ∨
  (∃ g w bids, s.engine = .collecting g w bids ∧ x = { s.unshare n with engine := .collecting g w (otherBids n bids) }) ∨
  (∃ g st w bids, s.engine = .awaiting g st w bids ∧ st ≠ n ∧
    x = { s.unshare n with engine := .awaiting g st w (otherBids n bids) }) ∨
  ∃ g w bids b ready, s.engine = .awaiting g n w bids ∧ otherBids n bids = [] ∧ s.bk g = some b ∧
    b.state = .seeking ∧ 1 ≤ b.attempts ∧ b.attempts < v.cfg.seekLimit ∧ s.seekQueue = [⟨g, ready⟩] ∧ s.txq.length < 12 ∧
    x =
      { s.unshare n with
        engine := .idle
        seekQueue := [⟨g, some (v.now + (10 * b.attempts + v.cfg.station) * 4096000)⟩]
        txq := s.txq ++
          if lost then [⟨v.cfg.household, v.cfg.station, 2 + 2 * b.priority, .withdraw b.id n, none, false⟩] else [] }

/-- Whatever goes, only these fields change. -/
theorem Sched.Voided.eq {v : Base} {n : Nat} {lost : Bool} {s x : Sched} (voided : s.Voided v n lost x) :
    ∃ e q t, x = { s.unshare n with engine := e, seekQueue := q, txq := t } := by
  rcases voided with ⟨-, rfl⟩ | ⟨g, w, bids, -, rfl⟩ | ⟨g, st, w, bids, -, -, rfl⟩ |
    ⟨g, w, bids, b, ready, -, -, -, -, -, -, -, -, rfl⟩
  · exact ⟨s.engine, s.seekQueue, s.txq, rfl⟩
  · exact ⟨_, s.seekQueue, s.txq, rfl⟩
  · exact ⟨_, s.seekQueue, s.txq, rfl⟩
  · exact ⟨_, _, _, rfl⟩

/-- Nothing of the seek and bid state is shared with the peer. -/
structure Sched.Unshared (n : Nat) (x : Sched) : Prop where
  lists : x.unshare n = x
  engine : x.engine = .idle ∨ (∃ g w bids, x.engine = .collecting g w bids ∧ otherBids n bids = bids) ∨
    ∃ g st w bids, x.engine = .awaiting g st w bids ∧ st ≠ n ∧ otherBids n bids = bids

theorem otherBids_twice (n : Nat) (bids : List Bid) : otherBids n (otherBids n bids) = otherBids n bids := by
  simp [otherBids]

theorem Sched.unshare_twice (n : Nat) (s : Sched) : (s.unshare n).unshare n = s.unshare n := by
  simp [Sched.unshare]

theorem Sched.Voided.unshared {v : Base} {n : Nat} {lost : Bool} {s x : Sched} (voided : s.Voided v n lost x) :
    x.Unshared n := by
  have lists : x.unshare n = x := by
    obtain ⟨e, q, t, rfl⟩ := voided.eq
    exact congrArg (fun y : Sched => { y with engine := e, seekQueue := q, txq := t }) (s.unshare_twice n)
  rcases voided with ⟨idle, rfl⟩ | ⟨g, w, bids, -, rfl⟩ | ⟨g, st, w, bids, -, other, rfl⟩ |
    ⟨g, w, bids, b, ready, -, -, -, -, -, -, -, -, rfl⟩
  · exact ⟨lists, .inl idle⟩
  · exact ⟨lists, .inr (.inl ⟨g, w, _, rfl, otherBids_twice n bids⟩)⟩
  · exact ⟨lists, .inr (.inr ⟨g, st, w, _, rfl, other, otherBids_twice n bids⟩)⟩
  · exact ⟨lists, .inl rfl⟩

theorem Sched.Unshared.tells {n : Nat} {x : Sched} (unshared : x.Unshared n) (l : List Notice) :
    ({ x with notices := l } : Sched).Unshared n :=
  ⟨congrArg (fun y : Sched => { y with notices := l }) unshared.lists, unshared.engine⟩

/-- Where nothing is shared nothing goes. -/
theorem Ev.voidShared_unshared {v : Base} {n : Nat} {lost : Bool} {e : Ev} (unshared : e.s.Unshared n) :
    e.voidShared v n lost = e := by
  have lists : e.on (Sched.unshare n) = e := Ev.on_congr (g := id) unshared.lists
  have still (eng : Engine) (same : eng = e.s.engine) : (e.on fun s => { s with engine := eng }) = e :=
    Ev.on_congr (g := id) (congrArg (fun x => { e.s with engine := x }) same)
  rcases unshared.engine with idle | ⟨g, w, bids, engine, kept⟩ | ⟨g, st, w, bids, engine, other, kept⟩
  · exact (Ev.voidShared_idle idle).trans lists
  · unfold Ev.voidShared
    rw [engine]
    show (e.on fun s => { s with engine := .collecting g w (otherBids n bids) }).on (Sched.unshare n) = e
    rw [kept, still _ engine.symm, lists]
  · unfold Ev.voidShared
    rw [engine]
    dsimp only
    rw [if_neg other]
    show (e.on fun s => { s with engine := .awaiting g st w (otherBids n bids) }).on (Sched.unshare n) = e
    rw [kept, still _ engine.symm, lists]

/-- The AWARD outstanding to the peer, with no other bid left, counts as its DECLINE (R165, R174). -/
theorem Ev.voidShared_awardee {v : Base} {n g : Nat} {w : Option Nat} {bids : List Bid} {lost : Bool} {ready : Option Nat}
    {b : Booking} {e : Ev} (engine : e.s.engine = .awaiting g n w bids) (alone : otherBids n bids = [])
    (found : e.s.bk g = some b) (seeking : b.state = .seeking) (few : b.attempts < v.cfg.seekLimit)
    (queue : e.s.seekQueue = [⟨g, ready⟩]) (room : e.s.txq.length < 12) (joined : v.station = .joined) :
    e.voidShared v n lost =
      (e.on fun s =>
        { s.unshare n with
          engine := .idle
          seekQueue := [⟨g, some (readyTime v b.attempts)⟩]
          txq := s.txq ++
            if lost then [⟨v.cfg.household, v.cfg.station, 2 + 2 * b.priority, .withdraw b.id n, none, false⟩]
            else [] }).askLook := by
  have rank : b.rank = 2 + 2 * b.priority := by simp [Booking.rank_eq, seeking]
  let sent : List Msg := if lost then [.withdraw b.id n] else []
  have sends : (if lost then e.withdraw v g n else e) = e.on (Sched.sends v b.rank sent) := by
    cases lost with
    | true => exact Ev.withdraw_sends found joined room
    | false => exact (Ev.on_congr (g := id) (Sched.sends_nil v b.rank e.s)).symm
  have ends : (e.on (Sched.sends v b.rank sent)).awardeeOut v g n bids = _ :=
    (congrArg (fun l => (e.on (Sched.sends v b.rank sent)).award v g l) alone).trans
      ((Ev.award_none (e := e.on (Sched.sends v b.rank sent)) (bids := []) fun y mem => absurd mem List.not_mem_nil).trans
        (Ev.attemptEnds_again (e := e.on (Sched.sends v b.rank sent)) found queue few))
  unfold Ev.voidShared
  rw [engine]
  dsimp only
  rw [if_pos rfl, sends, ends, rank]
  cases lost <;> rfl

/-- What goes, whatever notices have been queued before. -/
theorem Ev.voidShared_voided {v : Base} {n : Nat} {lost : Bool} {s x : Sched} (voided : s.Voided v n lost x)
    (joined : v.station = .joined) {e : Ev} {l : List Notice}
    (same : e.s = { s with notices := l }) (idle : e.look = false) :
    ∃ look, e.voidShared v n lost = { e with s := { x with notices := l }, look := look } ∧ (look = true → x.NoLook v) := by
  obtain ⟨y, exam, retry, look, late⟩ := e
  subst same
  subst idle
  rcases voided with ⟨engine, rfl⟩ | ⟨g, w, bids, engine, rfl⟩ | ⟨g, st, w, bids, engine, other, rfl⟩ |
    ⟨g, w, bids, b, ready, engine, alone, found, seeking, once, few, queue, room, rfl⟩
  · exact ⟨false, Ev.voidShared_idle engine, nofun⟩
  · refine ⟨false, ?_, nofun⟩
    unfold Ev.voidShared
    rw [show ({ s with notices := l } : Sched).engine = _ from engine]
    rfl
  · refine ⟨false, ?_, nofun⟩
    unfold Ev.voidShared
    rw [show ({ s with notices := l } : Sched).engine = _ from engine]
    dsimp only
    rw [if_neg other]
    rfl
  · refine ⟨true, ?_, fun _ => Sched.noLook_later rfl ?_⟩
    · exact Ev.voidShared_awardee (e := ⟨{ s with notices := l }, exam, retry, false, late⟩) engine alone found seeking few queue
        room joined
    · omega

/-! ## Tally records -/

theorem Sched.notices_room : ∀ (l : List Notice) (s : Sched), s.pendingOutcomes = [] → s.notices.length + l.length ≤ 32 →
    l.foldl (fun s n => s.notice n) s = { s with notices := s.notices ++ l }
  | [], s, _, _ => by rw [List.append_nil]; rfl
  | n :: l, s, pending, room => by
    have here : s.notices.length < 32 := by
      rw [List.length_cons] at room
      omega
    rw [List.foldl_cons, Sched.notice_room n here pending]
    refine (Sched.notices_room l { s with notices := s.notices ++ [n] } pending ?_).trans ?_
    · rw [List.length_append, List.length_singleton]
      rw [List.length_cons] at room
      omega
    · exact congrArg (fun x => { s with notices := x }) (List.append_assoc s.notices [n] l)

/-- Tally records that go are told of one by one (R172). -/
theorem Sched.orphan_room {s : Sched} (cause : OrphanCause) (p : TallyRec → Bool) (pending : s.pendingOutcomes = [])
    (room : s.notices.length + (s.tallies.filter p).length ≤ 32) :
    s.orphan cause p =
      { s with
        tallies := s.tallies.filter fun r => !p r
        notices := s.notices ++ (s.tallies.filter p).map fun r => .orphan r.id r.outcome cause } := by
  unfold Sched.orphan
  rw [← List.foldl_map (g := fun (s : Sched) n => s.notice n) (f := fun r : TallyRec => Notice.orphan r.id r.outcome cause)]
  exact Sched.notices_room _ _ pending (by rw [List.length_map]; exact room)

end Sys2Proof.Machine
end

section
/-! What a ROLL that is heard hands on: a change of presence, and then one of incarnation. -/

namespace Sys2Proof.Machine

/-! ## The record after a ROLL -/

/-- The record that a ROLL renews, before its interval is counted (R145, R152, R153). -/
theorem Peer.takeRoll_eq (v : Base) (f : RollFields) (p : Peer) :
    p.takeRoll v f =
      { p with
        incarnation := some f.incarnation
        lastSeq := some f.sequence
        period := some f.period
        day := some f.day
        prevDay := if p.day = some f.day then p.prevDay else p.day
        flags := rollFlagsOf f.flags
        view := if v.cfg.debounce = true ∧ p.candidate ≠ some (viewOf f) then p.view else some (viewOf f)
        candidate := some (viewOf f)
        deadline := some (v.now + firstInterval f.period) } := by
  unfold Peer.takeRoll Peer.takeDay Peer.takeView
  by_cases day : p.day = some f.day
  · cases debounce : v.cfg.debounce
    · simp [day]
    · by_cases candidate : p.candidate = some (viewOf f) <;> simp [day, candidate]
  · cases debounce : v.cfg.debounce
    · simp [day]
    · by_cases candidate : p.candidate = some (viewOf f) <;> simp [day, candidate]

theorem Base.setPeer_eq {v : Base} {n : Nat} {p : Peer} (station : p.station = n) :
    v.setPeer p = { v with peers := v.peers.map fun y => if y.station == n then p else y } := by
  unfold Base.setPeer
  rw [station]

/-! ## Events that wait for nothing -/

/-- An event on a state that has no stack to examine and nothing late, whose re-try finds nothing unplaced. -/
structure Ev.Idles (v : Base) (y : Sched) (e : Ev) : Prop where
  state : e.s = y
  exam : e.exam = ⟨false, false⟩
  retry : e.retry ≠ none → y.unplaced = []
  look : e.look = true → y.NoLook v
  late : e.late = []

theorem Ev.Idles.rests {v : Base} {y : Sched} {e : Ev} (idles : e.Idles v y) : e.Rests v :=
  Ev.rests_unexamined idles.exam (fun keep asked => Sched.noRetry_of_empty keep (by
    rw [idles.state]
    exact idles.retry (by rw [asked]; nofun))) fun asked => idles.state ▸ idles.look asked

theorem Ev.Idles.finishes {v : Base} {y : Sched} {e : Ev} (idles : e.Idles v y) : e.finish v = Ev.of y := by
  rw [Ev.finish_rests idles.rests]
  show Ev.mk e.s _ _ _ e.late = _
  rw [idles.state, idles.late]
  rfl

theorem Ev.Idles.settles {v : Base} {y : Sched} {e : Ev} (idles : e.Idles v y) (settled : y.Settled) : e.settle v = y := by
  rw [Ev.settle_settled idles.rests idles.late (idles.state ▸ settled)]
  exact idles.state

theorem Ev.idles_of (v : Base) (y : Sched) : (Ev.of y).Idles v y := ⟨rfl, rfl, nofun, nofun, rfl⟩

/-! ## A change of presence -/

/-- The PEER notice of a change. -/
def peerTold (p q : Peer) (cause : PeerCause) (kind : Option IncKind) : Notice :=
  .peer q.station p.presence q.presence cause q.incarnation kind q.eligible

theorem Sched.offerTallies_nobody {v : Base} {s : Sched} {p : TallyRec → Bool} (none : ∀ r ∈ s.tallies, p r = false) :
    s.offerTallies v p = s := by
  have list : ∀ l : List TallyRec, (∀ r ∈ l, p r = false) → offerTallyList v p l s = (l, s) := by
    intro l
    induction l with
    | nil => exact fun _ => rfl
    | cons r l ih =>
      intro nobody
      unfold offerTallyList
      rw [nobody r List.mem_cons_self]
      show (r :: (offerTallyList v p l s).1, (offerTallyList v p l s).2) = _
      rw [ih fun x mem => nobody x (List.mem_cons_of_mem _ mem)]
  unfold Sched.offerTallies
  rw [list _ none]

/-- Nothing stands with a station: no booking is LENT to it or COVERED by it. -/
def Sched.Alone (n : Nat) (s : Sched) : Prop :=
  ∀ b ∈ s.bookings, (b.state = .lent → b.plan ≠ .lent n) ∧ (b.state = .covered → b.plan ≠ .covered n)

theorem Sched.Alone.standsWith {n : Nat} {s : Sched} (alone : s.Alone n) :
    ∀ b ∈ s.bookings, b.standsWith (· == n) = false := by
  intro b mem
  rw [Bool.eq_false_iff, Ne, b.standsWith_iff]
  rintro ⟨m, same, ⟨lent, plan⟩ | ⟨covered, plan⟩⟩
  · rw [beq_iff_eq] at same
    exact (alone b mem).1 lent (same ▸ plan)
  · rw [beq_iff_eq] at same
    exact (alone b mem).2 covered (same ▸ plan)

/-- A peer that enters PRESENT with nothing that concerns it. -/
theorem Ev.peerPresent_alone {v : Base} {n : Nat} {e : Ev} (alone : e.s.Alone n)
    (tallies : ∀ r ∈ e.s.tallies, (r.id.origin == n) = false) : e.peerPresent v n = e := by
  have nobody : e.s.pick (fun b => b.isLentTo n || b.isCoveredBy n) = [] := by
    refine Sched.pick_nobody fun b mem => ?_
    obtain ⟨lent, covered⟩ := alone b mem
    simpa [Booking.isLentTo, Booking.isCoveredBy] using And.intro lent covered
  unfold Ev.peerPresent
  rw [nobody]
  exact Ev.on_congr (g := id) (Sched.offerTallies_nobody tallies)

theorem Ev.of_notice {y : Sched} {n : Notice} (room : y.Room 1) :
    (Ev.of y).on (fun s => s.notice n) = Ev.of { y with notices := y.notices ++ [n] } :=
  congrArg Ev.of (Sched.notice_room n (by have := room.1; show y.notices.length < 32; omega) room.2)

/-- A peer that enters PRESENT is told of (R156). -/
theorem Ev.handPresence_enters {v : Base} {p q : Peer} {n : Nat} {s : Sched} {cause : PeerCause}
    (station : q.station = n) (present : q.presence = .present) (was : p.presence ≠ .present) (alone : s.Alone n)
    (tallies : ∀ r ∈ s.tallies, (r.id.origin == n) = false) (unplaced : q.eligible = true → s.unplaced = [])
    (room : s.Room 1) :
    (Ev.of s).handPresence v p q cause = Ev.of { s with notices := s.notices ++ [peerTold p q .goodIntervals none] } := by
  subst station
  have same : (Ev.of s).peerPresent v q.station = Ev.of s := Ev.peerPresent_alone alone tallies
  have waits : (if q.eligible then ((Ev.of s).askRetry false).finish v else Ev.of s) = Ev.of s := by
    by_cases eligible : q.eligible = true
    · rw [if_pos eligible]
      exact Ev.Idles.finishes ⟨rfl, rfl, fun _ => unplaced eligible, nofun, rfl⟩
    · exact if_neg eligible
  unfold Ev.handPresence
  rw [if_pos ⟨present, was⟩, same]
  dsimp only
  rw [waits]
  exact Ev.of_notice room

/-- A peer that becomes ABSENT is lost, and told of (R156, R174). -/
theorem Ev.handPresence_gone {v : Base} {p q : Peer} {n : Nat} {s x : Sched} {cause : PeerCause} (station : q.station = n)
    (gone : q.presence = .absent) (was : p.presence ≠ .absent) (alone : s.Alone n) (voided : s.Voided v n true x)
    (joined : v.station = .joined) (room : s.Room 1) :
    (Ev.of s).handPresence v p q cause = Ev.of { x with notices := s.notices ++ [peerTold p q cause none] } := by
  subst station
  have told : { s with notices := s.notices } = s := rfl
  obtain ⟨look, parts, idle⟩ := Ev.voidShared_voided voided joined (e := Ev.of s) (l := s.notices) told.symm rfl
  have kept : ({ x with notices := s.notices } : Sched) = x := by
    obtain ⟨e, k, t, rfl⟩ := voided.eq
    rfl
  have pending : x.pendingOutcomes = s.pendingOutcomes ∧ x.notices = s.notices := by
    obtain ⟨e, k, t, rfl⟩ := voided.eq
    exact ⟨rfl, rfl⟩
  rw [kept] at parts
  have finished : ((Ev.of s).peerLost v q.station).finish v = Ev.of x := by
    rw [Ev.peerLost, Ev.lostBookings_none alone.standsWith, parts]
    exact Ev.Idles.finishes ⟨rfl, rfl, nofun, idle, rfl⟩
  rw [Ev.handPresence_absent gone was, finished, ← pending.2]
  exact Ev.of_notice ⟨pending.2 ▸ room.1, pending.1.trans room.2⟩

/-- A ROLL that moves presence to neither end hands on a re-try at most (R106). -/
theorem Ev.handPresence_stays {v : Base} {p q : Peer} {s : Sched} {cause : PeerCause}
    (enters : ¬ (q.presence = .present ∧ p.presence ≠ .present)) (gone : q.presence ≠ .absent)
    (unplaced : q.eligible = true → p.eligible = true ∨ s.unplaced = []) :
    ((Ev.of s).handPresence v p q cause).Idles v s ∧ ((Ev.of s).handPresence v p q cause).look = false := by
  unfold Ev.handPresence
  rw [if_neg enters]
  split
  · rename_i flags
    exact ⟨⟨rfl, rfl, fun _ => (unplaced flags.2.1).resolve_left (by simpa using flags.2.2), nofun, rfl⟩, rfl⟩
  · rw [if_neg fun h => gone h.1]
    exact ⟨Ev.idles_of v s, rfl⟩

/-! ## A change of incarnation -/

/-- A peer whose incarnation is the one known hands on nothing more. -/
theorem Ev.handIncarnation_same {v : Base} {p q : Peer} {e : Ev} (same : p.incarnation = q.incarnation) :
    e.handIncarnation v p q = e := by
  unfold Ev.handIncarnation
  split
  · rfl
  · rename_i n found
    exact if_pos (same.trans found)

/-- A changed one that is not 0 voids what is shared with the peer; one of 0 loses the peer and its tally records (R155). -/
theorem Ev.handIncarnation_warm {v : Base} {p q : Peer} {m : Nat} {e : Ev} (found : q.incarnation = some m)
    (changed : p.incarnation ≠ some m) (warm : m ≠ 0) : e.handIncarnation v p q =
      ((e.voidShared v q.station false).finish v).on (Sched.peerNotice p q .incarnation (some .warm)) := by
  have kind : incKind m = .warm := if_neg warm
  unfold Ev.handIncarnation
  rw [found]
  dsimp only
  rw [if_neg changed, kind]

theorem Ev.handIncarnation_cold {v : Base} {p q : Peer} {e : Ev} (found : q.incarnation = some 0)
    (changed : p.incarnation ≠ some 0) : e.handIncarnation v p q =
      ((((e.peerLost v q.station).dropTallies q.station).finish v)).on (Sched.peerNotice p q .incarnation (some .cold)) := by
  unfold Ev.handIncarnation
  rw [found]
  dsimp only
  rw [if_neg changed]
  rfl

end Sys2Proof.Machine
end

section
/-! What a ROLL that finds its sender not ABSENT hands on, presence first and then incarnation. -/

namespace Sys2Proof.Machine

/-! ## Presence -/

/-- The notices of a change of presence (R156). -/
def presenceTold (p q : Peer) : List Notice :=
  if q.presence = .present ∧ p.presence ≠ .present then [peerTold p q .goodIntervals none]
  else if q.presence = .absent then [peerTold p q .faulty none]
  else []

/-- The state that a change of presence leaves, but for its notices. -/
def leftBy (q : Peer) (s x : Sched) : Sched := if q.presence = .absent then x else s

theorem Ev.handPresence_moves {v : Base} {p q : Peer} {n : Nat} {s x : Sched} (station : q.station = n)
    (was : p.presence ≠ .absent) (joined : v.station = .joined)
    (alone : q.presence = .present ∧ p.presence ≠ .present ∨ q.presence = .absent → s.Alone n)
    (tallies : q.presence = .present ∧ p.presence ≠ .present → ∀ r ∈ s.tallies, (r.id.origin == n) = false)
    (unplaced : q.eligible = true → p.eligible = true ∨ s.unplaced = [])
    (room : q.presence = .present ∧ p.presence ≠ .present ∨ q.presence = .absent → s.Room 1)
    (voided : q.presence = .absent → s.Voided v n true x) :
    ((Ev.of s).handPresence v p q .faulty).Idles v { leftBy q s x with notices := s.notices ++ presenceTold p q } ∧
      ((Ev.of s).handPresence v p q .faulty).look = false := by
  by_cases enters : q.presence = .present ∧ p.presence ≠ .present
  · have here : q.presence ≠ .absent := by rw [enters.1]; nofun
    have free (eligible : q.eligible = true) : s.unplaced = [] := by
      refine (unplaced eligible).resolve_left fun before => enters.2 ?_
      simp only [Peer.eligible, Bool.and_eq_true, beq_iff_eq] at before
      exact before.1.1.1.1
    have told : presenceTold p q = [peerTold p q .goodIntervals none] := if_pos enters
    have left : leftBy q s x = s := if_neg here
    rw [Ev.handPresence_enters station enters.1 enters.2 (alone (.inl enters)) (tallies enters) free (room (.inl enters)), told,
      left]
    exact ⟨Ev.idles_of v _, rfl⟩
  · by_cases gone : q.presence = .absent
    · have told : presenceTold p q = [peerTold p q .faulty none] := by
        unfold presenceTold
        rw [if_neg enters, if_pos gone]
      have left : leftBy q s x = x := if_pos gone
      rw [Ev.handPresence_gone station gone was (alone (.inr gone)) (voided gone) joined (room (.inr gone)), told, left]
      exact ⟨Ev.idles_of v _, rfl⟩
    · have told : presenceTold p q = [] := by
        unfold presenceTold
        rw [if_neg enters, if_neg gone]
      have left : leftBy q s x = s := if_neg gone
      have same : ({ leftBy q s x with notices := s.notices ++ presenceTold p q } : Sched) = s := by
        rw [told, left, List.append_nil]
      rw [same]
      exact Ev.handPresence_stays enters gone unplaced

/-! ## Incarnation -/

/-- The event after what it shares with a peer has gone. -/
def Ev.Voids (v : Base) (n : Nat) (lost : Bool) (y : Sched) (e : Ev) : Prop :=
  ∃ look, e.voidShared v n lost = { e with s := y, look := look } ∧ (look = true → y.NoLook v)

theorem Ev.Idles.voids {v : Base} {n : Nat} {lost : Bool} {s x : Sched} {l : List Notice} {e : Ev}
    (idles : e.Idles v { s with notices := l }) (voided : s.Voided v n lost x) (joined : v.station = .joined)
    (calm : e.look = false) : e.Voids v n lost { x with notices := l } :=
  Ev.voidShared_voided voided joined idles.state calm

theorem Ev.Idles.voids_again {v : Base} {n : Nat} {lost : Bool} {y : Sched} {e : Ev} (idles : e.Idles v y)
    (unshared : y.Unshared n) : e.Voids v n lost y := by
  have same : e.voidShared v n lost = e := Ev.voidShared_unshared (idles.state.symm ▸ unshared)
  obtain ⟨s, exam, retry, look, late⟩ := e
  refine ⟨look, same.trans ?_, idles.look⟩
  exact congrArg (fun s => Ev.mk s exam retry look late) idles.state

/-- A change to another incarnation than 0 (R155, R156). -/
theorem Ev.handIncarnation_warm_told {v : Base} {p q : Peer} {n m : Nat} {e : Ev} {y z : Sched} (idles : e.Idles v y)
    (station : q.station = n) (found : q.incarnation = some m) (changed : p.incarnation ≠ some m) (warm : m ≠ 0)
    (voids : e.Voids v n false z) (unplaced : z.unplaced = y.unplaced) (room : z.Room 1) :
    e.handIncarnation v p q = Ev.of { z with notices := z.notices ++ [peerTold p q .incarnation (some .warm)] } := by
  subst station
  obtain ⟨look, parts, idle⟩ := voids
  have finished : (e.voidShared v q.station false).finish v = Ev.of z := by
    rw [parts]
    exact Ev.Idles.finishes ⟨rfl, idles.exam, fun h => unplaced.trans (idles.retry h), idle, idles.late⟩
  rw [Ev.handIncarnation_warm found changed warm, finished]
  exact Ev.of_notice room

/-- A change to incarnation 0 (R155, R156, R172). -/
theorem Ev.handIncarnation_cold_told {v : Base} {p q : Peer} {n : Nat} {e : Ev} {y z : Sched} (idles : e.Idles v y)
    (station : q.station = n) (found : q.incarnation = some 0) (changed : p.incarnation ≠ some 0) (alone : y.Alone n)
    (voids : e.Voids v n true z) (unplaced : z.unplaced = y.unplaced)
    (room : z.Room ((z.tallies.filter fun r => r.id.origin == n).length + 1)) :
    e.handIncarnation v p q =
      Ev.of { z with
        tallies := z.tallies.filter fun r => !(r.id.origin == n)
        notices := z.notices ++ (z.tallies.filter fun r => r.id.origin == n).map (fun r => .orphan r.id r.outcome .originReset) ++
          [peerTold p q .incarnation (some .cold)] } := by
  subst station
  obtain ⟨look, parts, idle⟩ := voids
  let w : Sched := { z with
    tallies := z.tallies.filter fun r => !(r.id.origin == q.station)
    notices := z.notices ++
      (z.tallies.filter fun r => r.id.origin == q.station).map fun r => .orphan r.id r.outcome .originReset }
  have dropped : z.orphan .originReset (fun r => r.id.origin == q.station) = w :=
    Sched.orphan_room _ _ room.2 (by have := room.1; omega)
  have finished : ((e.peerLost v q.station).dropTallies q.station).finish v = Ev.of w := by
    rw [Ev.peerLost, Ev.lostBookings_none (idles.state.symm ▸ alone.standsWith), parts]
    refine Ev.Idles.finishes ⟨dropped, idles.exam, fun h => unplaced.trans (idles.retry h), idle, idles.late⟩
  have roomy : w.Room 1 := by
    refine ⟨?_, room.2⟩
    show (z.notices ++ _).length + 1 ≤ 32
    rw [List.length_append, List.length_map]
    have := room.1
    omega
  rw [Ev.handIncarnation_cold found changed, finished]
  exact Ev.of_notice roomy

/-! ## Both -/

/-- The notices of a change of incarnation (R156, R172). -/
def incarnationTold (p q : Peer) (m : Nat) (orphans : List Notice) : List Notice :=
  if p.incarnation = some m then []
  else (if m = 0 then orphans else []) ++ [peerTold p q .incarnation (some (if m = 0 then .cold else .warm))]

/-- The state that a ROLL leaves which finds its sender not ABSENT. -/
theorem Ev.handRoll {v : Base} {p q : Peer} {n m : Nat} {s x : Sched} (station : q.station = n) (was : p.presence ≠ .absent)
    (joined : v.station = .joined) (found : q.incarnation = some m) (settled : s.Settled)
    (alone : q.presence = .present ∧ p.presence ≠ .present ∨ q.presence = .absent ∨ (p.incarnation ≠ some m ∧ m = 0) →
      s.Alone n)
    (tallies : q.presence = .present ∧ p.presence ≠ .present → ∀ r ∈ s.tallies, (r.id.origin == n) = false)
    (unplaced : q.eligible = true → p.eligible = true ∨ s.unplaced = [])
    (room : q.presence = .present ∧ p.presence ≠ .present ∨ q.presence = .absent ∨ p.incarnation ≠ some m →
      s.Room ((s.tallies.filter fun r => r.id.origin == n).length + 2))
    (voided : q.presence = .absent ∨ p.incarnation ≠ some m →
      s.Voided v n (decide (q.presence = .absent ∨ (p.incarnation ≠ some m ∧ m = 0))) x)
    (kept : ¬ (q.presence = .absent ∨ p.incarnation ≠ some m) → x = s) :
    (((Ev.of s).handPresence v p q .faulty).handIncarnation v p q).settle v =
      { x with
        tallies := if p.incarnation ≠ some m ∧ m = 0 then s.tallies.filter (fun r => !(r.id.origin == n)) else s.tallies
        notices := s.notices ++ presenceTold p q ++ incarnationTold p q m
          ((s.tallies.filter fun r => r.id.origin == n).map fun r => .orphan r.id r.outcome .originReset) } := by
  let l := s.notices ++ presenceTold p q
  let y : Sched := { leftBy q s x with notices := l }
  let z : Sched := { x with notices := l }
  let lost := decide (q.presence = .absent ∨ (p.incarnation ≠ some m ∧ m = 0))
  have fields : x.tuners = s.tuners ∧ x.plans = s.plans ∧ x.bookings = s.bookings ∧ x.tallies = s.tallies ∧
      x.unplaced = s.unplaced ∧ x.pendingOutcomes = s.pendingOutcomes := by
    by_cases changes : q.presence = .absent ∨ p.incarnation ≠ some m
    · obtain ⟨e, k, t, rfl⟩ := (voided changes).eq
      exact ⟨rfl, rfl, rfl, rfl, rfl, rfl⟩
    · rw [kept changes]
      exact ⟨rfl, rfl, rfl, rfl, rfl, rfl⟩
  obtain ⟨tuners, plans, bookings, records, waiting, pending⟩ := fields
  have roomy (h : q.presence = .present ∧ p.presence ≠ .present ∨ q.presence = .absent) : s.Room 1 := by
    obtain ⟨few, none⟩ := room (h.imp_right .inl)
    exact ⟨by omega, none⟩
  obtain ⟨idles, calm⟩ := Ev.handPresence_moves (x := x) station was joined (fun h => alone (h.imp_right .inl)) tallies unplaced
    roomy fun gone => (decide_eq_true (p := q.presence = .absent ∨ (p.incarnation ≠ some m ∧ m = 0)) (.inl gone)) ▸ voided (.inl gone)
  have ends (w : Sched) (same : w.tuners = s.tuners ∧ w.plans = s.plans ∧ w.bookings = s.bookings) :
      (Ev.of w).settle v = w :=
    (Ev.idles_of v w).settles (settled.of_bookings same.1 same.2.1 same.2.2)
  by_cases same : p.incarnation = some m
  · have left : leftBy q s x = x := by
      unfold leftBy
      split
      · rfl
      · rename_i gone
        exact (kept fun h => h.elim gone fun changed => changed same).symm
    have result : z = { x with
        tallies := if p.incarnation ≠ some m ∧ m = 0 then s.tallies.filter (fun r => !(r.id.origin == n)) else s.tallies
        notices := l ++ incarnationTold p q m
          ((s.tallies.filter fun r => r.id.origin == n).map fun r => .orphan r.id r.outcome .originReset) } := by
      have told (o : List Notice) : incarnationTold p q m o = [] := if_pos same
      rw [told, List.append_nil, if_neg fun h => h.1 same, ← records]
    rw [Ev.handIncarnation_same (same.trans found.symm), ← result]
    rw [left] at idles
    exact idles.settles (settled.of_bookings tuners plans bookings)
  · have voids : ((Ev.of s).handPresence v p q .faulty).Voids v n lost z := by
      by_cases gone : q.presence = .absent
      · have left : leftBy q s x = x := if_pos gone
        rw [left] at idles
        exact idles.voids_again ((voided (.inl gone)).unshared.tells l)
      · have left : leftBy q s x = s := if_neg gone
        rw [left] at idles
        exact idles.voids (voided (.inr same)) joined calm
    have waits : z.unplaced = y.unplaced := by
      show x.unplaced = (leftBy q s x).unplaced
      unfold leftBy
      split
      · rfl
      · exact waiting
    have room' : z.Room ((z.tallies.filter fun r => r.id.origin == n).length + 1) := by
      obtain ⟨few, none⟩ := room (.inr (.inr same))
      refine ⟨?_, pending.trans none⟩
      have one : (presenceTold p q).length ≤ 1 := by
        unfold presenceTold
        split
        · simp
        · split <;> simp
      show (s.notices ++ presenceTold p q).length + ((x.tallies.filter _).length + 1) ≤ 32
      rw [List.length_append, records]
      omega
    by_cases cold : m = 0
    · subst cold
      have alone' : y.Alone n := by
        have here := alone (.inr (.inr ⟨same, rfl⟩))
        intro b mem
        refine here b ?_
        have kept : y.bookings = s.bookings := by
          show (leftBy q s x).bookings = s.bookings
          unfold leftBy
          split
          · exact bookings
          · rfl
        exact kept ▸ mem
      have lostTrue : lost = true := decide_eq_true (.inr ⟨same, rfl⟩)
      let orphans := (x.tallies.filter fun r => r.id.origin == n).map fun r => Notice.orphan r.id r.outcome .originReset
      let w : Sched := { x with
        tallies := x.tallies.filter fun r => !(r.id.origin == n)
        notices := l ++ orphans ++ [peerTold p q .incarnation (some .cold)] }
      have step : ((Ev.of s).handPresence v p q .faulty).handIncarnation v p q = Ev.of w :=
        Ev.handIncarnation_cold_told idles station found same alone' (lostTrue ▸ voids) waits room'
      have told : incarnationTold p q 0 orphans = orphans ++ [peerTold p q .incarnation (some .cold)] := if_neg same
      rw [step, ends w ⟨tuners, plans, bookings⟩, if_pos ⟨same, rfl⟩, ← records, told, ← List.append_assoc]
    · have z' : ((Ev.of s).handPresence v p q .faulty).Voids v n false z := by
        by_cases gone : q.presence = .absent
        · have left : leftBy q s x = x := if_pos gone
          rw [left] at idles
          exact idles.voids_again ((voided (.inl gone)).unshared.tells l)
        · have lostFalse : lost = false := decide_eq_false fun h => h.elim gone fun h => cold h.2
          exact lostFalse ▸ voids
      obtain ⟨few, none⟩ := room'
      let w : Sched := { x with notices := l ++ [peerTold p q .incarnation (some .warm)] }
      have step : ((Ev.of s).handPresence v p q .faulty).handIncarnation v p q = Ev.of w :=
        Ev.handIncarnation_warm_told idles station found same cold z' waits ⟨by omega, none⟩
      have told (o : List Notice) : incarnationTold p q m o = [peerTold p q .incarnation (some .warm)] := by
        unfold incarnationTold
        rw [if_neg same, if_neg cold, if_neg cold, List.nil_append]
      rw [step, ends w ⟨tuners, plans, bookings⟩, if_neg fun h => cold h.2, ← records, told]

end Sys2Proof.Machine
end

section
/-! A ROLL that finds its sender ABSENT, and one of the station's own number. -/

namespace Sys2Proof.Machine

/-! ## A booking that ends alone -/

/-- The state after the one booking of the table has ended, its notice queued and its entry freed. -/
def Sched.closedOut (s : Sched) (b : Booking) (time : Nat) (o : BOutcome × Reason) : Sched :=
  { s with
    bookings := []
    triggers := s.triggers.filter fun y => y.handle != b.handle
    notices := s.notices ++ [b.endedNotice time o] }

/-- The lists of a state in which nothing is planned, unplaced, referred or captured keep what they are. -/
theorem Sched.leaveLists_bare {s : Sched} {h : Nat} (plans : s.plans = ⟨[], []⟩) (rest : s.AtRest) (referrals : s.referrals = [])
    (captures : ∀ k, (s.tuners.get k).captures = []) : (s.leaveLists h).leaveSeek h = s := by
  obtain ⟨unplaced, -, seekQueue, -⟩ := rest
  have free : s.leaveCapture h = s := Sched.leaveCapture_none fun k c mem => by
    rw [captures k] at mem
    cases mem
  have same (p : Two (List PlanEntry)) (u : List Nat) (r : List Referral) (q : List SeekEntry) (hp : p = s.plans)
      (hu : u = s.unplaced) (hr : r = s.referrals) (hq : q = s.seekQueue) :
      ({ s with plans := p, unplaced := u, referrals := r, seekQueue := q } : Sched) = s := by
    subst hp hu hr hq
    rfl
  unfold Sched.leaveLists Sched.leaveSeek
  rw [free]
  refine same _ _ _ _ ?_ ?_ ?_ ?_
  · rw [plans]
    rfl
  · rw [unplaced]
    rfl
  · rw [referrals]
    rfl
  · show s.seekQueue.filter _ = _
    rw [seekQueue]
    rfl

theorem Ev.endNow_alone {v : Base} {s : Sched} {b : Booking} {o : BOutcome × Reason} (one : s.bookings = [b])
    (alive : b.state ≠ .ended) (own : b.hosted = false) (plans : s.plans = ⟨[], []⟩) (rest : s.AtRest)
    (referrals : s.referrals = []) (captures : ∀ k, (s.tuners.get k).captures = []) (room : s.Room 1)
    (spends : restores o = false) :
    ∃ x, (Ev.of s).endNow v b.handle (fun _ => o) = ({ Ev.of (s.closedOut b v.clock o) with exam := x }).askRetry false := by
  let c := b.closedAt v.clock
  let y : Sched := { s with bookings := [c] }
  let z : Sched := { s with bookings := [c.ended o], triggers := s.triggers.filter fun y => y.handle != b.handle }
  have closed : s.closeSeg b.handle v.clock = y := Sched.modB_alone one alive _
  obtain ⟨x, left⟩ := Ev.closeSeg_leaveAll_atRest (e := Ev.of s) rest v b.handle v.clock
  have lists : ((s.closeSeg b.handle v.clock).leaveLists b.handle).leaveSeek b.handle = y := by
    rw [closed]
    exact Sched.leaveLists_bare (s := y) plans rest referrals captures
  have ended : (y.modB b.handle (Booking.ended o)).disarm b.handle = z :=
    congrArg (fun t : Sched => t.disarm b.handle) (Sched.modB_alone (s := y) (b := c) rfl alive _)
  have spent : z.episodeOutcome b o = z := by
    unfold Sched.episodeOutcome
    rw [spends, Bool.and_false]
    rfl
  have recorded : (Ev.of s).recorded v b.handle v.clock true o b = { Ev.of z with exam := x } := by
    unfold Ev.recorded
    rw [left, own]
    show ({ Ev.of (Sched.episodeOutcome b o ((Sched.modB _ b.handle _).disarm b.handle)) with exam := x } : Ev) = _
    rw [show (((Ev.of s).s.closeSeg b.handle v.clock).leaveLists b.handle).leaveSeek b.handle = y from lists, ended, spent]
  have offered : z.offerOutcome b.handle = s.closedOut b v.clock o := by
    have found : z.bk b.handle = some (c.ended o) := Sched.bk_alone (s := z) (b := c.ended o) rfl
    have few : (z.pendingOutcomes.isEmpty && decide (z.notices.length < 32)) = true := by
      have := room.1
      rw [show z.pendingOutcomes = [] from room.2, decide_eq_true (show s.notices.length < 32 by omega)]
      rfl
    unfold Sched.offerOutcome
    rw [found]
    dsimp only
    rw [if_pos few]
    have gone : ([c.ended o].filter fun a => a.handle != b.handle) = [] :=
      List.filter_cons_of_neg (by simp [c, Booking.ended, Booking.closedAt])
    exact congrArg (fun l => { s with
      bookings := l
      triggers := s.triggers.filter fun y => y.handle != b.handle
      notices := s.notices ++ [b.endedNotice v.clock o] }) gone
  refine ⟨x, ?_⟩
  unfold Ev.endNow
  rw [Ev.endAt_eq v v.clock true (fun _ => o) (Sched.bk_alone (s := (Ev.of s).s) one) alive, recorded]
  exact congrArg (fun t => ({ Ev.of t with exam := x } : Ev).askRetry false) offered

/-! ## After absence -/

/-- The record that a ROLL opens (R146). -/
theorem Peer.opened_eq (v : Base) (f : RollFields) (p : Peer) :
    p.opened v f =
      { station := p.station, presence := .hearing, incarnation := some f.incarnation, lastSeq := some f.sequence,
        period := some f.period, day := some f.day, prevDay := none, flags := rollFlagsOf f.flags, history := [], good := 0,
        missing := 0, view := if v.cfg.debounce then none else some (viewOf f), candidate := some (viewOf f),
        deadline := some (v.now + firstInterval f.period) } := rfl

/-- A change after absence that is none, or WARM, does nothing (R155). -/
theorem Ev.handAfterAbsence_warm {v : Base} {p : Peer} {m : Nat} {e : Ev}
    (warm : p.incarnation = none ∨ p.incarnation = some m ∨ m ≠ 0) : e.handAfterAbsence v p m = e := by
  have no : (p.incarnation.any (· != m) && incKind m == .cold) = false := by
    rcases warm with h | h | h
    · rw [h]
      rfl
    · rw [h]
      simp
    · rw [show incKind m = .warm from if_neg h]
      simp
  unfold Ev.handAfterAbsence
  rw [no]
  rfl

theorem Ev.handAfterAbsence_cold {v : Base} {p : Peer} {e : Ev} (known : p.incarnation ≠ none)
    (changed : p.incarnation ≠ some 0) : e.handAfterAbsence v p 0 = e.coldAfterAbsence v p.station := by
  have yes : (p.incarnation.any (· != 0) && incKind 0 == .cold) = true := by
    cases incarnation : p.incarnation with
    | none => exact absurd incarnation known
    | some m =>
      have other : m ≠ 0 := fun zero => changed (zero ▸ incarnation)
      simp [incKind, other]
  unfold Ev.handAfterAbsence
  rw [if_pos yes]

/-- A COLD change after absence drops the peer's tally records where no booking has waited for it in vain (R172, R174). -/
theorem Ev.coldAfterAbsence_orphans {v : Base} {n : Nat} {s : Sched}
    (kept : ∀ b ∈ s.bookings, b.state = .lent → b.plan = .lent n → b.peerLost = false)
    (room : s.Room (s.tallies.filter fun r => r.id.origin == n).length) :
    (Ev.of s).coldAfterAbsence v n = Ev.of
      { s with
        tallies := s.tallies.filter fun r => !(r.id.origin == n)
        notices := s.notices ++ (s.tallies.filter fun r => r.id.origin == n).map fun r => .orphan r.id r.outcome .originReset } := by
  have dropped : (Ev.of s).dropTallies n = Ev.of _ :=
    congrArg Ev.of (Sched.orphan_room .originReset (fun r => r.id.origin == n) room.2 room.1)
  unfold Ev.coldAfterAbsence
  rw [dropped]
  dsimp only
  rw [Sched.pick_nobody fun b mem => ?_]
  · rfl
  · rw [Bool.eq_false_iff, Ne, Bool.and_eq_true]
    rintro ⟨lent, lost⟩
    simp only [Booking.isLentTo, Bool.and_eq_true, beq_iff_eq] at lent
    rw [kept b mem lent.1 lent.2] at lost
    cases lost

/-- And it ends a booking LENT to the peer that has (R174). -/
theorem Ev.coldAfterAbsence_ends {v : Base} {n : Nat} {s : Sched} {b : Booking} (one : s.bookings = [b])
    (lent : b.state = .lent) (plan : b.plan = .lent n) (lost : b.peerLost = true)
    (tallies : ∀ r ∈ s.tallies, (r.id.origin == n) = false) (room : s.Room 0) :
    (Ev.of s).coldAfterAbsence v n = (Ev.of s).endNow v b.handle fun _ => (.unknown, .peerLost) := by
  have nobody : s.tallies.filter (fun r => r.id.origin == n) = [] :=
    List.filter_eq_nil_iff.mpr fun r mem => by rw [tallies r mem]; nofun
  have all : s.tallies.filter (fun r => !(r.id.origin == n)) = s.tallies :=
    List.filter_eq_self.mpr fun r mem => by rw [tallies r mem]; rfl
  have still : s.orphan .originReset (fun r => r.id.origin == n) = s := by
    rw [Sched.orphan_room _ _ room.2 (by rw [nobody]; exact room.1), nobody, all]
    exact congrArg (fun l => { s with notices := l }) (List.append_nil s.notices)
  have dropped : (Ev.of s).dropTallies n = Ev.of s := congrArg Ev.of still
  have picked : s.pick (fun b => b.isLentTo n && b.peerLost) = [b.handle] := by
    have inside : (b.isLentTo n && b.peerLost) = true := by simp [Booking.isLentTo, lent, plan, lost]
    unfold Sched.pick
    rw [one, List.filter_cons_of_pos (p := fun b : Booking => b.isLentTo n && b.peerLost) inside]
    rfl
  unfold Ev.coldAfterAbsence
  rw [dropped]
  dsimp only
  rw [show (Ev.of s).s.pick (fun b => b.isLentTo n && b.peerLost) = [b.handle] from picked]
  rfl

end Sys2Proof.Machine
end

section
/-! Settles the obligation on ROLL arrivals. -/

namespace Sys2Proof.Machine

/-! ## From the record to the event -/

/-- What a heard ROLL leaves: the scheduling state, and the base with its sender's record. -/
def State.Rolls (h : FrameHead) (f : RollFields) (q : Peer) (s : State) (x : Sched) : Prop :=
  ∃ t, Happened (.rollArrival h f) s t ∧ t.sch = x ∧
    t.base = { s.base.heard with peers := s.base.heard.peers.map fun y => if y.station == h.sender then q else y }

theorem State.Hears.rolls {h : FrameHead} {f : RollFields} {p q : Peer} {s : State} {x : Sched} (hears : s.Hears h)
    (admitted : rollAdmitted f = true) (found : s.base.peer h.sender = some p) (station : q.station = h.sender)
    (taken : State.takeRoll f p { s with base := s.base.heard } = { s with base := s.base.heard.setPeer q, sch := x }) :
    s.Rolls h f q x := by
  have run : exec (.rollArrival h f) s = .next { s with base := s.base.heard.setPeer q, sch := x } := by
    rw [exec_rollArrival, State.happens_high _ _ hears.1, State.receive_heard _ hears admitted rfl rfl, ← taken]
    have here : s.base.heard.peer h.sender = some p := found
    unfold State.rollArrives
    rw [show ({ s with base := s.base.heard } : State).base.peer h.sender = some p from here]
  exact ⟨_, .of run (s.beside_of _ _), rfl, Base.setPeer_eq station⟩

theorem rollFlags_leaving (n : Nat) : (rollFlagsOf n).leaving = true ↔ n / 4 % 2 = 1 := beq_iff_eq

/-! ## A ROLL with LEAVING -/

theorem State.Hears.rolls_leftAbsent {h : FrameHead} {f : RollFields} {p : Peer} {s : State} (hears : s.Hears h)
    (admitted : rollAdmitted f = true) (found : s.base.peer h.sender = some p) (leaving : f.flags / 4 % 2 = 1)
    (absent : p.presence = .absent) : s.Rolls h f (.absentOf h.sender (some f.incarnation)) s.sch := by
  have station : p.station = h.sender := Base.peer_station found
  refine hears.rolls admitted found rfl ?_
  unfold State.takeRoll
  rw [if_pos ((rollFlags_leaving f.flags).mpr leaving), station]
  exact if_pos absent

theorem State.Hears.rolls_left {h : FrameHead} {f : RollFields} {p : Peer} {s : State} {x : Sched} (hears : s.Hears h)
    (admitted : rollAdmitted f = true) (found : s.base.peer h.sender = some p) (leaving : f.flags / 4 % 2 = 1)
    (here : p.presence ≠ .absent) (settled : s.sch.Settled) (alone : s.sch.Alone h.sender) (room : s.sch.Room 1)
    (voided : s.sch.Voided s.base h.sender true x) :
    s.Rolls h f (.absentOf h.sender (some f.incarnation))
      { x with notices := s.sch.notices ++ [.peer h.sender p.presence .absent .leaving (some f.incarnation) none false] } := by
  let q := Peer.absentOf h.sender (some f.incarnation)
  let v := s.base.heard.setPeer q
  have station : p.station = h.sender := Base.peer_station found
  have joined : v.station = .joined := by
    obtain ⟨-, -, -, joined, -, -⟩ := hears
    exact joined
  let y : Sched := { x with notices := s.sch.notices ++ [peerTold p q .leaving none] }
  have handed : (Ev.of s.sch).handPresence v p q .leaving = Ev.of y :=
    Ev.handPresence_gone (v := v) (p := p) (q := q) (n := h.sender) rfl rfl here alone voided joined room
  have still : y.Settled := by
    obtain ⟨e, k, t, rfl⟩ := voided.eq
    exact settled.of_bookings rfl rfl rfl
  have ends : ((Ev.of s.sch).handPresence v p q .leaving).settle v = y := by
    rw [handed]
    exact (Ev.idles_of v y).settles still
  refine hears.rolls admitted found rfl ?_
  unfold State.takeRoll
  rw [if_pos ((rollFlags_leaving f.flags).mpr leaving), station]
  dsimp only
  rw [if_neg here]
  exact congrArg (fun z => ({ s with base := v, sch := z } : State)) ends

/-! ## A ROLL after absence -/

theorem State.Hears.rolls_opened {h : FrameHead} {f : RollFields} {p : Peer} {s : State} {x : Sched} (hears : s.Hears h)
    (admitted : rollAdmitted f = true) (found : s.base.peer h.sender = some p) (stays : f.flags / 4 % 2 = 0)
    (absent : p.presence = .absent)
    (effect : ∀ v : Base, v.clock = s.base.clock → ((Ev.of s.sch).handAfterAbsence v p f.incarnation).settle v = x) :
    s.Rolls h f (p.opened s.base f) x := by
  have notLeaving : ¬ (rollFlagsOf f.flags).leaving = true := by
    rw [rollFlags_leaving]
    omega
  refine hears.rolls admitted found (show p.station = h.sender from Base.peer_station found) ?_
  unfold State.takeRoll
  rw [if_neg notLeaving, if_pos absent]
  exact congrArg (fun z => ({ s with base := s.base.heard.setPeer (p.opened s.base f), sch := z } : State))
    (effect (s.base.heard.setPeer (p.opened s.base f)) rfl)

theorem Ev.opened_warm {v : Base} {p : Peer} {s : Sched} {m : Nat} (settled : s.Settled)
    (warm : p.incarnation = none ∨ p.incarnation = some m ∨ m ≠ 0) :
    ((Ev.of s).handAfterAbsence v p m).settle v = s := by
  rw [Ev.handAfterAbsence_warm warm]
  exact (Ev.idles_of v s).settles settled

theorem Ev.opened_orphans {v : Base} {p : Peer} {s : Sched} {n : Nat} (settled : s.Settled) (station : p.station = n)
    (known : p.incarnation ≠ none) (changed : p.incarnation ≠ some 0)
    (kept : ∀ b ∈ s.bookings, b.state = .lent → b.plan = .lent n → b.peerLost = false)
    (room : s.Room (s.tallies.filter fun r => r.id.origin == n).length) :
    ((Ev.of s).handAfterAbsence v p 0).settle v =
      { s with
        tallies := s.tallies.filter fun r => !(r.id.origin == n)
        notices := s.notices ++ (s.tallies.filter fun r => r.id.origin == n).map fun r => .orphan r.id r.outcome .originReset } := by
  rw [Ev.handAfterAbsence_cold known changed, station, Ev.coldAfterAbsence_orphans kept room]
  exact (Ev.idles_of v _).settles (settled.of_bookings rfl rfl rfl)

theorem Ev.opened_ends {v : Base} {p : Peer} {s : Sched} {n : Nat} {b : Booking} (settled : s.Settled)
    (station : p.station = n) (known : p.incarnation ≠ none) (changed : p.incarnation ≠ some 0) (one : s.bookings = [b])
    (lent : b.state = .lent) (plan : b.plan = .lent n) (lost : b.peerLost = true) (own : b.cls ≠ .hosted) (bare : s.Bare)
    (rest : s.AtRest) (referrals : s.referrals = []) (captures : ∀ k, (s.tuners.get k).captures = [])
    (tallies : ∀ r ∈ s.tallies, (r.id.origin == n) = false) (room : s.Room 1) :
    ((Ev.of s).handAfterAbsence v p 0).settle v = s.closedOut b v.clock (.unknown, .peerLost) := by
  have alive : b.state ≠ .ended := by rw [lent]; nofun
  obtain ⟨x, ends⟩ := Ev.endNow_alone (v := v) (o := (.unknown, .peerLost)) one alive (Booking.not_hosted own) bare.1 rest
    referrals captures room rfl
  have none : s.Room 0 := ⟨by have := room.1; omega, room.2⟩
  have idle (y : Sched) (plans : y.plans = ⟨[], []⟩) (k : Tuner) : y.occupants k = [] :=
    Sched.occupants_none (by rw [plans]; cases k <;> rfl)
  let e : Ev := ({ Ev.of (s.closedOut b v.clock (.unknown, .peerLost)) with exam := x } : Ev).askRetry false
  have rests : e.Rests v := Ev.rests_of_empty rest.1 rest.2.1 (Sched.noLook_of_empty rest.2.2.1)
  have still : e.s.Settled := settled.congr rfl fun k => by
    rw [idle s bare.1 k, idle e.s bare.1 k]
  rw [Ev.handAfterAbsence_cold known changed, station, Ev.coldAfterAbsence_ends one lent plan lost tallies none, ends]
  exact Ev.settle_settled rests rfl still

/-! ## A ROLL that renews its sender's record -/

theorem State.Hears.rolls_renewed {h : FrameHead} {f : RollFields} {p : Peer} {s : State} {x : Sched} (hears : s.Hears h)
    (admitted : rollAdmitted f = true) (found : s.base.peer h.sender = some p) (stays : f.flags / 4 % 2 = 0)
    (here : p.presence ≠ .absent)
    (effect : let q := p.afterRoll s.base f
      let v := s.base.heard.setPeer q
      (((Ev.of s.sch).handPresence v p q .faulty).handIncarnation v p q).settle v = x) :
    s.Rolls h f (p.afterRoll s.base f) x := by
  have notLeaving : ¬ (rollFlagsOf f.flags).leaving = true := by
    rw [rollFlags_leaving]
    omega
  have station : (p.afterRoll s.base f).station = h.sender := by
    unfold Peer.afterRoll
    rw [Peer.settled_station, Peer.takeRoll_eq]
    exact (Base.peer_station found : p.station = h.sender)
  refine hears.rolls admitted found station ?_
  unfold State.takeRoll
  rw [if_neg notLeaving, if_neg here]
  exact congrArg (fun z => ({ s with base := s.base.heard.setPeer (p.afterRoll s.base f), sch := z } : State)) effect

/-! ## A ROLL of the station's own number -/

theorem rollArrival_own (h : FrameHead) (f : RollFields) (s : State) (admitted : rollAdmitted f = true)
    (settled : s.sch.Settled) (high : s.resetLow = false) (household : h.household = s.base.cfg.household)
    (own : h.sender = s.base.cfg.station) (station : s.base.station = .joined ∨ s.base.station = .joining)
    (idle : s.sch.attempt = none) (clear : s.base.rxFault = false)
    (seekQueue : s.sch.seekQueue = []) (tallies : s.sch.tallies = []) (room : s.sch.Room 1) :
    ∃ t, Happened (.rollArrival h f) s t ∧
      t.base = { s.base.heard with station := .isolated, joinTimer := none, leaveTimer := none, leavingSent := false } ∧
      t.sch =
        { s.sch with
          txq := [], waitingRoll := none, holds := [], lapsed := []
          notices := s.sch.notices ++ [.station .isolated .duplicate] } := by
  let u : State := { s with base := s.base.heard }
  let v : Base := { s.base.heard with station := .isolated, joinTimer := none, leaveTimer := none, leavingSent := false }
  let x : Sched := s.sch.emptyQueue.dropHolds
  let y : Sched := { x with notices := s.sch.notices ++ [.station .isolated .duplicate] }
  have weighs : ¬ (s.base.station = .detached ∨ s.base.station = .isolated) := by
    rcases station with e | e <;> simp [e]
  have received (g : State → State) :
      s.receive h { good := rollAdmitted f, isRoll := true } g = u.goIsolated := by
    unfold State.receive
    rw [State.yieldWire_idle idle]
    simp only [household, own, weighs, admitted, ne_eq, not_true_eq_false, if_false, Bool.not_true, Bool.false_eq_true, if_true]
    exact congrArg State.goIsolated (State.countFrame_good (s := { s with base := { s.base with idleBits := 0 } }) clear)
  have parted : ((Ev.of s.sch).on Sched.emptyQueue).brokerIsolated v = Ev.of x := by
    have endless : (Ev.of s.sch.emptyQueue).endSeeking v = Ev.of s.sch.emptyQueue := Ev.endSeeking_empty seekQueue
    exact congrArg (fun e : Ev => e.on Sched.dropHolds) endless
  have told : x.notice (.station .isolated .duplicate) = y :=
    Sched.notice_room (s := x) _ (by have := room.1; show s.sch.notices.length < 32; omega) room.2
  have ends : ((((Ev.of s.sch).on Sched.emptyQueue).brokerIsolated v).finish v |>.on fun x =>
      x.notice (.station .isolated .duplicate)).settle v = y := by
    rw [parted]
    refine (Ev.settle_finished (e := Ev.of x) (Ev.rests_quiet rfl rfl rfl) rfl ?_).trans told
    show (x.notice _).Settled
    rw [told]
    exact settled.of_bookings rfl rfl rfl
  have isolated : u.goIsolated = { s with base := v, sch := y } :=
    congrArg (fun z => ({ s with base := v, sch := z } : State)) ends
  have run : exec (.rollArrival h f) s = .next { s with base := v, sch := y } := by
    rw [exec_rollArrival, State.happens_high _ _ high, received, isolated]
  refine ⟨_, .of run (s.beside_of _ _), rfl, ?_⟩
  show ({ s.sch.emptyQueue.dropHolds with notices := _ } : Sched) = _
  simp only [Sched.emptyQueue, Sched.dropHolds, tallies, idle, List.map_nil]

/-! ## The obligation -/

/-- The change of presence as the notices tell it. -/
theorem presenceTold_eq {p q : Peer} {n : Nat} {m : Nat} (station : q.station = n) (incarnation : q.incarnation = some m) :
    presenceTold p q =
      if (q.presence == .present && p.presence != .present) = true then
        [.peer n p.presence .present .goodIntervals (some m) none q.eligible]
      else if (q.presence == .absent) = true then [.peer n p.presence .absent .faulty (some m) none false]
      else [] := by
  unfold presenceTold peerTold
  rw [station, incarnation]
  have enters_iff : (q.presence == .present && p.presence != .present) = true ↔
      q.presence = .present ∧ p.presence ≠ .present := by simp
  simp only [enters_iff, beq_iff_eq]
  by_cases enters : q.presence = .present ∧ p.presence ≠ .present
  · rw [if_pos enters, if_pos enters, enters.1]
  · rw [if_neg enters, if_neg enters]
    by_cases gone : q.presence = .absent
    · rw [if_pos gone, if_pos gone, gone, Peer.not_eligible_of_absent gone]
    · rw [if_neg gone, if_neg gone]

theorem incarnationTold_eq {p q : Peer} {n m : Nat} (station : q.station = n) (incarnation : q.incarnation = some m)
    (orphans : List Notice) :
    incarnationTold p q m orphans =
      if (p.incarnation == some m) = true then []
      else (if (!(p.incarnation == some m) && m == 0) = true then orphans else []) ++
        [.peer n p.presence q.presence .incarnation (some m) (some (if m = 0 then .cold else .warm)) q.eligible] := by
  unfold incarnationTold peerTold
  rw [station, incarnation]
  by_cases same : p.incarnation = some m
  · simp [same]
  · have other : (p.incarnation == some m) = false := beq_eq_false_iff_ne.mpr same
    rw [if_neg same, other]
    by_cases cold : m = 0 <;> simp [cold]

/-- Settles O52: a ROLL by what it finds in its sender's record, and one of the station's own number. -/
theorem rollArrival : Obligations.RollArrival := by
  intro h f p s admitted settled v flags view deadline absent leaves ofSender orphans alone voided
  refine ⟨fun hears found => ⟨fun leaving => ⟨fun gone => ?_, fun here with' room x void => ?_⟩, fun stays gone => ?_,
    fun stays here => ?_⟩, fun high household own station idle clear _ seekQueue tallies _ room => ?_⟩
  · exact hears.rolls_leftAbsent admitted found leaving gone
  · exact hears.rolls_left admitted found leaving here settled with' room void
  · intro opened
    have station : p.station = h.sender := Base.peer_station found
    have record : p.opened s.base f = opened := by
      rw [Peer.opened_eq, station]
      rfl
    have opens {x : Sched} (effect : ∀ v : Base, v.clock = s.base.clock →
        ((Ev.of s.sch).handAfterAbsence v p f.incarnation).settle v = x) : leaves opened x :=
      record ▸ hears.rolls_opened admitted found stays gone effect
    refine ⟨fun warm => opens fun v _ => Ev.opened_warm settled warm, fun known changed cold => ⟨fun kept room => ?_,
      fun b one lent plan lost own bare rest referrals captures tallies room => ?_⟩⟩
    · refine opens fun v _ => ?_
      rw [cold]
      exact Ev.opened_orphans settled station known changed kept (by rw [← List.length_map]; exact room)
    · refine opens fun v clock => ?_
      rw [cold, Ev.opened_ends settled station known changed one lent plan lost own bare rest referrals captures tallies room,
        clock]
      rfl
  · intro same cold skewed jumped renewed q enters gone moves restarts with' none eligible room x void
    have record : p.afterRoll s.base f = q := by
      unfold Peer.afterRoll
      rw [Peer.takeRoll_eq]
      rfl
    have station : q.station = h.sender :=
      (Peer.settled_station _ _ renewed).trans (Base.peer_station found : p.station = h.sender)
    have incarnation : q.incarnation = some f.incarnation := Peer.settled_incarnation _ _ renewed
    have enters_iff : enters = true ↔ q.presence = .present ∧ p.presence ≠ .present := by simp [enters]
    have gone_iff : gone = true ↔ q.presence = .absent := by simp [gone]
    have changed_iff : (!same) = true ↔ p.incarnation ≠ some f.incarnation := by simp [same]
    have cold_iff : cold = true ↔ p.incarnation ≠ some f.incarnation ∧ f.incarnation = 0 := by simp [cold, same]
    have tallies : (if cold then s.sch.tallies.filter (fun y => !ofSender y) else s.sch.tallies) =
        if p.incarnation ≠ some f.incarnation ∧ f.incarnation = 0 then s.sch.tallies.filter (fun r => !(r.id.origin == h.sender))
        else s.sch.tallies := ite_congr (propext cold_iff) (fun _ => rfl) fun _ => rfl
    have told : s.sch.notices ++ moves ++ restarts =
        s.sch.notices ++ presenceTold p q ++ incarnationTold p q f.incarnation orphans := by
      rw [presenceTold_eq station incarnation, incarnationTold_eq station incarnation]
    have changes_iff : (gone || !same) = true ↔ q.presence = .absent ∨ p.incarnation ≠ some f.incarnation := by
      rw [Bool.or_eq_true, gone_iff, changed_iff]
    have lost : (gone || cold) =
        decide (q.presence = .absent ∨ (p.incarnation ≠ some f.incarnation ∧ f.incarnation = 0)) := by
      rw [Bool.eq_iff_iff, Bool.or_eq_true, gone_iff, cold_iff, decide_eq_true_iff]
    have joined : s.base.station = .joined := by
      obtain ⟨-, -, -, joined, -, -⟩ := hears
      exact joined
    rw [tallies, told]
    refine record ▸ hears.rolls_renewed admitted found stays here ?_
    dsimp only
    rw [record]
    refine Ev.handRoll station here joined incarnation settled (fun met => with' ?_) (fun met => none (enters_iff.mpr met)) eligible
      (fun met => ?_) (fun changes => ?_) fun unchanged => ?_
    · rw [Bool.or_eq_true, Bool.or_eq_true, enters_iff, gone_iff, cold_iff, or_assoc]
      exact met
    · have few := room (by
        rw [Bool.or_eq_true, Bool.or_eq_true, enters_iff, gone_iff, changed_iff, or_assoc]
        exact met)
      rw [← List.length_map (f := fun r : TallyRec => Notice.orphan r.id r.outcome .originReset)]
      exact few
    · rw [if_pos (changes_iff.mpr changes), lost] at void
      exact void
    · rwa [if_neg (mt changes_iff.mp unchanged)] at void
  · exact rollArrival_own h f s admitted settled high household own station idle clear seekQueue tallies room

end Sys2Proof.Machine
end
